-- ==== Sys2Proof/Word.lean ====
section
/-! DEFINITION. The word types of the model: bytes, 32-bit registers, the 64-bit beat count,
and the addresses of tiles and tile-decks (R3, R449). -/

namespace Sys2Proof

/-- One byte. -/
abbrev Byte := BitVec 8

/-- One register or message word (R354, R545). -/
abbrev Word := BitVec 32

/-- The beat count (R264). -/
abbrev Beat := BitVec 64

/-- A mailbox page: consignors 0–15, and 16 (0x10) for the privileged mailbox (R351). -/
abbrev Mb := Fin 17

/-- A sparse map from numbers: pairs with strictly rising keys, no pair holding the default
value of its map (the canonical form of `Machine/Sparse.lean`). -/
abbrev Sparse (V : Type) := List (Nat × V)

/-- A tile, addressed core.string.tile with the LOGICAL core number (R3). -/
structure TileAddr where
  core : Fin 32
  string : Fin 12
  tile : Fin 16
  deriving DecidableEq, Repr

/-- A tile-deck, addressed core.string.tile:deck with the LOGICAL core number (R3). -/
structure DeckAddr where
  core : Fin 32
  string : Fin 12
  tile : Fin 16
  deck : Fin 4
  deriving DecidableEq, Repr

end Sys2Proof
end

