-- ==== Sys2Proof/Syntax.lean ====
section
/-! DEFINITION. The commands of the block: one constructor of `Instr` per row of
spec/opcode_table.json, with the operand structures they carry.  A row the device's
environment causes (a pin, a measured value, an elapsed time) carries what the
environment supplies; everything else the meaning reads from the state. -/

namespace Sys2Proof

/-- Who runs a leg: the logical core, the engagement, the circuit index k and the leg's index
within its itinerary (R273, R295). -/
structure LegCtx where
  core : Fin 32
  eng : Fin 64
  circuit : Nat
  leg : BitVec 16
  deriving DecidableEq, Repr

/-- STRIKE body (R273). -/
structure StrikeLeg where
  string : BitVec 4
  tmask : BitVec 16
  deck : Fin 4
  aw : BitVec 2
  slot : BitVec 5
  buf : Fin 2
  ofmt : BitVec 4
  part : Bool
  oaddr : BitVec 16
  rgrp : BitVec 8
  deriving DecidableEq, Repr

/-- SELECT body (R273). -/
structure SelectLeg where
  string : BitVec 4
  tmask : BitVec 16
  deck : Fin 4
  deriving DecidableEq, Repr

/-- REDUCE body (R273). -/
structure ReduceLeg where
  rgrp : BitVec 8
  level : Bool
  twin : Bool
  nin : BitVec 6
  ofmt : BitVec 4
  dest : Bool
  oaddr : BitVec 16
  nout : BitVec 10
  acc : Bool
  iaddr : BitVec 16
  deriving DecidableEq, Repr

/-- Where a packed operand comes from: its packed region and the first packing block (R241, R248). -/
structure PackRef where
  region : Nat
  blk : Nat
  deriving DecidableEq, Repr

/-- Matrix descriptor (R273). `rows` and `cols` are the operands' row and column counts (R207); `zA` is the zero point z_a of an INT8
activation that the vector unit left no record of; `packA`, `packB` say which operands are packed, and `stripA`, `stripB` where their
companion strips lie: the descriptor names no field for these (log 20). -/
structure MatrixDesc where
  aAddr : Word
  bAddr : Word
  cAddr : Word
  scaleAddr : Word
  kt : Nat
  t : Nat
  fmtA : BitVec 4
  fmtB : BitVec 4
  out : BitVec 4
  cast : Bool
  shadow : Bool
  zW : Byte
  zA : Byte
  sAct : Word
  rows : Nat
  cols : Nat
  packA : Option PackRef
  packB : Option PackRef
  stripA : Word
  stripB : Word
  deriving DecidableEq, Repr

/-- Attention descriptor (R273). `ring` is the number of block slots of the frame ring, `pack` and `stripAddr` the packed
region of the cache and the ring of its packing strips, which the descriptor names no field for (log 20). -/
structure AttnDesc where
  qAddr : Word
  kvAddr : Word
  sumAddr : Word
  newAddr : Word
  oAddr : Word
  nblk : Nat
  last : Nat
  g : Nat
  d : Nat
  fmt : BitVec 4
  out : BitVec 4
  sumb : Nat
  sigma : Word
  ring : Nat
  pack : Option PackRef
  stripAddr : Word
  deriving DecidableEq, Repr

/-- Vector descriptor and the element count N of the VECTOR body (R273). `src2` is the third
operand of fma and select, which the descriptor names no field for (log 21). -/
structure VecDesc where
  src0 : Word
  src1 : Word
  src2 : Word
  dst : Word
  param0 : Word
  param1 : Word
  fmtIn : BitVec 4
  fmtOut : BitVec 4
  mode : Byte
  win : Byte
  n : Nat
  deriving DecidableEq, Repr

/-- Porter descriptor (R307). -/
structure PorterDesc where
  op : Byte
  strip : Bool
  packed : Bool
  summary : Bool
  lane : Fin 8
  string : BitVec 4
  tmask : BitVec 16
  buf : Fin 2
  src : Nat
  dst : Nat
  len : Nat
  rows : Nat
  sstride : Nat
  dstride : Nat
  region : Nat
  sumb : Nat
  blk : Nat
  stripAddr : Nat
  sumAddr : Nat
  tdev : Fin 64
  tcore : BitVec 8
  d : Nat
  sstrip : Nat
  deriving DecidableEq, Repr

/-- PORTER body with its descriptor (R273). `dl` is the deadline in beats from circuit start. -/
structure PorterLeg where
  chan : Fin 4
  desc : PorterDesc
  dl : Nat
  late : BitVec 2
  deriving DecidableEq, Repr

/-- CONVOY body with its descriptor (R273). -/
structure ConvoyLeg where
  net : BitVec 2
  way : BitVec 4
  desc : PorterDesc
  nslot : Nat
  deriving DecidableEq, Repr

/-- The body of a leg, by class (R273). -/
inductive LegBody where
  | strike (l : StrikeLeg)
  | select (l : SelectLeg)
  | reduce (l : ReduceLeg)
  | porter (l : PorterLeg)
  | matrix (d : MatrixDesc)
  | attend (d : AttnDesc)
  | vector (vop : Byte) (d : VecDesc)
  | convoy (l : ConvoyLeg)
  deriving DecidableEq, Repr

/-- One leg of an itinerary: its ISSUE in core cycles from the circuit start, and its body (R273). -/
structure Leg where
  issue : Nat
  body : LegBody
  deriving DecidableEq, Repr

/-- A block on a deck (the deck record's block descriptor, R169). -/
structure BlockDesc where
  layerId : BitVec 16
  firstRow : Nat
  rowCount : Nat
  nout : Nat
  mask : Word
  deriving DecidableEq, Repr

/-- A deck's weight format code (FMT of TIL_DECK_STAT, R55). -/
inductive WFmt where
  | unused
  | w8
  | w4
  | wt
  deriving DecidableEq, Repr

/-- Where the part of a layer's shadow copy that a deck holds lies in the engagement's reservation: the region of its B operand tiles with the first
block of the deck's part, cs_w strips and scale vector (R224). Decks of one column block share strips and scales. -/
structure ShadowRef where
  region : Nat
  blk : Nat
  strips : Nat
  scales : Nat
  deriving DecidableEq, Repr

/-- One tile-deck of a placement. `parts` gives, for each block, its row block and column block of the layer (R43); `twin`
names the other copy of a twinned block (R46). -/
structure PlanDeck where
  addr : DeckAddr
  fmt : WFmt
  pmode : BitVec 2
  blocks : List BlockDesc
  parts : List (Nat × Nat)
  twin : Option DeckAddr
  shadow : Option ShadowRef
  deriving DecidableEq, Repr

/-- One core's itinerary of a placement: the Waystation address its image is written at, the image
length in bytes and its legs (R272). -/
structure PlanItin where
  core : Fin 32
  base : Nat
  len : Nat
  legs : List Leg
  deriving DecidableEq, Repr

/-- A packed or protected region of a placement (R238). -/
structure PlanRegion where
  region : Nat
  fmt : BitVec 4
  slot : BitVec 2
  kv : Bool
  prot : Bool
  base : Nat
  nblk : Nat
  deriving DecidableEq, Repr

/-- Link slots that a Huazan port's slot logic receives for an engagement (R272, R304, R421): the first slot, in the
sender's beats from the circuit start, their number, and where the payload goes: a Waystation core, address and length, or
nowhere for the control slot, which carries the circuit word. The spec gives device units no leg class of their own (log 125). -/
structure PlanLink where
  port : Fin 8
  first : Nat
  n : Nat
  dest : Option (Fin 32 × Nat × Nat)
  deriving DecidableEq, Repr

/-- What Mladbin Resident's placement of one engagement asks for (R388–R392). The algorithm that finds
it is not in the spec; the checks it must pass are. -/
structure Plan where
  period : Nat
  anchor : Beat
  decks : List PlanDeck
  wsPages : List (Fin 32 × Nat × Nat)
  smPages : Nat
  demand : List (BitVec 8 × Nat)
  itins : List PlanItin
  links : List PlanLink
  regions : List PlanRegion
  tracked : Nat
  deriving DecidableEq, Repr

/-- How the host reaches a mailbox page: its BAR0 page or alias, or BAR2, on an IDE stream with the T bit or
not (R352, R415, R550). -/
inductive PageAccess where
  | bar0
  | bar2 (ide : Bool)
  deriving DecidableEq, Repr

/-- An SPDM transport (R441). -/
inductive SpdmPort where
  | tunnel (c : Fin 16)
  | doe
  | mctp
  deriving DecidableEq, Repr

/-- A management role (R459). -/
inductive Role where
  | monitor
  | admin
  deriving DecidableEq, Repr

/-- The header of an Oluolawell image offered for update (R480). -/
structure ImageHdr where
  magic : Word
  version : Word
  build : Word
  svn : Word
  len : Nat
  digest : BitVec 384
  sigOk : Bool
  deriving DecidableEq, Repr

/-- A link frame as it arrives, before decoding: the symbols in error (R420 corrects up to 7), FTYPE,
CTRL, the quarter tag of the preceding group, and the 500 payload bytes (R420). -/
structure Frame where
  symErrs : Nat
  ctrl : BitVec 64
  tagp : Word
  payload : List Byte
  deriving DecidableEq, Repr

/-- The registers with a lock bit (R553). -/
inductive LockReg where
  | almCfg
  | hzlRoute
  | asyCalCfg
  | ldgCfg
  | bstEccCfg
  | rstCfg
  | tolCfg
  deriving DecidableEq, Repr

/-- A monitored rail (R523). -/
inductive Rail where
  | vcore
  | vaux
  | vsb
  deriving DecidableEq, Repr

/-- What a codeword read meets: the error value of each of its 40 symbols, or, where there is none, a data bus whose
third retry failed (R323, R329). -/
abbrev CwErr := Option (List (BitVec 16))

/-- The debug port's targets (R457). -/
inductive DebugTarget where
  | waystation (core : Fin 32) (addr : Nat)
  | stacked (pa : Nat)
  | legTrace (core : Fin 32)
  | factorHalt
  | factorRun
  | factorStep
  | factorReg
  deriving DecidableEq, Repr

/-- A vendor-defined SPDM request (R415, R441, R459). -/
inductive VendorReq where
  | ideKm (stream : Fin 5) (ok : Bool)
  | tdispLock
  | tdispStart
  | tdispStop
  | enrolFirst (key : BitVec 384)
  | other
  deriving DecidableEq, Repr

/-- An SPDM request as Customs decodes it from its bytes (R441). `other` is every request that R441 does not list. -/
inductive SpdmReq where
  | other
  | getVersion
  | getCapabilities
  | negotiateAlgorithms (suiteOffered : Bool)
  | getDigests
  | getCertificate (slot : Fin 8) (offset len : Nat)
  | challenge (slot : Fin 8) (nonce : BitVec 256)
  | getMeasurements (index : Byte) (sign : Bool) (nonce : BitVec 256)
  | keyExchange (slot : Fin 8) (mutAuth : Bool) (pub : BitVec 768)
  | finish (session : Word) (leafKey : List Byte) (sigOk : Bool)
  | heartbeat (session : Word)
  | keyUpdate (session : Word)
  | endSession (session : Word)
  | setCertificate (slot : Fin 8) (chain : List Byte)
  | chunkSend (handle seqNo : Nat) (last : Bool) (data : List Byte)
  | chunkGet (handle seqNo : Nat)
  | vendorDefined (session : Word) (req : VendorReq)
  deriving DecidableEq, Repr, Inhabited

/-- The commands: one constructor per row of spec/opcode_table.json, in the table's order. -/
inductive Instr where
  -- mailbox messages: the Factor takes the message at WMARK of the named mailbox
  | hello (mb : Mb)
  | admitModel (mb : Mb)
  | placementCommit (eng : Fin 64) (plan : Plan)
  | release (mb : Mb)
  | rebind (mb : Mb) (fromPlan toPlan : Plan)
  | programWaybill (mb : Mb)
  | waybillSegment (eng lead : Fin 64) (bytes : List Byte)
  | waybillReport (eng : Fin 64) (dev : Fin 64) (status : Byte) (done skipped : Nat)
  | verifyDecks (mb : Mb)
  | seal (mb : Mb)
  | unseal (mb : Mb)
  | eraseDecks (mb : Mb)
  | submit (mb : Mb)
  | cancel (mb : Mb)
  | queryLedger (mb : Mb)
  | queryHealth (mb : Mb)
  | readErrorLedger (mb : Mb)
  | fenceCore (mb : Mb)
  | unfenceCore (mb : Mb) (checkOk : Bool)
  | spdmTunnel (mb : Mb)
  | keyDeliver (mb : Mb)
  | powerHint (mb : Mb)
  | debugConsent (mb : Mb)
  | resetEngagement (mb : Mb)
  | undefinedOpcode (mb : Mb)
  -- mailbox pages and the shared window
  | mbxInDb (via : PageAccess) (page : Mb) (value : Word)
  | mbxOutAck (via : PageAccess) (page : Mb) (value : Word)
  | inboundSlotWrite (via : PageAccess) (page : Mb) (outbound : Bool) (slot : Fin 64) (word : Fin 16) (value : Word)
  | crst (via : PageAccess) (page : Mb)
  | mbxClrErr (via : PageAccess) (page : Mb)
  | mbxGranReq (via : PageAccess) (page : Mb) (value : Word)
  | mbxGranWrite (granule : Fin 65536) (value : Word)
  -- clearing registers; `inc` is what the same beat or cycle adds after the clear
  | tilClrOvf (t : TileAddr) (inc : Nat)
  | tilClrClip (t : TileAddr) (incDense incLimit : Nat)
  | corClrNan (core : Fin 32) (inc : Nat)
  | corClrSat (core : Fin 32) (inc : Nat)
  | clrMe (core : Fin 32) (incSat incNan : Nat)
  | clrAtt (core : Fin 32) (incSubst incSkip : Nat)
  | clrStall (core : Fin 32) (incHolds incGiveup : Nat)
  | xpkClrOvf (core : Fin 32) (inc : Nat)
  | xpkClrCrc (core : Fin 32) (inc : Nat)
  | clrLate (core : Fin 32) (inc : Nat)
  | clrTail (core : Fin 32) (inc : Nat)
  | prtStgClr
  | hzlClrErr (port : Fin 8) (incUe incTag incLost : Nat)
  | hzlClrRty (port : Fin 8) (incNak incReplay : Nat)
  | bucketOvfClear (stack : Fin 2)
  | ueLogRemove
  | ptlInjArm (value : Word)
  | violLogRemove
  | evict
  | rstCtlWarm (key : Byte)
  | rstCtlCold (key : Byte)
  | drvFaultClear (core : Fin 32)
  | bstWarnClear
  | lockSet (reg : LockReg) (value : Word)
  | almBeatLoRead
  | registerWrite (offset : BitVec 26) (value : Word) (be : BitVec 4)
  | unprivilegedAccess (offset : BitVec 26) (write : Bool) (req : BitVec 16)
  | bar4Read (addr : Word) (len : Nat) (ide : Bool) (req : BitVec 16)
  | bar4Write (addr : Word) (data : List Byte) (ide : Bool) (poisoned : Bool) (req : BitVec 16)
  | configRequest (power : Option Bool)
  -- the boot store
  | bstProgram (stores : List (Nat × Word))
  | bstErase (stores : List (Nat × Word))
  | bstSuspend (stores : List (Nat × Word))
  | bstResume (stores : List (Nat × Word))
  | bstAbort (stores : List (Nat × Word))
  | bstProgramDone
  | eraseSegmentEnd (last : Bool) (verifyOk : Bool)
  | bstArrayRead (offset : BitVec 26) (bitErrs : Nat) (fetch taken : Bool)
  | flashRefresh
  | firmwareUpdate (client : BitVec 384) (hdr : ImageHdr)
  | svnFuseRaise (client : BitVec 384)
  | factorReady
  | factorResume
  -- the Almanac
  | pllLock
  | epochBoundary
  | alignSend
  | align (port : Fin 8) (body : BitVec 60)
  | epochInEdge (edgeBeat : Beat)
  | referenceLost (fallbackValid : Bool)
  | relock
  -- circuits and Drovers
  | commit (eng : Fin 64) (circuit : Nat)
  | circuitStart (core : Fin 32) (eng : Fin 64) (circuit : Nat) (word : Option (BitVec 64))
  | bankSwap (eng : Fin 64)
  | droverWatchdog (core : Fin 32) (eng : Fin 64) (leg : BitVec 16)
  -- legs
  | strike (ctx : LegCtx) (leg : StrikeLeg)
  | select (ctx : LegCtx) (leg : SelectLeg)
  | reduce (ctx : LegCtx) (leg : ReduceLeg)
  | matrix (ctx : LegCtx) (d : MatrixDesc)
  | attend (ctx : LegCtx) (d : AttnDesc)
  | vecAdd (ctx : LegCtx) (d : VecDesc)
  | vecSub (ctx : LegCtx) (d : VecDesc)
  | vecMul (ctx : LegCtx) (d : VecDesc)
  | vecFma (ctx : LegCtx) (d : VecDesc)
  | vecMin (ctx : LegCtx) (d : VecDesc)
  | vecMax (ctx : LegCtx) (d : VecDesc)
  | vecAbs (ctx : LegCtx) (d : VecDesc)
  | vecCompare (ctx : LegCtx) (d : VecDesc)
  | vecSelect (ctx : LegCtx) (d : VecDesc)
  | vecConvert (ctx : LegCtx) (d : VecDesc)
  | vecQuantise (ctx : LegCtx) (d : VecDesc)
  | vecExp (ctx : LegCtx) (d : VecDesc)
  | vecExp2 (ctx : LegCtx) (d : VecDesc)
  | vecLog2 (ctx : LegCtx) (d : VecDesc)
  | vecReciprocal (ctx : LegCtx) (d : VecDesc)
  | vecRsqrt (ctx : LegCtx) (d : VecDesc)
  | vecSqrt (ctx : LegCtx) (d : VecDesc)
  | vecSigmoid (ctx : LegCtx) (d : VecDesc)
  | vecTanh (ctx : LegCtx) (d : VecDesc)
  | vecSilu (ctx : LegCtx) (d : VecDesc)
  | vecGeluTanh (ctx : LegCtx) (d : VecDesc)
  | vecGeluErf (ctx : LegCtx) (d : VecDesc)
  | vecRotary (ctx : LegCtx) (d : VecDesc)
  | vecSum (ctx : LegCtx) (d : VecDesc)
  | vecReduceMax (ctx : LegCtx) (d : VecDesc)
  | vecReduceMin (ctx : LegCtx) (d : VecDesc)
  | vecSumOfSquares (ctx : LegCtx) (d : VecDesc)
  | vecMinAndMax (ctx : LegCtx) (d : VecDesc)
  | vecDbf8Encoding (ctx : LegCtx) (d : VecDesc)
  | vecRmsnorm (ctx : LegCtx) (d : VecDesc)
  | vecLayernorm (ctx : LegCtx) (d : VecDesc)
  | vecSoftmax (ctx : LegCtx) (d : VecDesc)
  | vecScaleTracker (ctx : LegCtx) (d : VecDesc)
  | vecInputPlaneBundles (ctx : LegCtx) (d : VecDesc) (tag : BitVec 16)
  -- Porters
  | frameMulticast (ctx : LegCtx) (leg : PorterLeg)
  | waystationCopy (ctx : LegCtx) (leg : PorterLeg)
  | roadsConvoy (ctx : LegCtx) (leg : ConvoyLeg)
  | linkConvoy (ctx : LegCtx) (leg : ConvoyLeg)
  | stackedMemoryRead (ctx : LegCtx) (leg : PorterLeg)
  | readDataArrival (core : Fin 32) (index : Nat) (bytes : Nat) (errs : List (Nat × CwErr))
  | stackedMemoryWrite (ctx : LegCtx) (leg : PorterLeg) (replay : Bool)
  | kvBlockWrite (ctx : LegCtx) (leg : PorterLeg)
  | stackedMemoryCopy (eng : Fin 64) (chan : Fin 8) (desc : PorterDesc)
  | sharedWindowMove (eng : Fin 64) (chan : Fin 8) (desc : PorterDesc) (toWindow : Bool)
  | staticRegionPack (eng : Fin 64) (chan : Fin 8) (desc : PorterDesc)
  | writeDrain (err : CwErr)
  | deadline (core : Fin 32) (index : Nat)
  | hold (port : Option (Fin 8)) (body : BitVec 60)
  | holdStart (eng : Fin 64)
  | consignmentComplete (consignor : Fin 16) (qslot : BitVec 8) (outBytes : Nat)
  | msixCoalesceExpiry (page : Mb)
  -- the Assayer
  | tempRead (t : TileAddr) (quarterDeg : Nat)
  | calibration (d : DeckAddr)
  | coefficientWrite (d : DeckAddr)
  | sweep (d : DeckAddr)
  | findingLocate (d : DeckAddr) (group : Fin 32) (openCols : List Nat)
  | repairReprogram (seq : Nat)
  | spareSubstitute (seq : Nat)
  | neighbourAdjust (seq : Nat)
  | closingSweep (seq : Nat)
  -- programming
  | programDeck (d : DeckAddr)
  | programLoop (d : DeckAddr) (row : Nat)
  | journalPulse (d : DeckAddr)
  | deckErase (d : DeckAddr)
  | eraseLoop (d : DeckAddr) (verified : Bool)
  | programmingResumption
  -- stacked memory protection
  | patrolVisit (stack : Fin 2) (err : CwErr) (validCopies : BitVec 3)
  | bucketLeak (stack : Fin 2)
  | phyGroupLost (stack : Fin 2) (group : Fin 10)
  | stackBringup (fail0 fail1 : Bool)
  -- links
  | ownedSlotFrame (port : Fin 8) (eng : Fin 64) (circuit slot : Nat) (f : Frame)
  | unownedDataFrame (port : Fin 8) (f : Frame)
  | unownedReplayFrame (port : Fin 8) (f : Frame)
  | idleFrame (port : Fin 8) (f : Frame)
  | ack (port : Fin 8) (body : BitVec 60)
  | ackSend (port : Fin 8)
  | nak (port : Fin 8) (body : BitVec 60)
  | rekey (port : Fin 8) (body : BitVec 60)
  | lostn (port : Fin 8) (body : BitVec 60)
  | portLost (port : Fin 8)
  | portTrain (port : Fin 8) (phase : Nat) (ok : Bool) (peer : Fin 64) (peerPort : Fin 8) (peerVersion : Word) (roundTrip : Nat)
  | portRetry (port : Fin 8)
  | wakePatternDetect (port : Fin 8)
  | routeFormation (nodes : List (Fin 64 × Word × List (Fin 8 × Fin 64 × Nat)))
  -- host link
  | perstN (asserted : Bool)
  | flr
  | hotReset
  | pcieFatalError
  | tdiError
  | ideFailure
  -- SPDM
  | getVersion (p : SpdmPort)
  | getCapabilities (p : SpdmPort)
  | negotiateAlgorithms (p : SpdmPort) (suiteOffered : Bool)
  | getDigests (p : SpdmPort)
  | getCertificate (p : SpdmPort) (slot : Fin 8) (offset len : Nat)
  | challenge (p : SpdmPort) (slot : Fin 8) (nonce : BitVec 256)
  | getMeasurements (p : SpdmPort) (index : Byte) (sign : Bool) (nonce : BitVec 256)
  | keyExchange (p : SpdmPort) (slot : Fin 8) (mutAuth : Bool) (pub : BitVec 768)
  | finish (p : SpdmPort) (session : Word) (leafKey : List Byte) (sigOk : Bool)
  | heartbeat (p : SpdmPort) (session : Word)
  | keyUpdate (p : SpdmPort) (session : Word)
  | endSession (p : SpdmPort) (session : Word)
  | setCertificate (p : SpdmPort) (slot : Fin 8) (chain : List Byte)
  | chunkSend (p : SpdmPort) (handle seqNo : Nat) (last : Bool) (data : List Byte)
  | chunkGet (p : SpdmPort) (handle seqNo : Nat)
  | vendorDefinedRequest (p : SpdmPort) (session : Word) (req : VendorReq)
  -- SMBus and management
  | smbusBlockRead (address : BitVec 7) (command : Byte) (write : Bool) (pecOk : Bool)
  | smbusMctp (address : BitVec 7) (eid : Option Byte) (pecOk : Bool)
  | smbusAddressWake (address : BitVec 7)
  | mgmtTlsConnect (key : BitVec 384) (suiteOk : Bool)
  | mgmtEnrol (client : BitVec 384) (key : BitVec 384) (role : Role)
  | mgmtEvict (client : BitVec 384)
  | mgmtReset (client : BitVec 384) (cold : Bool)
  | mgmtDebugEnable (client : BitVec 384)
  | mgmtPowerRequest (client : BitVec 384) (target : BitVec 2)
  -- tenancy, tamper and resets
  | tenantSwitch
  | tamper (lowNs : Nat)
  | powerOnReset (vsbLost : Bool)
  | rstNInput (lowNs : Nat)
  | factorWatchdog
  | thermalShutdown
  | routeResetRequest (sender : Fin 64) (cold : Bool)
  | stretchEnd
  | optionLoading (smba : BitVec 2) (recovN : Bool)
  -- power
  | waits
  | powerEntryComplete
  | targetTrek
  | hostPcieWake
  | epochTimerWake
  | campExit
  | haltIdleTimer
  | supplyWarning (rail : Rail)
  | supplyValid (rail : Rail)
  | ivrStart (phys : Fin 34) (shorted : Bool)
  | pumpStart (phys : Fin 34) (string : Fin 12) (shorted : Bool)
  | regulatorLockout (phys : Fin 34) (pump : Option (Fin 12))
  | varrStep (phys : Fin 34) (up : Bool)
  | laneSupplyStep (port : Fin 8) (sleep : Bool)
  | tollSample (quarterWatts : Nat)
  | tollWindowEnd (hundredMs : Bool)
  | coreFence (core : Fin 32) (cause : BitVec 4) (plans : List (Fin 64 × Plan))
  | spareTakeover (core : Fin 32)
  | powerHintExpiry
  | holdoverTimeout
  | heartbeatTimeout (p : SpdmPort) (session : Word)
  | debugPortAccess (target : DebugTarget)
  | smbusEndpointReady
  deriving DecidableEq, Repr

end Sys2Proof
end

