-- ==== Sys2Proof/Config.lean ====
section
/-! DEFINITION. What an implementation fixes and the free values: opaque constants without a
body, which no proof can evaluate.  A value the spec leaves open is one of these, applied to
the operands it depends on or to the counter `State.free`. -/

namespace Sys2Proof.Config

/-! ## Analogue values the spec bounds only statistically (R93–R98, log 3) -/

/-- Error of class Strike of one sampled charge, in 1/65,536 of a weight-unit, at free-value index `k` (R94). -/
opaque chargeError : Nat → Int
/-- Error of class Held that a driven row gives an output, in 1/65,536 of a weight-unit: fixed by the deck's calibration (its index), the
gain of the plane, the output and the row (R94, R95). -/
opaque heldError : Nat → Bool → Nat → Nat → Int
/-- Error of one group's checksum residual, in units of 1/672,000 cell unit. -/
opaque residualError : Nat → Int
/-- Error of one null or reference code's charge during calibration, in 1/65,536 of a code. -/
opaque calError : Nat → Int
/-- Conductance a program pulse adds to a pending cell, in units of 1/672,000 G_FS (R28: it only raises). -/
opaque pulseRise : Nat → Nat
/-- Conductance a soft-biased pulse adds (R147). -/
opaque softRise : Nat → Nat
/-- Conductance that a pulse cut short adds to a cell, by the loop's first beat and the cell; never more than the whole pulse (R175). -/
opaque cutRise : Nat → Nat → Nat

/-! ## Codes of the deck record whose generators the spec does not give (R169–R171, log 76) -/

/-- The 8 check bytes of a spare row's BCH code. -/
opaque bchCheck : List (BitVec 8) → List (BitVec 8)
/-- What correcting up to 4 bit errors of a spare row gives: its payload, or none. -/
opaque bchFix : List (BitVec 8) → Option (List (BitVec 8))
/-- The check bits of a SEC-DED code over so many bits, and what its correction gives. -/
opaque secded : Nat → Nat → Nat
opaque secdedFix : Nat → Nat → Nat → Option Nat

/-! ## Arithmetic results given only to a bound (R216, log 4) -/

/-- What an operation whose result the spec does not state for an operand gives (log of 0, 1/0 …). -/
opaque vecOpen : Nat → BitVec 32 → BitVec 32
/-- The result an operation with a stated bound gives; a value outside the bound is not used (R216). -/
opaque approx : Nat → List (BitVec 32) → BitVec 32
/-- The bytes an expander delivers, poisoned, for a block it cannot decode (R249, R251). -/
opaque undecoded : List (BitVec 8) → Nat → BitVec 8
/-- What a compare writes where the comparison holds (log 21). -/
opaque compareTrue : BitVec 32
/-- What a compare writes where it does not hold. -/
opaque compareFalse : BitVec 32
/-- Which comparison a comparison code of the vector descriptor's MODE names. -/
opaque compareCode : BitVec 8 → Nat

/-! ## Errors beyond the limits of a code (R323, log 5) -/

/-- Whether an error pattern beyond the correction limits escapes detection, and the data delivered. -/
opaque undetected : List (BitVec 16) → Bool
opaque escapedByte : List (BitVec 16) → Nat → BitVec 8
/-- Result of the self-test of a stack beyond what the bring-up command reports is not modelled; this is
the data a codeword in error delivers before correction. -/
opaque indeterminateByte : Nat → BitVec 8

/-! ## Cryptography: outside standards the spec names, uninterpreted here (log 6) -/

opaque sha384 : List (BitVec 8) → BitVec 384
/-- AES-256-GCM open: key, nonce, additional data, ciphertext, tag. -/
opaque gcmOpen : BitVec 256 → BitVec 96 → List (BitVec 8) → List (BitVec 8) → BitVec 128 → Option (List (BitVec 8))
opaque gcmSeal : BitVec 256 → BitVec 96 → List (BitVec 8) → List (BitVec 8) → List (BitVec 8) × BitVec 128
/-- ECDH over P-384 of the device's identity private key with a public point: the 48 bytes of Z (R158). -/
opaque ecdhIdentity : List (BitVec 8) → List (BitVec 8)
/-- HKDF-SHA-384: input, salt, info and length (R158). -/
opaque hkdfSha384 : List (BitVec 8) → List (BitVec 8) → List (BitVec 8) → Nat → List (BitVec 8)
/-- HMAC-SHA-384 truncated to 16 bytes (R449). -/
opaque sealKcv : BitVec 256 → List (BitVec 8) → BitVec 128
/-- The link key of a port's link secret at a key generation (R447). -/
opaque linkKey : Nat → BitVec 11 → BitVec 256
/-- A random value of the Customs DRBG. -/
opaque drbg : Nat → BitVec 128
/-- The device's identity: DEV_ID (R440), and the digests of the immutable boot code and certificates. -/
opaque devId : BitVec 384
opaque bootCodeDigest : BitVec 384
/-- The certificate chain of slot 0, and that of slot 1, whose Alias leaf depends on the digest of the running image (R440). -/
opaque deviceChain : List (BitVec 8)
opaque aliasChain : BitVec 384 → List (BitVec 8)
/-- An Alias-key signature over a transcript (R440). -/
opaque aliasSign : List (BitVec 8) → BitVec 768
opaque dhPublic : Nat → BitVec 768
/-- A secured message of a session opened by Customs: session, message bytes (R445). -/
opaque openSecured : BitVec 32 → List (BitVec 8) → Option (List (BitVec 8))
/-- The SHA-384 of the Route's DEV_IDs joined (measurement block 8, R442). -/
opaque routeDigest : Nat → BitVec 384
/-- Bytes of an SPDM response in the DMTF layout: response code and body. -/
opaque spdmBytes : BitVec 8 → List (BitVec 8) → List (BitVec 8)
/-- The request that bytes in the DMTF layout hold. -/
opaque spdmDecode : List (BitVec 8) → SpdmReq
/-- Bytes of a response that one CHUNK_GET returns. -/
opaque chunkBytes : Nat

/-- The host's PCIe requester ID, which the violation log records for accesses whose command names none. -/
opaque hostRequester : BitVec 16

/-! ## Choices left to the firmware or to Mladbin Resident -/

/-- The debug port's read data outside what the model holds (trace and Factor registers). -/
opaque debugData : Nat → BitVec 32
/-- Whether another device of the Route is in Trek or Halt when this one asks for Camp (R514). -/
opaque otherDeviceAwake : Nat → Bool
/-- The Route device number's Ledger answer for a share of a spanning placement (R389). -/
opaque otherDeviceCommits : Nat → Bool
/-- Whether the other devices that a spanning engagement would use are HELD by the same tenant (R439, log 145). -/
opaque otherDevicesHeld : Nat → Bool

end Sys2Proof.Config
end

