-- ==== Sys2Proof/Machine/Sparse.lean ====
section
/-! DEFINITION. Sparse maps in one canonical form: keys strictly rising, no entry equal to the default.
Maps whose absent entries are absent (queues, regions) use `sfind`, `sput` and `sdel` on the same form. -/

namespace Sys2Proof.Machine

variable {V : Type}

/-- The value at `a`, the default where nothing is listed. -/
def sget (d : V) : Sparse V → Nat → V
  | [], _ => d
  | (k, v) :: r, a => if a = k then v else sget d r a

/-- The entry at `a`, if any. -/
def sfind : Sparse V → Nat → Option V
  | [], _ => none
  | (k, v) :: r, a => if a = k then some v else sfind r a

/-- Remove the entry at `a`. -/
def sdel (m : Sparse V) (a : Nat) : Sparse V := m.filter fun e => e.1 != a

/-- List the entry `(a, v)`. -/
def sput : Sparse V → Nat → V → Sparse V
  | [], a, v => [(a, v)]
  | (k, w) :: r, a, v =>
    if a = k then (a, v) :: r else if a < k then (a, v) :: (k, w) :: r else (k, w) :: sput r a v

/-- Set the value at `a`; writing the default removes the entry. -/
def sset [DecidableEq V] (d : V) (m : Sparse V) (a : Nat) (v : V) : Sparse V :=
  if v = d then sdel m a else sput m a v

/-- Keys from `lo` upwards, strictly rising, none equal to the default. -/
def swfFrom [DecidableEq V] (d : V) : Nat → Sparse V → Bool
  | _, [] => true
  | lo, (k, v) :: r => decide (lo ≤ k) && decide (v ≠ d) && swfFrom d (k + 1) r

/-- The canonical form. -/
def swf [DecidableEq V] (d : V) (m : Sparse V) : Bool := swfFrom d 0 m

/-- The entries whose keys lie outside `lo … lo + n − 1`. -/
def sclear (m : Sparse V) (lo n : Nat) : Sparse V := m.filter fun e => decide (e.1 < lo) || decide (lo + n ≤ e.1)

/-- Change the value at `a`. -/
def smod [DecidableEq V] (d : V) (m : Sparse V) (a : Nat) (f : V → V) : Sparse V := sset d m a (f (sget d m a))

/-- `n` values from `a` upwards. -/
def sgetRun (d : V) (m : Sparse V) (a : Nat) : Nat → List V
  | 0 => []
  | n + 1 => sget d m a :: sgetRun d m (a + 1) n

/-- Write a list of values from `a` upwards. -/
def ssetRun [DecidableEq V] (d : V) : Sparse V → Nat → List V → Sparse V
  | m, _, [] => m
  | m, a, v :: vs => ssetRun d (sset d m a v) (a + 1) vs

/-- Write `(key, value)` pairs in order. -/
def ssetAll [DecidableEq V] (d : V) (m : Sparse V) (l : List (Nat × V)) : Sparse V :=
  l.foldl (fun m e => sset d m e.1 e.2) m

end Sys2Proof.Machine
end

