-- ==== Sys2Proof/Machine/Bits.lean ====
section
/-! DEFINITION. Bit fields, byte order (the device is little-endian), saturating counters and the CRC-32. -/

namespace Sys2Proof.Machine

/-- Bits `lo … lo + n − 1` of `x`. -/
def bitsOf (x lo n : Nat) : Nat := (x >>> lo) % 2 ^ n

/-- Bit `i` of `x`. -/
def bitOf (x i : Nat) : Bool := bitsOf x i 1 == 1

/-- A flag as a number. -/
def b2n (b : Bool) : Nat := if b then 1 else 0

/-- Join fields (value, lowest bit, width); a value's bits above its width are dropped. -/
def packNat : List (Nat × Nat × Nat) → Nat
  | [] => 0
  | (v, lo, n) :: r => (v % 2 ^ n) <<< lo ||| packNat r

/-- A 32-bit word made of fields (value, lowest bit, width). -/
def packWord (l : List (Nat × Nat × Nat)) : Word := BitVec.ofNat 32 (packNat l)

/-- Field `lo`, width `n`, of a word. -/
def fieldOf (w : Word) (lo n : Nat) : Nat := bitsOf w.toNat lo n

/-- A flag of a word. -/
def flagOf (w : Word) (i : Nat) : Bool := bitOf w.toNat i

/-- The number a list of bytes spells, lowest first. -/
def leNat : List Byte → Nat
  | [] => 0
  | b :: r => b.toNat + 256 * leNat r

/-- The `n` bytes of a number, lowest first. -/
def leBytes : Nat → Nat → List Byte
  | 0, _ => []
  | n + 1, v => BitVec.ofNat 8 v :: leBytes n (v / 256)

/-- The 32-bit words of a list of bytes. -/
def leWords : Nat → List Byte → List Word
  | 0, _ => []
  | n + 1, bs => BitVec.ofNat 32 (leNat (bs.take 4)) :: leWords n (bs.drop 4)

/-- The bytes of a list of words. -/
def wordsBytes (ws : List Word) : List Byte := ws.flatMap fun w => leBytes 4 w.toNat

/-- A signed byte. -/
def sbyte (b : Byte) : Int := b.toInt

/-- The two's-complement number in the low `n` bits. -/
def signed (n v : Nat) : Int := if v % 2 ^ n < 2 ^ (n - 1) then v % 2 ^ n else (v % 2 ^ n : Nat) - (2 ^ n : Nat)

/-- The low `n` bits of an integer in two's complement. -/
def unsign (n : Nat) (v : Int) : Nat := (v % (2 ^ n : Nat)).toNat

/-- Add to a counter that stops at its largest value. -/
def satAdd {n : Nat} (c : BitVec n) (k : Nat) : BitVec n :=
  if c.toNat + k < 2 ^ n then BitVec.ofNat n (c.toNat + k) else BitVec.allOnes n

/-- The ceiling of `a / b`. -/
def cdiv (a b : Nat) : Nat := (a + b - 1) / b

/-- The indices of the set bits of the low `n` bits. -/
def setBits (x n : Nat) : List Nat := (List.range n).filter (bitOf x)

/-- One bit of the CRC-32 of IEEE 802.3, reflected. -/
def crcStep (c : Nat) : Nat := if c % 2 = 1 then (c / 2) ^^^ 0xEDB88320 else c / 2

/-- Fold a byte into a running CRC-32. -/
def crcByte (c : Nat) (b : Byte) : Nat :=
  crcStep (crcStep (crcStep (crcStep (crcStep (crcStep (crcStep (crcStep (c ^^^ b.toNat))))))))

/-- CRC-32 of IEEE 802.3: reflected, initial and final value all ones. -/
def crc32 (bs : List Byte) : Word := BitVec.ofNat 32 ((bs.foldl crcByte 0xFFFFFFFF) ^^^ 0xFFFFFFFF)

/-- Insert into a list sorted by a key, after equal keys. -/
def insertBy {α : Type} (key : α → Nat) (x : α) : List α → List α
  | [] => [x]
  | y :: r => if key x < key y then x :: y :: r else y :: insertBy key x r

/-- Sort by a key; equal keys keep their order. -/
def sortBy {α : Type} (key : α → Nat) (l : List α) : List α := l.foldl (fun acc x => insertBy key x acc) []

/-- Change element `i` of a vector; no change where it does not exist. -/
def vmod {α : Type} {n : Nat} (v : Vector α n) (i : Nat) (f : α → α) : Vector α n :=
  if h : i < n then v.set i (f v[i]) else v

/-- Element `i` of a vector, `d` where it does not exist. -/
def vget {α : Type} {n : Nat} (d : α) (v : Vector α n) (i : Nat) : α := if h : i < n then v[i] else d

end Sys2Proof.Machine
end

