-- ==== Sys2Proof/Machine/Float.lean ====
section
/-! DEFINITION. The numeric formats of the device: exact values, one rounding rule, and the conversions
between formats (R181–R192). -/

namespace Sys2Proof.Machine

/-- A number as the device's formats hold it: `fin neg n d` is ±n/d exactly, with its sign kept on zero. -/
inductive FVal where
  | nan
  | inf (neg : Bool)
  | fin (neg : Bool) (n d : Nat)
  deriving DecidableEq, Repr

/-- A floating-point layout (R182): exponent and fraction widths, bias, whether subnormals flush (R183), and
whether the exponent of all ones is ordinary (E4M3). -/
structure FFmt where
  eb : Nat
  fb : Nat
  bias : Nat
  flush : Bool
  e4m3 : Bool
  deriving DecidableEq, Repr

def fmtFp32 : FFmt := ⟨8, 23, 127, true, false⟩
def fmtBf16 : FFmt := ⟨8, 7, 127, true, false⟩
def fmtFp16 : FFmt := ⟨5, 10, 15, false, false⟩
def fmtE4m3 : FFmt := ⟨4, 3, 7, false, true⟩
def fmtE5m2 : FFmt := ⟨5, 2, 15, false, false⟩

/-- The layout a floating-point format code names (R181). -/
def ffmtOf (code : BitVec 4) : Option FFmt :=
  match code.toNat with
  | 0 => some fmtFp32
  | 1 => some fmtBf16
  | 2 => some fmtFp16
  | 3 => some fmtE4m3
  | 4 => some fmtE5m2
  | _ => none

/-- Bits per element of a format code; 0 where the code is reserved (R181). -/
def fmtBits (code : BitVec 4) : Nat :=
  match code.toNat with
  | 0 => 32 | 1 => 16 | 2 => 16 | 3 => 8 | 4 => 8 | 5 => 8 | 6 => 8 | 8 => 8 | 9 => 4 | 10 => 1 | _ => 0

/-- Whether a format code is reserved (R181). -/
def fmtReserved (code : BitVec 4) : Bool := fmtBits code == 0

/-- Whether a strike output may have this format (R181, R191). -/
def fmtStrikeOut (code : BitVec 4) : Bool := (ffmtOf code).isSome

/-- Whether the matrix engine takes operands of this format (R181). -/
def fmtMatrixIn (code : BitVec 4) : Bool := decide (1 ≤ code.toNat) && decide (code.toNat ≤ 6)

/-- Whether the format is an activation code (R181, R185), and its width. -/
def actWidth (code : BitVec 4) : Option Nat :=
  match code.toNat with | 8 => some 8 | 9 => some 4 | 10 => some 1 | _ => none

/-- 2^e as a fraction. -/
def pow2 (e : Int) : Nat × Nat := if 0 ≤ e then (2 ^ e.toNat, 1) else (1, 2 ^ (-e).toNat)

/-- n/d × 2^e in lowest dyadic terms as a value. -/
def FVal.dyadic (neg : Bool) (m : Nat) (e : Int) : FVal := .fin neg (m * (pow2 e).1) (pow2 e).2

/-- Read a number of a layout (R182, R183). -/
def fdec (f : FFmt) (bits : Nat) : FVal :=
  let s := bitOf bits (f.eb + f.fb)
  let e := bitsOf bits f.fb f.eb
  let m := bitsOf bits 0 f.fb
  if e = 2 ^ f.eb - 1 ∧ (if f.e4m3 then m = 2 ^ f.fb - 1 else m ≠ 0) then .nan
  else if e = 2 ^ f.eb - 1 ∧ !f.e4m3 then .inf s
  else if e = 0 then
    if f.flush then .fin s 0 1 else FVal.dyadic s m (1 - (f.bias : Int) - f.fb)
  else FVal.dyadic s (2 ^ f.fb + m) ((e : Int) - f.bias - f.fb)

/-- Quotient rounded to nearest, ties to even (R188). -/
def rneDiv (n d : Nat) : Nat :=
  let q := n / d
  let r := n % d
  if 2 * r < d then q else if d < 2 * r then q + 1 else q + q % 2

/-- floor(log2 (n/d)) for n, d > 0. -/
def flog2 (n d : Nat) : Int :=
  let e : Int := (Nat.log2 n : Int) - Nat.log2 d
  let p := pow2 e
  if d * p.1 ≤ n * p.2 then e else e - 1

/-- Round n/d to a significand of `p` bits at exponent not below `emin` (where given): significand and the
exponent of its last place (R188). -/
def roundSig (p : Nat) (emin : Option Int) (n d : Nat) : Nat × Int :=
  let e := flog2 n d
  let q0 : Int := e - (p - 1)
  let q : Int := match emin with | some m => if q0 < m - (p - 1) then m - (p - 1) else q0 | none => q0
  let s := pow2 q
  (rneDiv (n * s.2) (d * s.1), q)

/-- The largest exponent of a layout's finite numbers. -/
def FFmt.emax (f : FFmt) : Int := if f.e4m3 then 8 else (2 ^ f.eb - 2 : Nat) - (f.bias : Int)

/-- The smallest normal exponent. -/
def FFmt.emin (f : FFmt) : Int := 1 - (f.bias : Int)

/-- The bits of a layout's largest finite number. -/
def FFmt.maxBits (f : FFmt) : Nat := if f.e4m3 then 0x7E else (2 ^ f.eb - 1) * 2 ^ f.fb - 1

/-- The bits of the canonical NaN (R182, R184). -/
def FFmt.nanBits (f : FFmt) : Nat :=
  if f.e4m3 then 0x7F else (2 ^ f.eb - 1) * 2 ^ f.fb + 2 ^ (f.fb - 1)

/-- The sign bit in place. -/
def FFmt.signBit (f : FFmt) (neg : Bool) : Nat := if neg then 2 ^ (f.eb + f.fb) else 0

/-- Write a value in a layout, rounding once; the flag says that it was saturated (R183, R188, R189). -/
def fenc (f : FFmt) (v : FVal) : Nat × Bool :=
  match v with
  | .nan => (f.nanBits, false)
  | .inf s => if f.e4m3 then (f.signBit s + f.maxBits, true) else (f.signBit s + (2 ^ f.eb - 1) * 2 ^ f.fb, false)
  | .fin s n d =>
    if n = 0 then (f.signBit s, false)
    else
      let r := roundSig (f.fb + 1) (if f.flush then none else some f.emin) n d
      let m := if r.1 < 2 ^ (f.fb + 1) then r.1 else r.1 / 2
      let q : Int := if r.1 < 2 ^ (f.fb + 1) then r.2 else r.2 + 1
      let e : Int := q + f.fb
      if m < 2 ^ f.fb then (f.signBit s + m, false)
      else if e < f.emin then (f.signBit s, false)
      else if f.emax < e ∨ (f.e4m3 ∧ e = 8 ∧ m = 2 ^ (f.fb + 1) - 1) then (f.signBit s + f.maxBits, true)
      else (f.signBit s + (e + f.bias).toNat * 2 ^ f.fb + (m - 2 ^ f.fb), false)

/-- Read an FP32 word. -/
def fp (w : Word) : FVal := fdec fmtFp32 w.toNat

/-- Write an FP32 word; the flag says that it was saturated. -/
def toFp (v : FVal) : Word × Bool := (BitVec.ofNat 32 (fenc fmtFp32 v).1, (fenc fmtFp32 v).2)

/-- The exact value of an integer. -/
def FVal.ofInt (i : Int) : FVal := .fin (decide (i < 0)) i.natAbs 1

def FVal.neg : FVal → FVal
  | .nan => .nan
  | .inf s => .inf (!s)
  | .fin s n d => .fin (!s) n d

def FVal.abs : FVal → FVal
  | .nan => .nan
  | .inf _ => .inf false
  | .fin _ n d => .fin false n d

/-- The signed numerator of a finite value. -/
def snum (s : Bool) (n : Nat) : Int := if s then -(n : Int) else n

/-- The exact sum; ∞ − ∞ is invalid (R184); an exact zero of unlike signs is +0. -/
def FVal.add : FVal → FVal → FVal
  | .nan, _ => .nan
  | _, .nan => .nan
  | .inf s, .inf t => if s = t then .inf s else .nan
  | .inf s, _ => .inf s
  | _, .inf t => .inf t
  | .fin s n d, .fin t m c =>
    let x : Int := snum s n * c + snum t m * d
    if x = 0 then .fin (s && t) 0 1 else .fin (decide (x < 0)) x.natAbs (d * c)

/-- The exact product; 0 × ∞ is invalid (R184). -/
def FVal.mul : FVal → FVal → FVal
  | .nan, _ => .nan
  | _, .nan => .nan
  | .inf s, .inf t => .inf (s != t)
  | .inf s, .fin t m _ => if m = 0 then .nan else .inf (s != t)
  | .fin s n _, .inf t => if n = 0 then .nan else .inf (s != t)
  | .fin s n d, .fin t m c => .fin (s != t) (n * m) (d * c)

/-- The exact quotient; ∞ / ∞ is invalid (R184); none where the divisor is zero, which the spec states no
result for. -/
def FVal.div : FVal → FVal → Option FVal
  | .nan, _ => some .nan
  | _, .nan => some .nan
  | .inf _, .inf _ => some .nan
  | .inf s, .fin t _ _ => some (.inf (s != t))
  | .fin s _ _, .inf t => some (.fin (s != t) 0 1)
  | .fin s n d, .fin t m c => if m = 0 then none else some (.fin (s != t) (n * c) (d * m))

/-- Whether a value is NaN. -/
def FVal.isNan : FVal → Bool
  | .nan => true
  | _ => false

def FVal.isFin : FVal → Bool
  | .fin .. => true
  | _ => false

def FVal.isZero : FVal → Bool
  | .fin _ 0 _ => true
  | _ => false

/-- Strictly below, on values that are not NaN; the two zeros are equal. -/
def FVal.lt : FVal → FVal → Bool
  | .nan, _ => false
  | _, .nan => false
  | .inf s, .inf t => s && !t
  | .inf s, _ => s
  | _, .inf t => !t
  | .fin s n d, .fin t m c => decide (snum s n * (c : Int) < snum t m * d)

/-- The lesser and the greater of two values, the first where they are equal. -/
def FVal.min (a b : FVal) : FVal := if b.lt a then b else a
def FVal.max (a b : FVal) : FVal := if a.lt b then b else a

/-- Round a finite value to an integer, ties to even; 0 for NaN and infinity, which callers handle. -/
def FVal.rne : FVal → Int
  | .fin s n d => snum s (rneDiv n d)
  | _ => 0

/-- FP32 operations, each rounding once; the flag says that the result was saturated (R188, R190). -/
def fadd (a b : Word) : Word × Bool := toFp ((fp a).add (fp b))
def fsub (a b : Word) : Word × Bool := toFp ((fp a).add (fp b).neg)
def fmul (a b : Word) : Word × Bool := toFp ((fp a).mul (fp b))
/-- Division; the canonical NaN where the divisor is zero, a case callers exclude. -/
def fdiv (a b : Word) : Word × Bool := toFp (((fp a).div (fp b)).getD .nan)

/-- FP32 of an integer. -/
def fint (i : Int) : Word := (toFp (.ofInt i)).1

/-- The fraction n/d rounded to FP32. -/
def fq (n d : Nat) : Word := (toFp (.fin false n d)).1

/-- Clamp an integer. -/
def clampI (lo hi x : Int) : Int := if x < lo then lo else if hi < x then hi else x

/-- Conversion to INT8 (R189): the byte, and whether it was saturated. -/
def toInt8 (v : FVal) : Int × Bool :=
  match v with
  | .nan => (0, false)
  | .inf s => (if s then -128 else 127, true)
  | .fin .. => (clampI (-128) 127 v.rne, decide (v.rne < -128) || decide (127 < v.rne))

/-- Mapping of an FP32 value to an An code (R189, R197): the code, and whether it was saturated. -/
def toAct (bits : Nat) (sa : Word) (z : Nat) (x : Word) : Nat × Bool :=
  match fp x with
  | .nan => (z, false)
  | .inf s => (if s then 0 else 2 ^ bits - 1, true)
  | .fin .. =>
    let q := fdiv x sa
    let c := (fp q.1).rne + z
    ((clampI 0 (2 ^ bits - 1 : Nat) c).toNat, q.2 || decide (c < 0) || decide ((2 ^ bits - 1 : Nat) < c))

/-- Conversion of a value to a floating-point format code: bits and saturation (R189). -/
def convTo (code : BitVec 4) (v : FVal) : Nat × Bool :=
  match ffmtOf code with
  | some f => fenc f v
  | none => (0, false)

/-- An element of a format code read as a value; DBF8 elements need their block's scale (R187). -/
def readElem (code : BitVec 4) (bits : Nat) : FVal :=
  match ffmtOf code with
  | some f => fdec f bits
  | none => if code.toNat = 5 then .ofInt (signed 8 bits) else .ofInt bits

/-- Element `m` of a DBF8 block with scale exponent `e` (R187). -/
def dbf8Elem (e : Nat) (m : Nat) : FVal :=
  if e = 0xFF then .nan
  else
    let i : Int := if m % 256 = 0x80 then -127 else signed 8 m
    FVal.dyadic (decide (i < 0)) i.natAbs ((e : Int) - 133)

/-- The FP32 maximum, 3.4028 × 10^38, that an infinite element counts as in a DBF8 block (R187). -/
def dbfFinite : FVal → FVal
  | .inf s => FVal.dyadic s (2 ^ 24 - 1) 104
  | v => v

/-- The result of encoding one DBF8 block (R187, R192): E, the elements, and which of them saturated. -/
def encodeDbf8 (xs : List FVal) : Nat × List Int × List Bool :=
  if xs.any FVal.isNan then (0xFF, xs.map fun _ => 0, xs.map fun _ => false)
  else
    let ys := xs.map dbfFinite
    let amax : FVal := ys.foldl (fun (m y : FVal) => FVal.max m (FVal.abs y)) (FVal.fin false 0 1)
    match amax with
    | .fin _ n d =>
      if n = 0 then (0, xs.map fun _ => 0, xs.map fun _ => false)
      else
        let e : Int := min (flog2 n d + 127) 0xFE
        let raw := ys.map fun y => (y.mul (FVal.dyadic false 1 (133 - e))).rne
        let ms := raw.map (clampI (-127) 127)
        (e.toNat, ms, (xs.zip raw).map fun p => !p.1.isFin || decide (p.2 < -127) || decide (127 < p.2))
    | _ => (0, xs.map fun _ => 0, xs.map fun _ => false)

/-- The smallest E4M3 value not below `x`, as bits (R193). -/
def e4m3Up (x : Word) : Byte :=
  match fp x with
  | .fin false n d =>
    if n = 0 then 0
    else
      let c := (List.range 0x7F).find? fun b =>
        match fdec fmtE4m3 b with | .fin _ m c => decide (n * c ≤ m * d) | _ => false
      BitVec.ofNat 8 (c.getD 0x7E)
  | _ => 0

end Sys2Proof.Machine
end

