-- ==== Sys2Proof/Machine/State.lean ====
section
/-! DEFINITION. The state of the block, as plain data: every register, queue, buffer, memory and mode the
spec gives it, the model's own fields (marked so), and the queue of waiting commands. -/

namespace Sys2Proof.Machine

/-- Why the block stops. -/
inductive Fault where
  /-- Raised by an access of the debug port, its scope open, to a Waystation or stacked-memory address that does not exist
  (R296, R319, R457); safe: the block stops where the spec gives nothing. -/
  | noSuchAddress
  deriving DecidableEq, Repr

/-- Why a command has no meaning here. -/
inductive Refusal where
  /-- Raised by an arm of exec whose command has no meaning yet; safe. -/
  | notModelled (mnemonic : String)
  deriving DecidableEq, Repr

/-! ## The Almanac (R262–R270, R290–R293) -/

structure Alm where
  src : BitVec 2 := 0
  uport : BitVec 3 := 0
  epinEn : Bool := false
  epinDly : BitVec 4 := 0
  epoutEn : Bool := true
  lock : Bool := false
  pllLock : Bool := false
  refOk : Bool := false
  holdover : Bool := false
  fallback : Bool := false
  aligned : Bool := false
  master : Bool := false
  devnum : BitVec 6 := 0
  misalign : BitVec 8 := 0
  refloss : BitVec 8 := 0
  beat : Beat := 0
  beatHi : Word := 0
  skewDiff : BitVec 8 := 0
  skewDelay : BitVec 8 := 0
  epochOut : Bool := false
  deriving DecidableEq, Repr

/-! ## Reset (R489–R509) -/

structure Rst where
  count : Word := 0
  first : BitVec 4 := 1
  cls : Bool := true
  olrestart : Bool := false
  vsbLost : Bool := true
  seen : BitVec 8 := 0
  rstnCold : Bool := false
  routeEn : Bool := false
  lock : Bool := false
  /-- a device reset is being stretched, and what it has gathered so far (R490) -/
  stretching : Bool := false
  stCold : Bool := true
  stFirst : BitVec 4 := 1
  stSeen : BitVec 8 := 1
  stVsbLost : Bool := true
  stOlrestart : Bool := false
  /-- option loading has not ended since the last stretch (R494) -/
  loading : Bool := true
  /-- the reset that option loading follows was cold -/
  loadCold : Bool := true
  perstLow : Bool := false
  /-- the stretch or its loading took in a PERST_N source (R374, R497) -/
  perstSeen : Bool := false
  rstNDriven : Bool := false
  recovN : Bool := true
  deriving DecidableEq, Repr

/-! ## Power (R510–R539) -/

structure Pump where
  on : Bool := false
  lockout : Bool := false
  retries : Nat := 0
  deriving DecidableEq, Repr

structure Pwr where
  target : BitVec 2 := 0
  hzlWake : Bool := true
  epochs : BitVec 16 := 0
  st : BitVec 2 := 0
  entering : Bool := false
  exiting : Bool := false
  wake : BitVec 3 := 0
  wakePort : BitVec 3 := 0
  refused : BitVec 16 := 0
  aborted : BitVec 16 := 0
  refUnit : BitVec 4 := 0
  refTarget : BitVec 2 := 0
  refEng : BitVec 6 := 0
  refEngValid : Bool := false
  lockPhys : BitVec 6 := 0
  lockString : BitVec 4 := 0
  lockCount : BitVec 8 := 0
  /-- the hint in force: hint code and duration in ms (R515) -/
  hint : BitVec 2 := 0
  hintMs : Word := 0
  /-- a management ADMIN asked for this state (R515) -/
  adminTarget : BitVec 2 := 0
  /-- epochs counted since the state was entered (R516) -/
  epochsPassed : Nat := 0
  /-- ports that were UP when Camp was entered (R517) -/
  upAtEntry : BitVec 8 := 0
  vcoreOk : Bool := true
  vauxOk : Bool := true
  vsbOk : Bool := true
  deriving DecidableEq, Repr

structure Tol where
  units : BitVec 12 := 3072
  limit : BitVec 9 := 450
  lock : Bool := false
  tmax : BitVec 8 := 0
  tempHi : Bool := false
  hot : Bool := false
  overLimit : Bool := false
  avg1 : BitVec 12 := 0
  avg100 : BitVec 12 := 0
  /-- sums and counts of the samples of the running windows, in 0.25 W (R528) -/
  sum1 : Nat := 0
  n1 : Nat := 0
  sum100 : Nat := 0
  n100 : Nat := 0
  refresh2 : Bool := false
  deriving DecidableEq, Repr

/-- The GPIO pins (R503, R504, R562): whether the Factor has configured GPIO0–GPIO5 as outputs, and the levels they keep through Halt, Camp and a
warm reset, bit k for GPIOk. -/
structure Gpio where
  on : Bool := false
  held : BitVec 6 := 0
  deriving DecidableEq, Repr

/-- The SMBus endpoint (R555–R557). -/
structure Smc where
  addr : BitVec 7 := 0
  ready : Bool := false
  eid : Byte := 0
  nackMap : BitVec 16 := 0
  pecErr : BitVec 16 := 0
  /-- the bytes of the last Block Read reply, none after a NACK -/
  reply : List Byte := []
  acked : Bool := false
  deriving DecidableEq, Repr

/-- The Factor (R349–R350, R382–R383). -/
structure Fac where
  ver : Word := 0
  build : Word := 0
  running : Bool := false
  pendingImg : Bool := false
  up : Bool := false
  /-- the image slot that runs, and whether it runs in trial (R481) -/
  slot : Option (Fin 2) := none
  trial : Bool := false
  /-- a warm reset stopped the Factor and it has not resumed yet (R372) -/
  resumePending : Bool := false
  /-- consignor resets that wait for the Factor (R375) -/
  crstPending : BitVec 17 := 0
  atWaits : Bool := false
  deriving DecidableEq, Repr

/-! ## Customs (R438–R464) -/

inductive Tenancy where
  | none
  | held
  | switching
  deriving DecidableEq, Repr

inductive Tdi where
  | unlocked
  | locked
  | run
  | error
  deriving DecidableEq, Repr

/-- An SPDM connection: what the requester has negotiated, and its sessions (R441). -/
structure SpdmConn where
  port : SpdmPort
  version : Bool := false
  caps : Bool := false
  algs : Bool := false
  /-- session ids in handshake, with mutual authentication asked for or not; established ones, with the TENANT_ID fixed at
  FINISH under mutual authentication -/
  handshake : List (Word × Bool) := []
  sessions : List (Word × Option (BitVec 384)) := []
  /-- a request that arrives in chunks, and the last response, for CHUNK_GET -/
  chunks : List Byte := []
  chunkHandle : Nat := 0
  chunkSeq : Nat := 0
  large : List Byte := []
  keyGen : Nat := 0
  deriving DecidableEq, Repr

/-- One entry of the violation log (R371, R384). -/
structure Viol where
  addr : Word
  req : BitVec 16
  src : BitVec 3
  write : Bool
  cid : BitVec 5
  deriving DecidableEq, Repr

/-- The last SPDM response: response code and body. -/
structure SpdmResp where
  code : Byte := 0
  body : List Byte := []
  deriving DecidableEq, Repr

structure Cus where
  tenancy : Tenancy := .none
  tenantId : BitVec 384 := 0
  conf : Bool := false
  bounce : Bool := false
  tdi : Tdi := .unlocked
  /-- the switch record of the VSB domain: the outgoing TENANT bytes (R455) -/
  swRec : Option (BitVec 128) := none
  /-- the tenancy record of the VSB domain (R505) -/
  tenancyRec : Option (BitVec 128) := none
  /-- DEBUG: the scopes the tenant granted (R457, R461) -/
  scopes : BitVec 4 := 0
  switches : BitVec 16 := 0
  evict : Bool := false
  sealSel : BitVec 15 := 0
  viol : List Viol := []
  violLost : Bool := false
  bncEn : Bool := false
  bncLo : BitVec 20 := 0
  bncHi : Word := 0
  kMem : BitVec 512 := 0
  kSeal : BitVec 256 := 0
  kBnc : BitVec 256 := 0
  conns : List SpdmConn := []
  resp : SpdmResp := {}
  debugPort : Bool := false
  grants : Word := 0
  consentBeat : Beat := 0
  ideStreams : BitVec 5 := 0
  /-- IDE_KM keys are installed per stream -/
  cert2 : List Byte := []
  cert3 : List Byte := []
  mgmtSessions : List (BitVec 384 × Role) := []
  /-- transfer counter of each granule's bounce record (R418) -/
  bncCtr : Sparse Nat := []
  debugData : List Byte := []
  debugOk : Bool := false
  factorHalted : Bool := false
  /-- a Factor reset came during a switch: its steps 8, 9 and 11 wait for the Factor (R460) -/
  switchWaits : Bool := false
  deriving DecidableEq, Repr

/-! ## Mailboxes (R351–R381) -/

/-- How far a consignment has come (R361, R395, R407). -/
inductive QState where
  | queued
  | started
  | ended
  deriving DecidableEq, Repr

/-- A queue entry: one consignment (R360, R361). -/
structure QEntry where
  eng : Fin 64
  seq : Byte
  tag : Word
  inAddr : Word
  inBytes : Word
  outAddr : Word
  outBytes : Word
  tokens : Nat
  next : Nat := 0
  done : Nat := 0
  st : QState := .queued
  status : Byte := 0
  approx : Bool := false
  ovf : Bool := false
  clip : Bool := false
  replayed : Bool := false
  shadow : Bool := false
  acount : Nat := 0
  qepoch : Byte := 0
  order : Nat := 0
  cancelled : Bool := false
  outWritten : Nat := 0
  /-- queue position in its reply (R360) -/
  pos : Nat := 0
  bounceBad : Bool := false
  deriving DecidableEq, Repr

/-- The record of a long-running message (R351, R356). -/
structure LongRec where
  opcode : Byte
  seq : Byte
  eng : Nat
  grans : List Nat
  /-- a consignor reset discarded its reply (R373) -/
  discard : Bool := false
  /-- tile-decks an ERASE_DECKS still waits for, and how many it erased and found worn (R453) -/
  decks : List Nat := []
  count : Nat := 0
  worn : Nat := 0
  deriving DecidableEq, Repr

structure MbPage where
  pi : BitVec 7 := 0
  wmark : BitVec 7 := 0
  outPi : BitVec 7 := 0
  ci : BitVec 7 := 0
  qepoch : Byte := 0
  crstBusy : Bool := false
  err : Bool := false
  irqEn : Bool := false
  coal : Byte := 0
  coalRunning : Bool := false
  coalPending : Bool := false
  inRing : Sparse Word := []
  outRing : Sparse Word := []
  held : List (List Word) := []
  recs : List LongRec := []
  queue : Sparse QEntry := []
  deriving DecidableEq, Repr

/-- A granule of the shared window (R364, R381). `refs` counts the messages and consignments that name it. -/
structure Gran where
  flag : BitVec 2 := 0
  cid : BitVec 5 := 0
  refs : Nat := 0
  /-- its bounce record failed a tag check (R418) -/
  bad : Bool := false
  deriving DecidableEq, Repr

/-! ## Engagements and the Ledger (R385–R411) -/

inductive EngState where
  | free
  | placing
  | loading
  | ready
  | shadow
  | suspended
  | resident
  deriving DecidableEq, Repr

/-- A circuit whose word has been sent (R276). -/
structure Circ where
  k : Nat
  live : Bool
  consignor : Fin 16
  qslot : BitVec 8
  token : BitVec 16
  epoch : BitVec 16
  replay : Bool
  started : Bool := false
  /-- the beat the circuit starts at (R275); a hold that begins before it moves it (R286) -/
  start : Nat := 0
  /-- the beat by which its last leg has issued: two periods after its start (R275), and holds later -/
  endBeat : Nat := 0
  /-- the beats at which holds began during the circuit, in order (R226) -/
  held : List Nat := []
  deriving DecidableEq, Repr

/-- One replay buffer: token index and tracker histories, and whether its post completed (R407). -/
structure ReplayBuf where
  token : Nat := 0
  consignor : Nat := 0
  qslot : Nat := 0
  counted : Bool := false
  /-- the tracker histories, in the order of the plan's tracker legs -/
  hist : List (List Byte) := []
  deriving DecidableEq, Repr

/-- A PROGRAM_WAYBILL in progress on this device (R162–R168). The Lead sends it from its shared window. -/
structure Waybill where
  lead : Bool
  /-- the device that is the Lead -/
  leadDev : Nat := 0
  /-- the circuit boundary at which a device that a lost port cuts off reports FENCED: this device's own, and at the Lead those of others (R167) -/
  cutAt : Option Nat := none
  cuts : List (Nat × Nat) := []
  addr : Nat
  len : Nat
  wbId : BitVec 64
  ivBase : BitVec 64
  nSeg : Nat
  plainLen : Nat
  prot : Bool
  aad : BitVec 384
  key : Option (BitVec 256)
  /-- segments the Lead has sent, and where the next one starts -/
  sent : Nat := 0
  off : Nat := 0
  /-- segments verified, their plaintext bytes, and those not yet cut into records, from byte `used` on -/
  nextSeg : Nat := 0
  total : Nat := 0
  used : Nat := 0
  plain : List Byte := []
  /-- the first status of R168 met, and whether every segment has been used or one has failed -/
  status : Byte := 0
  finished : Bool := false
  /-- a reset stopped the programming of the engagement's decks (R166) -/
  stopped : Bool := false
  /-- no further record can be found -/
  lostRecs : Bool := false
  done : Nat := 0
  skipped : Nat := 0
  reports : List (Nat × Byte) := []
  deriving DecidableEq, Repr

structure Eng where
  st : EngState := .free
  prev : EngState := .free
  bound : BitVec 16 := 0
  period : Nat := 0
  anchor : Beat := 0
  manifestHash : BitVec 384 := 0
  wbId : BitVec 64 := 0
  prot : Bool := false
  route : Bool := false
  devices : Nat := 1
  pMax : Nat := 0
  wS : Nat := 0
  shadowOk : Bool := false
  manifest : List Byte := []
  plan : Option Plan := none
  reserved : List (BitVec 8 × Nat) := []
  decks : List Nat := []
  calT : BitVec 5 := 4
  waybill : Option Waybill := none
  programmed : Bool := false
  circuits : List Circ := []
  buf0 : ReplayBuf := {}
  buf1 : ReplayBuf := {}
  buf1Newer : Bool := false
  pShadow : Nat := 0
  takeover : Bool := false
  live0 : Bool := false
  /-- start beats of holds noticed and not yet begun, ascending (R285, R286) -/
  holds : List Beat := []
  /-- the beats at which its last holds began, oldest first (R286, R289) -/
  movedAt : List Beat := []
  swapAt : Option Beat := none
  /-- the other engagement of the REBIND whose swap is pending (R396) -/
  swapWith : Option (Fin 64) := none
  /-- device pages by engagement page number (the Ledger's page map, R308) -/
  pages : List Nat := []
  /-- the shadow plan in force from its swap beat, and its anchor (R401) -/
  shadowPlan : Option Plan := none
  anchorSh : Beat := 0
  /-- a RESET_ENGAGEMENT: the next circuit carries no work (R408) -/
  skipNext : Bool := false
  /-- PROGRAM_WAYBILL has completed since admission (R386) -/
  loaded : Bool := false
  /-- a plan that becomes the engagement's at its swap beat (R278, R396) -/
  nextPlan : Option Plan := none
  /-- the plan before the last switch, and the beat of that switch: circuits that started earlier run it to their end (R278) -/
  oldPlan : Option (Plan × Nat) := none
  /-- consignors bound from the swap beat on (R397) -/
  nextBound : Option (BitVec 16) := none
  /-- state that the swap brings, where it changes it -/
  nextSt : Option EngState := none
  /-- stopped with its consignments stale until the next alignment (R270) -/
  staleStop : Bool := false
  /-- a re-placement without a LOST port is under way (R385, R408) -/
  replacing : Bool := false
  deriving DecidableEq, Repr

/-- A packed region (R238, R260, R261). -/
structure Region where
  eng : BitVec 6
  fmt : BitVec 4
  slot : BitVec 2
  kv : Bool
  prot : Bool
  base : Nat
  nblk : Nat
  tblValid : Bool := false
  ovfBlocks : List Nat := []
  deriving DecidableEq, Repr

structure LdgEntry where
  phys : Nat := 0
  /-- stopped by a fence and not yet taken over or returned -/
  fenced : Bool := false
  /-- physical cores that hold a fence of this number (R405) -/
  failed : List Nat := []
  out : Bool := false
  cause : BitVec 4 := 0
  unrep : Nat := 0
  deriving DecidableEq, Repr

structure Ldg where
  thr : BitVec 4 := 8
  lock : Bool := false
  map : Vector LdgEntry 32
  spares : List Nat
  placing : Bool := false
  takeover : Bool := false
  takeoverCore : Option (Fin 32) := none
  deriving DecidableEq, Repr

/-! ## Tiles and decks (R28–R92, R108–R180) -/

/-- The deck record header of spare row S0 (R169, R449). -/
structure DeckHeader where
  fmt : WFmt
  pmode : BitVec 2
  owned : Bool
  eng : BitVec 6
  blocks : List BlockDesc
  cycles : Nat
  sDeck : Word
  wbId : BitVec 64
  tenant : BitVec 128
  salt : BitVec 128
  kcv : BitVec 128
  deriving DecidableEq, Repr

/-- An error-ledger record (R137) with the rows it flags. -/
structure Finding where
  seq : Word
  beat : Beat
  core : Fin 32
  string : Fin 12
  tile : Fin 16
  deck : Fin 4
  fmt : BitVec 2
  group : Byte
  offset : Byte
  row : BitVec 16
  cls : Byte
  rung : BitVec 4
  st : BitVec 4
  output : BitVec 16
  hterm : BitVec 16
  eng : Byte
  nrows : BitVec 16
  rows : List Nat := []
  tried : List Nat := []
  below : Bool := true
  deriving DecidableEq, Repr

/-- A finding slot of the deck record (R171): the record, and its four flags and adjustment part. -/
structure FSlot where
  finding : Finding
  waiting : Bool := false
  adjusted : Bool := false
  retired : Bool := false
  hterm : BitVec 16 := 0
  dcolsum : BitVec 16 := 0
  deriving DecidableEq, Repr

/-- What the program engine is doing on a deck (R148–R151): the row to take next, or 2,059 where DONE is due; the loop it takes next; whether
step 2 of R150 is done. -/
structure ProgState where
  row : Nat := 0
  loop : Nat := 1
  resumed : Bool := false
  logDone : Bool := false
  /-- the header that row S0 takes is made -/
  hdr : Bool := false
  /-- erase loops that have not verified, and whether an erase loop is under way -/
  eraseLoops : Nat := 0
  looping : Bool := false
  deriving DecidableEq, Repr

/-- The last program loop of a deck (R146): its row, its number, the beat it began at, and the conductances its pulse found, by cell. -/
structure LoopRun where
  row : Nat
  loop : Nat
  start : Nat
  before : List (Nat × Nat)
  deriving DecidableEq, Repr

/-- A cell to be programmed: physical column, target conductance and verify band (R148). -/
structure CellGoal where
  col : Nat
  gt : Nat
  band : Nat
  deriving DecidableEq, Repr

/-- The programming of a repair rung (R130, R131): its finding, the rows left with their goals, the loop the first of them takes next, and the
rows that did not pass. Rung 3 carries the sum of e_r, the ledger term, and whether the group's checks are masked (R133). -/
structure Repair where
  seq : Nat
  rung : Nat
  rows : List (Nat × List CellGoal)
  loop : Nat := 1
  bad : Nat := 0
  sum : Int := 0
  hterm : BitVec 16 := 0
  mask : Bool := false
  deriving DecidableEq, Repr

/-- What a sweep of a deck has found (R125, R127): the beat its last sub-strike has ended, the samples of each group, the CS_SIGMA measured of
those with 256 samples, and the (group, row) pairs flagged. -/
structure SweepRes where
  ready : Nat
  samples : Sparse (List Nat)
  sigma : Sparse Nat
  flagged : List (Nat × Nat)
  deriving DecidableEq, Repr

/-- The target image and output table of a tile-deck (R165): the format, and where they lie in the engagement's stacked memory. -/
structure TargetRef where
  eng : BitVec 6
  fmt : WFmt
  image : Nat
  table : Nat
  sDeck : Word := 0
  complete : Bool := false
  deriving DecidableEq, Repr

/-- The registers of a tile-deck that option loading restores (R55, R56, R89, R178). -/
structure DeckReg where
  fmt : WFmt := .unused
  owned : Bool := false
  eng : BitVec 6 := 0
  pmode : BitVec 2 := 0
  sparesUsed : Nat := 0
  cycles : Nat := 0
  part : Bool := false
  programmed : Bool := false
  spareMap : Sparse Word := []
  marks : Nat := 0
  tenant : BitVec 128 := 0
  deriving DecidableEq, Repr

/-- One PHYSICAL tile-deck: cells, the deck record, and what the tile, the Assayer and Customs hold for it. -/
structure Deck where
  /-- conductance of cell row × 1,152 + column, in 1/672,000 of G_FS; spare rows S0–S15 are rows 2,048–2,063 (R31, R174) -/
  cells : Sparse Nat := []
  /-- the deck record as it was last read from the spare rows or written to them (R169–R174) -/
  header : Option DeckHeader := none
  outTab : Sparse (Byte × Int) := []
  spareLog : List (Nat × Nat × Nat) := []
  slots : List FSlot := []
  jStart : Bool := false
  jDone : Bool := false
  jProgress : BitVec 32 := 0
  jInterrupt : List (Nat × Nat) := []
  marks : Nat := 0
  /-- program cycles the cells have seen (written to the header, R172) -/
  cycles : Nat := 0
  reg : DeckReg := {}
  opened : Bool := false
  beta : Sparse (BitVec 12) := []
  gamma : Sparse (BitVec 16) := []
  gammaCal : Sparse (BitVec 16) := []
  colsum : Sparse Int := []
  scales : Sparse Byte := []
  sDeck : Word := 0
  tCal : BitVec 9 := 0
  tGamma : Nat := 0
  gtc : BitVec 16 := 0
  gtcPair : Bool := false
  /-- the index of the Held errors in force: a fresh one at each calibration (R94, log 3) -/
  heldGen : Nat := 0
  uncal : Bool := true
  everCal : Bool := false
  lastCal : Beat := 0
  lastSweep : Beat := 0
  calDue : Bool := false
  /-- GAMMA waits to be rewritten for the temperature (R121) -/
  gammaDue : Bool := false
  /-- a calibration not yet written: the beat its last code is converted by, and the null and reference code sums per output -/
  calPend : Option (Nat × List (Int × Int)) := none
  /-- a sweep whose results are not in force yet -/
  sweepPend : Option SweepRes := none
  csSigma : Sparse Nat := []
  csSamples : Sparse (List Nat) := []
  checks : Sparse (BitVec 16) := []
  suspect : Bool := false
  /-- groups whose measured CS_SIGMA exceeds 0.060 CU and that wait for their finding (R125) -/
  wide : List Nat := []
  masked : BitVec 32 := 0
  flagged : List (Nat × Nat) := []
  prog : Option ProgState := none
  progRunning : Bool := false
  erasing : Bool := false
  run : Option LoopRun := none
  repair : Option Repair := none
  outOfService : Bool := false
  /-- a twinned block's other copy on the same string -/
  twin : Option Nat := none
  deriving DecidableEq, Repr

/-- An input-plane bundle in an input buffer (R58): codes by compute row. -/
structure Bundle where
  aw : Byte
  zp : Byte
  tag : BitVec 16
  scale : Word
  poison : Bool
  codes : Sparse Nat
  deriving DecidableEq, Repr

/-- One PHYSICAL tile. -/
structure Tile where
  active : Option (Fin 4) := none
  switchTo : Option (Fin 4) := none
  switchBeat : Beat := 0
  /-- the deck that the itinerary last selected (R53) -/
  lastSel : Option (Fin 4) := none
  /-- the slot beats of the strikes issued and not over, oldest first: the first slot beat and the beat after the last -/
  strikes : List (Nat × Nat) := []
  /-- the beat up to which a program loop, erase loop or verify read occupies the tile (R52), and the deck it is on -/
  workEnd : Nat := 0
  workDeck : Option (Fin 4) := none
  /-- the beat by which a calibration, a sweep or a location that is under way has ended (R109, R112) -/
  assayEnd : Nat := 0
  buf0 : Option Bundle := none
  buf1 : Option Bundle := none
  bankB : Bool := false
  ovf : Word := 0
  dense : BitVec 16 := 0
  limit : BitVec 16 := 0
  temp : Nat := 0
  thermPause : Bool := false
  deriving DecidableEq, Repr

/-- One output on its way through reduction: FP32 value and flags (R81, R88). -/
structure PVal where
  val : Word
  ovf : Bool
  clip : Bool
  poison : Bool
  /-- the tag of the output's strike (R58, R81) -/
  tag : BitVec 16 := 0
  /-- the deck had an open or waiting finding on this output when the strike began (R136) -/
  sick : Bool := false
  deriving DecidableEq, Repr

/-- A partial set waiting in a reduction group (R583, R585). -/
structure PartialSet where
  rgrp : BitVec 8
  level : Bool
  eng : Fin 64
  circuit : Nat
  string : Nat
  tile : Nat
  /-- physical tile-deck the values come from, and its twin on the string (R135) -/
  deck : Nat
  twin : Option Nat
  outs : List PVal
  deriving DecidableEq, Repr

/-- Delivered outputs of one tile of a strike (R583): the tile's number in its string, the physical tile-deck, and the
outputs in ascending local output. -/
structure TileOuts where
  tile : Nat
  key : Nat
  outs : List PVal
  deriving DecidableEq, Repr

/-- A posted write waiting in write staging (R311): device address, bytes and their poison mark. -/
structure Posted where
  pa : Nat
  data : List Byte
  poison : Bool
  deriving DecidableEq, Repr

/-- What the end of a leg on the digital path adds to its core's counters and to its consignment (R192, R209, R223, R257). -/
structure Tally where
  cvtNan : Nat := 0
  cvtSat : Nat := 0
  meSat : Nat := 0
  meNan : Nat := 0
  xOvf : Nat := 0
  xCrc : Nat := 0
  clip : Bool := false
  shadow : Bool := false
  deriving DecidableEq, Repr

/-- What one query row of an attention leg carries from block to block: m, l and o (R219). -/
structure RowState where
  m : Option Word
  l : Word
  o : List Word
  deriving DecidableEq, Repr

/-- An attention leg between two intervals (R219, R220): its rows, the poison of the rows of K and of each column of V used so far, and what it
has counted. -/
structure AttnRun where
  rows : List RowState
  kMark : Bool := false
  vMarks : List Bool := []
  tally : Tally := {}
  deriving DecidableEq, Repr

/-- A write as it is posted (R311): its pieces, the packed blocks among them (region, block and whether it is in overflow form), the region
whose table it builds (R244), and the record of a circuit's end where it carries one (R407). -/
structure PostRec where
  ws : List Posted
  blocks : List (Nat × Nat × Bool) := []
  table : Option Nat := none
  replay : Option ReplayBuf := none
  deriving DecidableEq, Repr

/-- Code tensors with the s_a and z they were made with: Waystation key, s_a and z (R197). -/
abbrev Quants := List (Nat × Word × Byte)

/-- What comes about when a leg's time has passed (R82, R287). -/
inductive Land where
  /-- the first slot beat of a strike leg: its tiles, by number in the string and physical key, with the bundle each took
  in its input stage (R65, R82) -/
  | strike (leg : StrikeLeg) (tiles : List (Nat × Nat × Bundle))
  /-- the outputs of a strike leg leave the correction stage (R81, R83) -/
  | outputs (leg : StrikeLeg) (outs : List TileOuts)
  /-- a reduction ends: the sums of its outputs, before conversion, and the string they come from (R585) -/
  | reduced (leg : ReduceLeg) (string : Nat) (outs : List PVal)
  /-- bytes with their poison marks reach Waystations (core, address, bytes), and what the leg counted; code tensors among them -/
  | write (ws : List (Nat × Nat × List (Byte × Bool))) (k : Tally) (qs : Quants)
  /-- a bundle is complete in an input buffer of tiles (R59) -/
  | bundle (tiles : List Nat) (buf : Fin 2) (b : Option Bundle)
  /-- output tile `t` of a matrix leg begins to stream (R211) -/
  | matrix (d : MatrixDesc) (t : Nat)
  /-- the deadline of block `j` of an attention leg that issued in core cycle `cyc` (R220, R221) -/
  | attend (d : AttnDesc) (cyc j : Nat) (run : AttnRun)
  /-- a write is posted (R311) -/
  | post (w : PostRec)
  /-- slot bytes of a convoy from another device reach their place in a payload of `n` bytes at `addr`, on the core of the flight (R426) -/
  | slot (addr n off : Nat) (bs : List (Byte × Bool))
  /-- a link convoy's slot goes to its port (R304) -/
  | send (port : Fin 8) (payload : List (Byte × Bool))
  /-- bytes of a fetch reach the Waystation (R310): the fetch, their number, and the errors their codewords met -/
  | arrive (read : Nat) (bytes : Nat) (errs : List (Nat × CwErr))
  deriving DecidableEq, Repr

/-- A leg's effect under way: the core cycle it comes about in, the PHYSICAL core whose Drover issued the leg, and the
consignment it works for (consignor and queue entry). -/
structure Flight where
  due : Nat
  core : Nat
  ctx : LegCtx
  cons : Option (Nat × Nat)
  what : Land
  deriving DecidableEq, Repr

/-- Accesses to one Waystation bank (R298): in `len` cycles from cycle `start`, and again every 8 cycles, `reps` times in all. -/
structure BankUse where
  bank : Nat
  start : Nat
  len : Nat
  reps : Nat := 1
  deriving DecidableEq, Repr

/-- A read from stacked memory that has been issued (R310). -/
structure PendRead where
  id : Nat
  eng : Fin 64
  circuit : Nat
  leg : BitVec 16
  desc : PorterDesc
  issue : Beat
  dl : Beat
  late : BitVec 2
  /-- bytes that have reached the stop, and those of them that are in the Waystation -/
  arrived : Nat := 0
  delivered : Nat := 0
  /-- the deadline has been judged for good -/
  sampled : Bool := false
  /-- the deadline at which a hold was last raised (R226, R286) -/
  judged : Option Nat := none
  usedTail : Bool := false
  holds : Nat := 0
  deriving DecidableEq, Repr

/-- A loaded itinerary (R272): the engagement, the active image and the standby image (address, length). -/
structure Itin where
  eng : Fin 64
  base : Nat
  len : Nat
  standby : Option (Nat × Nat) := none
  remove : Bool := false
  deriving DecidableEq, Repr

/-- One PHYSICAL core. -/
structure Core where
  cvtNan : BitVec 16 := 0
  cvtSat : BitVec 16 := 0
  meSat : BitVec 16 := 0
  meNan : BitVec 16 := 0
  attSubst : BitVec 16 := 0
  attSkip : BitVec 16 := 0
  stallHolds : BitVec 16 := 0
  stallGiveup : BitVec 8 := 0
  xOvf : BitVec 16 := 0
  xCrc : BitVec 16 := 0
  prtLate : BitVec 16 := 0
  prtTail : BitVec 16 := 0
  running : Bool := false
  /-- bit g: the core's stop on Roads segment g is live (R22, R305) -/
  stops : BitVec 4 := 0
  itins : List Itin := []
  /-- by engagement, the address of the image that was active before its last switch, and the switch's beat (R278) -/
  oldImage : Sparse (Nat × Nat) := []
  /-- the beat at which the latest hold on the core ends (R226, R294) -/
  holdUntil : Beat := 0
  swapPend : Bool := false
  fValid : Bool := false
  fCause : BitVec 4 := 0
  fEng : BitVec 6 := 0
  fLeg : BitVec 16 := 0
  /-- circuits whose start the Drover acknowledged: engagement and circuit; and the legs it has issued of them, by index (R279) -/
  acks : List (Nat × Nat) := []
  issued : List (Nat × Nat × Nat) := []
  groups : List PartialSet := []
  reads : List PendRead := []
  /-- KV frames whose fetch missed its deadline (R221): engagement, circuit, Waystation address -/
  kvLate : List (Nat × Nat × Nat) := []
  /-- the beats from which each string bus, and the core reduction stage, are idle (R282) -/
  busFree : Vector Nat 12 := Vector.replicate 12 0
  stageFree : Nat := 0
  /-- core cycles from which the matrix engine and the vector unit take the next leg (R212, R218, R282) -/
  meFree : Nat := 0
  vecFree : Nat := 0
  /-- core cycles from which each Porter channel takes the next descriptor (R306), and each lane of the stop reader the next convoy -/
  chanFree : Vector Nat 4 := Vector.replicate 4 0
  laneFree : Vector Nat 8 := Vector.replicate 8 0
  /-- accesses to Waystation banks that legs under way make (R298) -/
  banks : List BankUse := []
  /-- s_a and z of the code tensors the vector unit wrote, by Waystation address (R197, log 21) -/
  quant : Sparse (Word × Byte) := []
  /-- the engagement that owns each page (R297) -/
  pageOwner : Sparse Nat := []
  /-- pages whose ownership a switch changed: the engagement it took them from, and the beat by which the legs of its older circuits are
  done (R278, R315) -/
  pageOld : Sparse (Nat × Nat) := []
  ivrOn : Bool := false
  ivrLock : Bool := false
  ivrRetries : Nat := 0
  /-- VARR in millivolts -/
  varr : Nat := 0
  pumps : Vector Pump 12 := Vector.replicate 12 {}
  deriving DecidableEq, Repr

/-- A core with no live stop (R305). -/
def Core.dead (c : Core) : Bool := c.stops == 0

/-! ## Stacked memory (R319–R348) -/

structure Stack where
  dgfail : BitVec 10 := 0
  stFail : Bool := false
  lapLast : BitVec 16 := 0
  /-- Patrol position in codewords, and the epoch its lap began in -/
  pos : Nat := 0
  lapEpoch : Nat := 0
  fill : BitVec 4 := 1
  leak : BitVec 8 := 16
  size : BitVec 16 := 4096
  level : Nat := 0
  ovf : Bool := false
  ovfCnt : BitVec 8 := 0
  ce : Word := 0
  ue : BitVec 16 := 0
  psn : BitVec 16 := 0
  /-- recent corrected codewords confined to one group: group and beat (R324) -/
  recent : List (Nat × Beat) := []
  deriving DecidableEq, Repr

structure UeEntry where
  pa : Nat
  kind : BitVec 2
  eng : BitVec 6
  owned : Bool
  deriving DecidableEq, Repr

structure Ptl where
  rate : Byte := 16
  stDone : Bool := false
  inservice : Bool := false
  stack : Vector Stack 2 := Vector.replicate 2 {}
  ueLog : List UeEntry := []
  ueLost : Bool := false
  injArm : Bool := false
  injStack : Fin 2 := 0
  injMask : BitVec 10 := 0
  deriving DecidableEq, Repr

/-- The read-staging space of a fetch (R310): its bytes, held to the last beat of its window. -/
structure ReadHold where
  id : Nat
  bytes : Nat
  last : Beat
  deriving DecidableEq, Repr

structure Prt where
  rdMax : Nat := 0
  wrMax : Nat := 0
  /-- the space that fetches hold in read staging, whether or not their bytes still come -/
  rdHeld : List ReadHold := []
  wrNow : Nat := 0
  writes : List Posted := []
  deriving DecidableEq, Repr

/-! ## Assayer, device-wide (R137–R145, R179, R180) -/

structure Asy where
  interval : BitVec 5 := 4
  lock : Bool := false
  findings : BitVec 16 := 0
  unrep : BitVec 8 := 0
  late : BitVec 8 := 0
  coefSel : BitVec 24 := 0
  resumed : BitVec 16 := 0
  failRows : BitVec 8 := 0
  eraseFail : BitVec 8 := 0
  ring : List Finding := []
  outside : List Finding := []
  nextSeq : Word := 0
  thermInh : Bool := false
  deriving DecidableEq, Repr

/-! ## The boot store (R465–R488) -/

structure ImgSlot where
  hdr : Option ImageHdr := none
  written : Bool := false
  pendingSt : Bool := false
  trial : Bool := false
  active : Bool := false
  retired : Bool := false
  deriving DecidableEq, Repr

/-- An entry of the deck erase log (R173, R479), with the log slots that hold it: two where the map has a continuation. -/
structure EraseEnt where
  slots : List Nat
  deck : Nat
  cycles : Nat
  map : List (Nat × Nat × Nat)
  committed : Bool
  deriving DecidableEq, Repr

structure Bst where
  /-- sectors whose mark word does not hold the sector mark (R471) -/
  unmarked : List Nat := []
  busy : Bool := false
  susp : Bool := false
  opErase : Bool := false
  cmdErr : Bool := false
  opErr : Bool := false
  sector : BitVec 10 := 0
  suspCnt : BitVec 16 := 0
  seg : BitVec 16 := 0
  thr : BitVec 3 := 3
  lock : Bool := false
  lastCbc : BitVec 3 := 0
  warn : Bool := false
  ue : Bool := false
  ueCnt : BitVec 16 := 0
  eccWord : BitVec 21 := 0
  /-- the page being programmed: base and its words -/
  page : Option (Nat × List (Nat × List Word)) := none
  prefetch : List Nat := []
  branch : List Nat := []
  eraseLog : List EraseEnt := []
  /-- the core map record of sectors 6 and 7 -/
  coreMap : Option (List LdgEntry × List Nat) := none
  creds : List (BitVec 384 × Role) := []
  images : Vector ImgSlot 2
  svnFuse : Word := 0
  /-- data of the last array read, or the fault it raised -/
  readData : List Byte := []
  fetchFault : Bool := false
  loadAbort : Bool := false
  /-- what Oluolawell's own data sectors keep of each engagement that a deck record names (log 28) -/
  resident : List (Nat × Eng) := []
  deriving DecidableEq, Repr

/-! ## Huazan Links (R419–R437) -/

inductive PortState where
  | down
  | training
  | up
  | lost
  | sleep
  deriving DecidableEq, Repr

/-- A beat frame of a group that is being received (R423): its type, control word and payload, whether its codeword was
uncorrectable, and the owned slot it came in (engagement, circuit, slot of the circuit). -/
structure RxFrame where
  ftype : BitVec 4
  ctrl : BitVec 64
  payload : List Byte
  bad : Bool
  slot : Option (Fin 64 × Nat × Nat)
  deriving DecidableEq, Repr

structure Port where
  st : PortState := .down
  tree : Bool := false
  upstream : Bool := false
  peer : BitVec 6 := 0
  peerPort : BitVec 3 := 0
  f : BitVec 4 := 0
  d : BitVec 5 := 0
  ue : BitVec 16 := 0
  tagFail : BitVec 8 := 0
  lostCnt : BitVec 8 := 0
  nakCnt : BitVec 16 := 0
  replay : BitVec 16 := 0
  /-- the link secret of the last training, and the key generations sent and received under (R447) -/
  secret : Nat := 0
  gen : BitVec 11 := 0
  rxGen : BitVec 11 := 0
  /-- the beat from which the sent groups count under their key, and the nonce of the group being received (R423) -/
  txFrom : Beat := 0
  rxCtr : Nat := 0
  /-- the group being received with the tag quarters it carries; the group before it, with its key generation and nonce -/
  group : List RxFrame := []
  tagBits : List Word := []
  prevGroup : List RxFrame := []
  prevGen : BitVec 11 := 0
  prevCtr : Nat := 0
  tagFailEpoch : Nat := 0
  /-- beats of recent uncorrectable frames (R430) -/
  ueBeats : List Beat := []
  /-- unowned data (R425): the next USEQ sent, data that waits for a place, frames sent and not acknowledged, frames to resend -/
  txSeq : Word := 0
  sendQ : List (List Byte) := []
  unacked : List (Word × List Byte) := []
  resend : List (Word × List Byte) := []
  /-- NAKs that named the oldest USEQ not acknowledged -/
  naksGot : Nat := 0
  rxSeq : Word := 0
  nakSent : Bool := false
  naksFor : Nat := 0
  /-- the data of the last unowned frame accepted -/
  rxData : List Byte := []
  /-- the Oluolawell version the peer gave in training (R427) -/
  peerVer : Word := 0
  /-- control words and owned-slot payloads given to the port to send, oldest first (R304, R422) -/
  ctrlOut : List (BitVec 64) := []
  slotOut : List (List (Byte × Bool)) := []
  /-- the training phase under way, 0 before phase 1 (R427) -/
  phase : Nat := 0
  fails : Nat := 0
  /-- the port waits for its next try, 100 ms apart; it was LOST and is not UP again (R427, R430) -/
  waitRetry : Bool := false
  lostHeld : Bool := false
  /-- lane supply in millivolts (R522) -/
  laneMv : Nat := 900
  coeffs : Bool := false
  deriving DecidableEq, Repr

/-- A device of a Route as Route formation finds it: number, Oluolawell version, and its UP ports with peer and F (R18, R429). -/
abbrev Node := Fin 64 × Word × List (Fin 8 × Fin 64 × Nat)

structure Hzl where
  devnum : BitVec 6 := 0
  ndev : BitVec 7 := 0
  parent : BitVec 3 := 0
  root : Bool := false
  children : BitVec 8 := 0
  lock : Bool := false
  formed : Bool := false
  ports : Vector Port 8 := Vector.replicate 8 {}
  /-- the devices of the formed Route, with the links its broadcast tree is made from (R429, R430) -/
  nodes : List Node := []
  /-- LOSTN notices flooded since the tree was last computed (device, port) -/
  seenLost : List (Nat × Nat) := []
  deriving DecidableEq, Repr

/-! ## The host side -/

/-- How the last request of the host was completed (the model's own field, log 2). -/
inductive HostResp where
  | none
  | data (bytes : List Byte)
  | poisoned (bytes : List Byte)
  | ok
  | completerAbort
  | unsupported
  | crs
  | discarded
  deriving DecidableEq, Repr

structure Pcie where
  resp : HostResp := .none
  /-- AER: non-fatal errors reported -/
  aerNonFatal : Nat := 0
  aerFatal : Nat := 0
  d3hot : Bool := false
  /-- MSI-X: table words, function of each vector's mask, pending bits, messages sent per vector -/
  msixTab : Sparse Word := []
  msixPba : BitVec 64 := 0
  msixSent : Sparse Nat := []
  deriving DecidableEq, Repr

/-! ## The whole block -/

/-- What the counters read from stood at the last multiple of 200 beats (R458). -/
structure Snap where
  cores : Vector Core 34 := Vector.replicate 34 {}
  tiles : Sparse Tile := []
  decks : Sparse Deck := []
  ptl : Ptl := {}
  prt : Prt := {}
  hzl : Hzl := {}
  deriving DecidableEq, Repr

/-- Every memory of bytes, each a list of (address, byte) pairs in canonical form. -/
structure Memory where
  /-- Waystation bytes at physical core × 0x30_0000 + address; unlisted bytes read 0 (log 7) -/
  ws : Sparse Byte := []
  /-- poison bits of 64-byte Waystation units, by byte key div 64 -/
  wsPoison : Sparse Bool := []
  /-- the Roads stop buffers, at physical core × 2^22 + address (R26, R273) -/
  stop : Sparse Byte := []
  /-- the Factor's tightly coupled memory (R26, log 141) -/
  tcm : Sparse Byte := []
  /-- stacked memory by PA: plaintext bytes, valid bits and poison forms of codewords -/
  sm : Sparse Byte := []
  smValid : Sparse Bool := []
  smPoison : Sparse Bool := []
  /-- boot-store array bytes; an unlisted byte reads 0xFF (erased) -/
  boot : Sparse Byte := []
  /-- host memory that the device itself reads and writes: bounce records (R418); not the device's own -/
  host : Sparse Byte := []
  deriving DecidableEq, Repr

structure State where
  /-- the commands that wait, first in, first out -/
  pending : List Instr := []
  /-- the model's own counter of free values (log 1) -/
  free : Nat := 0
  alm : Alm := {}
  rst : Rst := {}
  pwr : Pwr := {}
  tol : Tol := {}
  smc : Smc := {}
  gpio : Gpio := {}
  fac : Fac := {}
  cus : Cus := {}
  mbx : Vector MbPage 17
  order : Nat := 0
  /-- granules, by index -/
  gran : Sparse Gran := []
  /-- the stacked-memory page behind a granule group (R364) -/
  granPage : Sparse Nat := []
  ldg : Ldg
  engs : Vector Eng 64
  regions : Sparse Region := []
  rgnSel : BitVec 12 := 0
  /-- physical tiles and tile-decks, by number (R449 with the physical core number) -/
  tiles : Sparse Tile := []
  decks : Sparse Deck := []
  /-- target images, by LOGICAL tile-deck number -/
  targets : Sparse TargetRef := []
  cores : Vector Core 34
  mem : Memory := {}
  ptl : Ptl := {}
  prt : Prt := {}
  asy : Asy := {}
  bst : Bst
  hzl : Hzl := {}
  pcie : Pcie := {}
  /-- the counters as they stood at the last multiple of 200 beats (R458) -/
  snap : Snap := {}
  /-- effects of legs that are under way, in the order the legs issued (R287) -/
  flights : List Flight := []
  deriving DecidableEq, Repr

/-- The initial core map (R4): logical core n on physical core n, spares 32 and 33. -/
def Ldg.initial : Ldg :=
  { map := Vector.ofFn fun i => { phys := i.val }, spares := [32, 33] }

/-- The boot store as shipped (R580): an Oluolawell release in slot 0 with ACTIVE set, slot 1 erased.  Its
version and build are not stated (log 8). -/
def Bst.shipped : Bst :=
  { images := #v[{ hdr := some { magic := 0x49554C4F, version := 0x01000000, build := 0, svn := 0, len := 0, digest := 0, sigOk := true },
                   written := true, pendingSt := true, trial := true, active := true }, {}] }

/-- The block right after power-on reset (R489 source 1, VSB lost), at the end of the stretch: option
loading comes next (R494). -/
def State.reset : State :=
  { mbx := Vector.replicate 17 {}
    ldg := Ldg.initial
    engs := Vector.replicate 64 {}
    cores := Vector.ofFn fun p => { stops := if p.val < 32 then BitVec.ofNat 4 (2 ^ (p.val / 8)) else 0 }
    bst := Bst.shipped }

end Sys2Proof.Machine
end

