-- ==== Sys2Proof/Machine/Ops.lean ====
section
/-! DEFINITION. The named operations over the state that the meanings share: the beat, physical instances,
interrupts, Waystations, stacked memory, the shared window and the violation log. -/

namespace Sys2Proof.Machine

/-! ## The beat (R263, R264) -/

/-- Beats in an epoch (R264). -/
def epochBeats : Nat := 2 ^ 24

/-- Take the counters as they stand (R458). -/
def takeSnap (s : State) : State :=
  { s with snap := { cores := s.cores, tiles := s.tiles, decks := s.decks, ptl := s.ptl, prt := s.prt, hzl := s.hzl } }

/-- The epoch number of the count. -/
def epochOf (s : State) : Nat := s.alm.beat.toNat / epochBeats

/-- The next epoch boundary after the count. -/
def nextEpoch (s : State) : Nat := (epochOf s + 1) * epochBeats

/-- A fresh index of free values (log 1). -/
def freshen (s : State) : State := { s with free := s.free + 1 }

/-! ## Physical instances (R3, R17, R548) -/

/-- The physical core that serves a logical one. -/
def physOf (s : State) (c : Nat) : Nat := (vget {} s.ldg.map c).phys

/-- Whether no physical core serves a logical one (R17). -/
def isOut (s : State) (c : Nat) : Bool := (vget {} s.ldg.map c).out

/-- Whether a logical core is fenced. -/
def isFenced (s : State) (c : Nat) : Bool := (vget {} s.ldg.map c).fenced

def mapMod (s : State) (c : Nat) (f : LdgEntry → LdgEntry) : State :=
  { s with ldg := { s.ldg with map := vmod s.ldg.map c f } }

/-- The number of a tile-deck on core `c` (R449). -/
def deckNum (c st t d : Nat) : Nat := c * 768 + st * 64 + t * 4 + d

/-- The number of a tile on core `c` (R131). -/
def tileNum (c st t : Nat) : Nat := c * 192 + st * 16 + t

def logicalDeck (a : DeckAddr) : Nat := deckNum a.core a.string a.tile a.deck
def deckKey (s : State) (a : DeckAddr) : Nat := deckNum (physOf s a.core) a.string a.tile a.deck
def tileKey (s : State) (a : TileAddr) : Nat := tileNum (physOf s a.core) a.string a.tile

/-- The tile-deck of a logical number. -/
def deckOfNum (n : Nat) : DeckAddr :=
  { core := Fin.ofNat 32 (n / 768), string := Fin.ofNat 12 (n / 64 % 12), tile := Fin.ofNat 16 (n / 4 % 16), deck := Fin.ofNat 4 (n % 4) }

/-- The physical key of a logical tile-deck number. -/
def physDeck (s : State) (n : Nat) : Nat := physOf s (n / 768) * 768 + n % 768

/-- The logical number of a physical tile-deck key, if a logical core is served by its core. -/
def logicalOfPhys (s : State) (k : Nat) : Option Nat :=
  ((List.range 32).find? fun c => physOf s c == k / 768 && !isOut s c).map fun c => c * 768 + k % 768

def getDeck (s : State) (k : Nat) : Deck := sget {} s.decks k
def modDeck (s : State) (k : Nat) (f : Deck → Deck) : State := { s with decks := smod {} s.decks k f }
def getTile (s : State) (k : Nat) : Tile := sget {} s.tiles k
def modTile (s : State) (k : Nat) (f : Tile → Tile) : State := { s with tiles := smod {} s.tiles k f }
def getCore (s : State) (p : Nat) : Core := vget {} s.cores p
def modCore (s : State) (p : Nat) (f : Core → Core) : State := { s with cores := vmod s.cores p f }
def getEng (s : State) (e : Nat) : Eng := vget {} s.engs e
def modEng (s : State) (e : Nat) (f : Eng → Eng) : State := { s with engs := vmod s.engs e f }
def getMb (s : State) (p : Nat) : MbPage := vget {} s.mbx p
def modMb (s : State) (p : Nat) (f : MbPage → MbPage) : State := { s with mbx := vmod s.mbx p f }
def getPort (s : State) (p : Nat) : Port := vget {} s.hzl.ports p
def modPort (s : State) (p : Nat) (f : Port → Port) : State :=
  { s with hzl := { s.hzl with ports := vmod s.hzl.ports p f } }
def getStack (s : State) (i : Nat) : Stack := vget {} s.ptl.stack i
def modStack (s : State) (i : Nat) (f : Stack → Stack) : State :=
  { s with ptl := { s.ptl with stack := vmod s.ptl.stack i f } }

/-- Apply an operation for each element of a list, in order. -/
def forEach {α : Type} (l : List α) (s : State) (f : State → α → State) : State := l.foldl f s

/-! ## Interrupts (R363) -/

/-- A word of the MSI-X table; a vector is masked until the host writes its control word (log 10). -/
def msixWord (s : State) (i : Nat) : Word := sget (if i % 4 = 3 then 1 else 0) s.pcie.msixTab i

/-- Signal a vector: the message is sent, or is pending while the vector is masked. -/
def fireVector (s : State) (v : Nat) : State :=
  if flagOf (msixWord s (4 * v + 3)) 0 then
    { s with pcie := { s.pcie with msixPba := s.pcie.msixPba ||| BitVec.ofNat 64 (2 ^ v) } }
  else { s with pcie := { s.pcie with msixSent := smod 0 s.pcie.msixSent v (· + 1) } }

/-- Write a word of the MSI-X table; unmasking a pending vector sends its message. -/
def msixWrite (s : State) (i : Nat) (w : Word) : State :=
  let s1 := { s with pcie := { s.pcie with msixTab := sset (if i % 4 = 3 then 1 else 0) s.pcie.msixTab i w } }
  if i % 4 = 3 ∧ flagOf w 0 = false ∧ bitOf s1.pcie.msixPba.toNat (i / 4) then
    fireVector { s1 with pcie := { s1.pcie with msixPba := s1.pcie.msixPba &&& ~~~(BitVec.ofNat 64 (2 ^ (i / 4))) } } (i / 4)
  else s1

/-! ## The violation log (R371) -/

/-- Log a violation: stored, with vector 20, or lost where 16 entries are held. -/
def logViolation (s : State) (v : Viol) : State :=
  if s.cus.viol.length < 16 then
    fireVector { s with cus := { s.cus with viol := s.cus.viol ++ [v] } } 20
  else { s with cus := { s.cus with violLost := true } }

/-! ## Poison-marked bytes (R296, R331) -/

/-- A byte with the poison mark of the 64-byte unit it came in. -/
abbrev MByte := Byte × Bool

def markAll (p : Bool) (bs : List Byte) : List MByte := bs.map fun b => (b, p)
def plainOf (ms : List MByte) : List Byte := ms.map Prod.fst
def anyMark (ms : List MByte) : Bool := ms.any Prod.snd

/-- Cut a run of bytes from address `a` at the 64-byte boundaries. -/
def unitChunks : Nat → Nat → List MByte → List (Nat × List MByte)
  | 0, _, _ => []
  | n + 1, a, bs =>
    if bs.isEmpty then [] else (a, bs.take (64 - a % 64)) :: unitChunks n (a + (64 - a % 64)) (bs.drop (64 - a % 64))

def chunksOf (a : Nat) (bs : List MByte) : List (Nat × List MByte) := unitChunks (bs.length / 64 + 2) a bs

/-- The poison bit of a unit after a write of `n` bytes of it that carry `mark` (R296). -/
def unitPoison (old mark : Bool) (n : Nat) : Bool := if n = 64 then mark else old || mark

/-! ## Waystations (R296, R297) -/

/-- Bytes of a Waystation. -/
def wsSize : Nat := 0x300000

def wsKey (phys addr : Nat) : Nat := phys * wsSize + addr

/-- The canonical form: keys strictly rising, and no entry equal to what an unlisted key reads as. -/
def Memory.wf (m : Memory) : Bool :=
  swf 0 m.ws && swf false m.wsPoison && swf 0 m.sm && swf false m.smValid && swf false m.smPoison && swf 0xFF m.boot && swf 0 m.host && swf 0 m.stop && swf 0 m.tcm

/-- Change the memories of bytes. -/
def memMod (s : State) (f : Memory → Memory) : State := { s with mem := f s.mem }

/-- Every Waystation of the device reads as zero, unpoisoned. -/
def wsClear (s : State) : State := memMod s fun m => { m with ws := [], wsPoison := [] }

def wsReadByte (s : State) (phys addr : Nat) : Byte := sget 0 s.mem.ws (wsKey phys addr)

/-- `n` bytes with their units' poison marks. -/
def wsRead (s : State) (phys addr n : Nat) : List MByte :=
  (List.range n).map fun i =>
    (sget 0 s.mem.ws (wsKey phys addr + i), sget false s.mem.wsPoison ((wsKey phys addr + i) / 64))

/-- Plain bytes. -/
def wsBytes (s : State) (phys addr n : Nat) : List Byte := sgetRun 0 s.mem.ws (wsKey phys addr) n

def wsPoisoned (s : State) (phys addr n : Nat) : Bool :=
  (List.range (cdiv (addr % 64 + n) 64)).any fun i => sget false s.mem.wsPoison (wsKey phys addr / 64 + i)

/-- Write one chunk within a unit. -/
def wsPutChunk (s : State) (c : Nat × List MByte) : State :=
  memMod s fun m => { m with
    ws := ssetRun 0 m.ws c.1 (plainOf c.2)
    wsPoison := smod false m.wsPoison (c.1 / 64) (fun old => unitPoison old (anyMark c.2) c.2.length) }

/-- Write bytes with their marks. -/
def wsWrite (s : State) (phys addr : Nat) (bs : List MByte) : State :=
  forEach (chunksOf (wsKey phys addr) bs) s wsPutChunk

/-- Write bytes into a core's Roads stop buffer (R273). -/
def stopWrite (s : State) (phys addr : Nat) (bs : List MByte) : State :=
  memMod s fun m => { m with stop := ssetRun 0 m.stop (phys * 2 ^ 22 + addr) (plainOf bs) }

/-- A 32-bit word. -/
def wsWord (s : State) (phys addr : Nat) : Word := BitVec.ofNat 32 (leNat (wsBytes s phys addr 4))

/-- Whether a range lies in the Waystation and in pages of the engagement (R297). -/
def wsOwned (s : State) (phys eng addr n : Nat) : Bool :=
  decide (addr + n ≤ wsSize) &&
    (n == 0 || (List.range ((addr + n - 1) / 4096 - addr / 4096 + 1)).all fun i =>
      let c := getCore s phys
      sfind c.pageOwner (addr / 4096 + i) == some eng ||
        (match sfind c.pageOld (addr / 4096 + i) with | some x => x.1 == eng && decide (s.alm.beat.toNat < x.2) | none => false))

/-! ## Stacked memory (R319–R332) -/

/-- One past the largest physical address (R320). -/
def paLimit : Nat := 19660 * 2 ^ 21

/-- The stack a physical address lies in (R320). -/
def paStack (pa : Nat) : Nat := bitsOf pa 8 1

/-- Write one chunk within a codeword (R325, R330, R332). -/
def smPutChunk (s : State) (c : Nat × List MByte) : State :=
  memMod s fun m => { m with
    sm := ssetRun 0 m.sm c.1 (plainOf c.2)
    smValid := sset false m.smValid (c.1 / 64) true
    smPoison := smod false m.smPoison (c.1 / 64) (fun old => unitPoison old (anyMark c.2) c.2.length) }

/-- Write bytes with their marks into the DRAM. -/
def smWrite (s : State) (pa : Nat) (bs : List MByte) : State := forEach (chunksOf pa bs) s smPutChunk

/-- Bytes of the DRAM with their marks; an unwritten codeword reads as zero (R325). -/
def smRead (s : State) (pa n : Nat) : List MByte :=
  (List.range n).map fun i => (sget 0 s.mem.sm (pa + i), sget false s.mem.smPoison ((pa + i) / 64))

/-- Clear every valid bit: memory reads as zero (R326). -/
def smClear (s : State) : State := memMod s fun m => { m with sm := [], smValid := [], smPoison := [] }

/-- Land a posted write in the DRAM. -/
def landWrite (s : State) (p : Posted) : State := smWrite s p.pa (markAll p.poison p.data)

/-- The state in which every posted write has landed: what a read that begins later returns (R314, R330). -/
def settled (s : State) : State := forEach s.prt.writes s landWrite

/-- Bytes in write staging. -/
def stagedBytes (s : State) : Nat := (s.prt.writes.map fun p => p.data.length).sum

/-- Bytes of read staging that fetches hold in the present beat (R310). -/
def heldBytes (s : State) : Nat := ((s.prt.rdHeld.filter fun h => decide (s.alm.beat.toNat ≤ h.last.toNat)).map fun h => h.bytes).sum

/-- Note the present staging occupancy in the high-water marks (R318). -/
def noteStaging (s : State) : State :=
  { s with prt := { s.prt with wrNow := stagedBytes s, wrMax := max s.prt.wrMax (stagedBytes s),
                               rdMax := max s.prt.rdMax (heldBytes s) } }

/-- A fetch takes read-staging space for its bytes, to the end of its window (R310). -/
def holdStaging (s : State) (id bytes : Nat) (last : Beat) : State :=
  noteStaging { s with prt := { s.prt with
    rdHeld := (s.prt.rdHeld.filter fun h => decide (s.alm.beat.toNat ≤ h.last.toNat)) ++ [{ id := id, bytes := bytes, last := last }] } }

/-- A chunk as a posted write. -/
def asPosted (c : Nat × List MByte) : Posted := { pa := c.1, data := plainOf c.2, poison := anyMark c.2 }

/-- Post a write to write staging, one entry per codeword touched (R311). -/
def postWrite (s : State) (pa : Nat) (bs : List MByte) : State :=
  noteStaging { s with prt := { s.prt with writes := s.prt.writes ++ (chunksOf pa bs).map asPosted } }

/-- The physical address of an offset in an engagement's reservation (R308); none outside it. -/
def engPa (s : State) (e off : Nat) : Option Nat := (getEng s e).pages[off / 2 ^ 21]?.map fun p => p * 2 ^ 21 + off % 2 ^ 21

/-- Whether a range of offsets lies in the engagement's reservation. -/
def engOwned (s : State) (e off n : Nat) : Bool := n == 0 || decide (off + n ≤ (getEng s e).pages.length * 2 ^ 21)

/-- Bytes at an offset of an engagement's reservation, posted writes included. -/
def engRead (s : State) (e off n : Nat) : List MByte :=
  let v := settled s
  (List.range n).map fun i =>
    match engPa s e (off + i) with
    | some pa => (sget 0 v.mem.sm pa, sget false v.mem.smPoison (pa / 64))
    | none => (0, false)

/-- Cut a run at the codeword boundaries of an engagement's offsets and give each piece its physical address. -/
def engChunks (s : State) (e off : Nat) (bs : List MByte) : List (Nat × List MByte) :=
  (chunksOf off bs).filterMap fun c => (engPa s e c.1).map fun pa => (pa, c.2)

/-- Write at an offset directly, as unowned moves do (R306). -/
def engWrite (s : State) (e off : Nat) (bs : List MByte) : State := forEach (engChunks s e off bs) s smPutChunk

/-- Post a write at an offset (R311). -/
def engPost (s : State) (e off : Nat) (bs : List MByte) : State :=
  noteStaging { s with prt := { s.prt with writes := s.prt.writes ++ (engChunks s e off bs).map asPosted } }

/-! ## The shared window (R364–R368, R417, R418) -/

def granNone : BitVec 2 := 0
def granHost : BitVec 2 := 1
def granDevice : BitVec 2 := 2

def getGran (s : State) (k : Nat) : Gran := sget {} s.gran k
def modGran (s : State) (k : Nat) (f : Gran → Gran) : State := { s with gran := smod {} s.gran k f }

/-- The granules a shared-window range covers. -/
def granulesOf (addr n : Nat) : List Nat :=
  if n = 0 then [] else (List.range ((addr + n - 1) / 65536 - addr / 65536 + 1)).map (addr / 65536 + ·)

/-- The physical address of a shared-window address; none while its group has no page (R364). -/
def granPa (s : State) (addr : Nat) : Option Nat :=
  (sfind s.granPage (addr / 65536 / 32)).map fun p => p * 2 ^ 21 + (addr / 65536 % 32) * 65536 + addr % 65536

/-- Bytes of the shared window with their marks. -/
def winRead (s : State) (addr n : Nat) : List MByte :=
  let v := settled s
  (List.range n).map fun i =>
    match granPa s (addr + i) with
    | some pa => (sget 0 v.mem.sm pa, sget false v.mem.smPoison (pa / 64))
    | none => (0, false)

/-- Write bytes into the shared window. -/
def winWrite (s : State) (addr : Nat) (bs : List MByte) : State :=
  forEach ((chunksOf addr bs).filterMap fun c => (granPa s c.1).map fun pa => (pa, c.2)) s smPutChunk

/-- Plain bytes of the shared window. -/
def winBytes (s : State) (addr n : Nat) : List Byte := plainOf (winRead s addr n)

/-- Whether a granule is DEVICE and assigned to the mailbox; the privileged mailbox may name any (log 11). -/
def granNamed (s : State) (mb k : Nat) : Bool :=
  decide (k < 65536) && (getGran s k).flag == granDevice && (mb == 16 || (getGran s k).cid.toNat == mb)

/-- The host address of a granule's bounce record (R417). -/
def bounceAddr (s : State) (k : Nat) : Nat :=
  s.cus.bncHi.toNat * 2 ^ 32 + s.cus.bncLo.toNat * 4096 + k * 0x10200

/-- The 16-byte header of a chunk: granule, chunk and transfer counter (log 12). -/
def bounceHeader (k c ctr : Nat) : List Byte := leBytes 4 k ++ leBytes 4 c ++ leBytes 8 ctr

/-- The nonce of a chunk: granule index, chunk index and transfer counter (R446). -/
def bounceNonce (k c ctr : Nat) : BitVec 96 := BitVec.ofNat 96 (k % 2 ^ 16 + c % 2 ^ 16 * 2 ^ 16 + ctr % 2 ^ 64 * 2 ^ 32)

/-- Encrypt one chunk of a granule into its record. -/
def bouncePushChunk (k ctr : Nat) (s : State) (c : Nat) : State :=
  let r := Config.gcmSeal s.cus.kBnc (bounceNonce k c ctr) (bounceHeader k c ctr) (winBytes s (k * 65536 + c * 4096) 4096)
  let bytes := (r.1 ++ List.replicate 4096 0).take 4096 ++ leBytes 16 r.2.toNat ++ bounceHeader k c ctr
  memMod s fun m => { m with host := ssetRun 0 m.host (bounceAddr s k + c * 4128) bytes }

/-- A granule returns to HOST in bounce mode: its counter advances and Customs encrypts it (R418). -/
def bouncePush (s : State) (k : Nat) : State :=
  let ctr := sget 0 s.cus.bncCtr k + 1
  let s1 := { s with cus := { s.cus with bncCtr := sset 0 s.cus.bncCtr k ctr } }
  forEach (List.range 16) s1 (bouncePushChunk k ctr)

/-- Decrypt one chunk of a record: its 4,096 bytes, if the tag verifies. -/
def bounceOpenChunk (s : State) (k c : Nat) : Option (List Byte) :=
  let a := bounceAddr s k + c * 4128
  let ct := sgetRun 0 s.mem.host a 4096
  let tag := leNat (sgetRun 0 s.mem.host (a + 4096) 16)
  let hd := sgetRun 0 s.mem.host (a + 4112) 16
  let ctr := leNat (hd.drop 8)
  Config.gcmOpen s.cus.kBnc (bounceNonce k c ctr) hd ct (BitVec.ofNat 128 tag)

/-- Pull a granule from its record: plaintext, or zeros where a tag fails (R418); the flag says that it verified. -/
def bouncePull (s : State) (k : Nat) : State × Bool :=
  let cs := (List.range 16).map (bounceOpenChunk s k)
  if cs.all Option.isSome then
    (winWrite s (k * 65536) (markAll false (cs.flatMap fun c => c.getD [])), true)
  else (winWrite s (k * 65536) (markAll false (List.replicate 65536 0)), false)

/-- A message that names granules is taken (R368). -/
def granHold (s : State) (ks : List Nat) : State := forEach ks s fun s k => modGran s k fun g => { g with refs := g.refs + 1 }

/-- A message that names a granule ends: the granule returns to HOST when no other message names it. -/
def granDrop (s : State) (k : Nat) : State :=
  let g := getGran s k
  let s1 := modGran s k fun g => { g with refs := g.refs - 1 }
  if g.refs ≤ 1 ∧ g.flag = granDevice then
    modGran (if s1.cus.bounce then bouncePush s1 k else s1) k fun g => { g with flag := granHost }
  else s1

def granRelease (s : State) (ks : List Nat) : State := forEach ks s granDrop

/-- Pages of stacked memory that any engagement or granule group holds. -/
def heldPages (s : State) : List Nat := (s.engs.toList.flatMap fun e => e.pages) ++ s.granPage.map Prod.snd

/-- The lowest `n` free pages (R320); none where fewer are free. -/
def freePages (s : State) (n : Nat) : Option (List Nat) :=
  let held := heldPages s
  let l := ((List.range (held.length + n)).filter fun p => decide (p < 19660) && !held.contains p).take n
  if l.length = n then some l else none

/-- Return a granule group's page when no granule of the group is in use (R364). -/
def granTidy (s : State) (j : Nat) : State :=
  if s.gran.any fun e => e.1 / 32 == j && e.2.flag != granNone then s
  else { s with granPage := sdel s.granPage j }

/-! ## Error reporting to the host (R416) -/

def setResp (s : State) (r : HostResp) : State := { s with pcie := { s.pcie with resp := r } }
def aerNonFatal (s : State) : State := { s with pcie := { s.pcie with aerNonFatal := s.pcie.aerNonFatal + 1 } }

/-! ## Confidential mode (R458) -/

/-- Whether readers see coarsened values: CONF set and PROFILE not granted. -/
def coarse (s : State) : Bool := s.cus.conf && !bitOf s.cus.scopes.toNat 0

/-- Clear the bits below bit floor(log2 v) − 7. -/
def coarsen (v : Nat) : Nat := v / 2 ^ (Nat.log2 v - 7) * 2 ^ (Nat.log2 v - 7)

/-- A count as a reader sees it: `now` live, or `then_` as it stood at the last multiple of 200 beats. -/
def countView (s : State) (now then_ : Nat) : Nat := if coarse s then coarsen then_ else now

end Sys2Proof.Machine
end

