-- ==== Sys2Proof/Machine/BootStore.lean ====
section
/-! DEFINITION. The boot store: command sequences, operations, the read path, images and refresh (R465–R488). -/

namespace Sys2Proof.Machine

def bstMod (s : State) (f : Bst → Bst) : State := { s with bst := f s.bst }

/-- A byte of the array; an unlisted one is erased. -/
def bstByte (s : State) (off : Nat) : Byte := sget 0xFF s.mem.boot off
def bstBytes (s : State) (off n : Nat) : List Byte := sgetRun 0xFF s.mem.boot off n

/-- Whether the 32-byte word at `off` is erased (R465). -/
def bstErased (s : State) (off : Nat) : Bool := (sgetRun 0xFF s.mem.boot off 32).all (· == 0xFF)

/-- Whether a sector holds its mark (R471). -/
def bstMarked (b : Bst) (sec : Nat) : Bool := !b.unmarked.contains sec

/-! ## Command sequences (R469) -/

def bstKeyOff : Nat := 0x3FF00
def bstCheckOff : Nat := 0x3FF04
def bstGoOff : Nat := 0x3FF08

def bstIsCmdWord (off : Nat) : Bool := off == bstKeyOff || off == bstCheckOff || off == bstGoOff

/-- Whether the first two stores are the KEY and CHECK of a command code. -/
def bstKeyOk (code : Nat) (l : List (Nat × Word)) : Bool :=
  match l with
  | (ko, k) :: (co, c) :: _ =>
    ko == bstKeyOff && k == BitVec.ofNat 32 (0x71D00000 + code) && co == bstCheckOff && c == ~~~k
  | _ => false

/-- A two-store command: nothing follows the CHECK. -/
def bstShort (code : Nat) (l : List (Nat × Word)) : Bool := bstKeyOk code l && l.length == 2

/-- The page and data stores of a valid PROGRAM sequence. -/
def bstProgramSeq (l : List (Nat × Word)) : Option (Nat × List (Nat × Word)) :=
  let data := (l.drop 2).dropLast
  match l.getLast?, data with
  | some (go, v), (o, _) :: _ =>
    let page := o / 256 * 256
    if bstKeyOk 1 l && go == bstGoOff && decide (data.length ≤ 64) && v == BitVec.ofNat 32 (page + 1) &&
        data.all fun d => d.1 / 256 * 256 == page && d.1 % 4 == 0 && !bstIsCmdWord d.1 && decide (d.1 < 2 ^ 26)
    then some (page, data) else none
  | _, _ => none

/-- The sector of a valid ERASE sequence. -/
def bstEraseSeq (l : List (Nat × Word)) : Option Nat :=
  match l with
  | [_, _, (go, v)] =>
    if bstKeyOk 2 l && go == bstGoOff && v.toNat % 65536 == 2 && decide (v.toNat < 2 ^ 26) then some (v.toNat / 65536) else none
  | _ => none

/-- An invalid sequence sets CMDERR and changes nothing else. -/
def bstCmdErr (s : State) : State := bstMod s fun b => { b with cmdErr := true }

/-- The 8 stores of the array word `w` of a page, absent ones all ones (R470). -/
def bstWordData (page w : Nat) (data : List (Nat × Word)) : List Word :=
  (List.range 8).map fun i =>
    match (data.reverse.find? fun d => d.1 == page + w * 32 + i * 4) with | some d => d.2 | none => 0xFFFFFFFF

/-- The array words of a page that received a store, with their data. -/
def bstPageWords (page : Nat) (data : List (Nat × Word)) : List (Nat × List Word) :=
  ((List.range 8).filter fun w => data.any fun d => d.1 / 32 == page / 32 + w).map fun w => (page + w * 32, bstWordData page w data)

/-- PROGRAM (R469–R471): refused with OPERR where a word is not erased, the sector lacks its mark, or it is one of the
locked sectors 0 to 3 (log 15). -/
def bstStartProgram (s : State) (l : List (Nat × Word)) : State :=
  match bstProgramSeq l with
  | none => bstCmdErr s
  | some (page, data) =>
    let ws := bstPageWords page data
    let sec := page / 65536
    if s.bst.busy then bstCmdErr s
    else if sec < 4 ∨ bstMarked s.bst sec = false ∨ (ws.all fun w => bstErased s w.1) = false then
      bstMod s fun b => { b with opErr := true, opErase := false, sector := BitVec.ofNat 10 sec }
    else bstMod s fun b => { b with busy := true, susp := false, opErase := false, sector := BitVec.ofNat 10 sec, page := some (page, ws) }

/-- Both buffers are flushed when an operation ends (R466). -/
def bstFlush (b : Bst) : Bst := { b with prefetch := [], branch := [] }

def bstFinishProgram (s : State) : State :=
  if s.bst.busy && !s.bst.opErase then
    match s.bst.page with
    | some (_, ws) =>
      memMod (bstMod s fun b => bstFlush { b with busy := false, page := none }) fun m =>
        { m with boot := ws.foldl (fun m w => ssetRun 0xFF m w.1 (wordsBytes w.2)) m.boot }
    | none => s
  else s

/-- What an image slot is after sector `sec` of it has been erased, or its cells are indeterminate: the header stands in its first sector and three
state words in its last (R480), and no image verifies with a part missing (R481). -/
def lostImage (x : ImgSlot) (k : Nat) : ImgSlot :=
  if k = 0 then {}
  else
    let y := if k = 383 then { x with trial := false, active := false, retired := false } else x
    { y with hdr := y.hdr.map fun h => { h with sigOk := false } }

/-- The image slots after a sector has lost its contents. -/
def dropImage (b : Bst) (sec : Nat) : Bst :=
  if 64 ≤ sec ∧ sec < 832 then { b with images := vmod b.images ((sec - 64) / 384) fun x => lostImage x ((sec - 64) % 384) } else b

/-- ERASE: the sector loses its mark at once (R471), and what it held of an image with it. -/
def bstStartErase (s : State) (l : List (Nat × Word)) : State :=
  match bstEraseSeq l with
  | none => bstCmdErr s
  | some sec =>
    if s.bst.busy then bstCmdErr s
    else if sec < 4 then bstMod s fun b => { b with opErr := true, opErase := true, sector := BitVec.ofNat 10 sec }
    else bstMod s fun b => { b with busy := true, susp := false, opErase := true, sector := BitVec.ofNat 10 sec,
                                    suspCnt := 0, seg := 0, unmarked := sec :: (dropImage b sec).unmarked.erase sec, images := (dropImage b sec).images }

/-- Free bytes over a range: its cells are indeterminate (R475). -/
def bstScramble (s : State) (off n : Nat) : State :=
  let bytes := (List.range n).map fun i => Config.indeterminateByte (s.free + i)
  memMod { s with free := s.free + n } fun m => { m with boot := ssetRun 0xFF m.boot off bytes }

/-- A segment of the running erase ends; the last one verifies the sector and restores its mark, or leaves its cells indeterminate and without mark
(R471, R473). -/
def bstSegment (s : State) (last verifyOk : Bool) : State :=
  if s.bst.busy && s.bst.opErase && !s.bst.susp then
    let b1 := { s.bst with seg := satAdd s.bst.seg 1 }
    if last then
      let sec := b1.sector.toNat
      if verifyOk then
        memMod { s with bst := bstFlush { b1 with busy := false, unmarked := b1.unmarked.erase sec } } fun m =>
          { m with boot := sclear m.boot (sec * 65536) 65536 }
      else bstScramble { s with bst := bstFlush { b1 with busy := false, opErr := true } } (sec * 65536) 65536
    else { s with bst := b1 }
  else s

def bstDoSuspend (s : State) (l : List (Nat × Word)) : State :=
  if bstShort 3 l && s.bst.busy && s.bst.opErase && !s.bst.susp then
    bstMod s fun b => { b with susp := true, suspCnt := satAdd b.suspCnt 1 }
  else bstCmdErr s

def bstDoResume (s : State) (l : List (Nat × Word)) : State :=
  if bstShort 4 l && s.bst.busy && s.bst.susp then bstMod s fun b => { b with susp := false } else bstCmdErr s

/-- The operation under way ends with its cells indeterminate (R475, R483). -/
def bstCutShort (s : State) : State :=
  if s.bst.busy then
    let s1 := if s.bst.opErase then bstScramble s (s.bst.sector.toNat * 65536) 65536
      else match s.bst.page with | some (page, _) => bstScramble s page 256 | none => s
    bstMod s1 fun b => bstFlush { (dropImage b b.sector.toNat) with busy := false, susp := false, page := none }
  else s

def bstDoAbort (s : State) (l : List (Nat × Word)) : State :=
  if bstShort 5 l && s.bst.busy then bstCutShort s else bstCmdErr s

/-! ## The read path (R466, R467, R474, R476) -/

/-- The corrected-bit count of an array word with `errs` bits in error; 7 is uncorrectable. More errors than the code
detects may escape (log 5). -/
def bstCount (s : State) (errs : Nat) : Nat :=
  if errs ≤ 4 then errs
  else if errs = 5 ∨ Config.undetected [BitVec.ofNat 16 errs] = false then 7
  else (Config.indeterminateByte s.free).toNat % 5

/-- Record an array read's count: LASTCBC, WARN and its address, UE and its count (R467). -/
def bstNote (s : State) (off cbc : Nat) : State :=
  bstMod s fun b =>
    let warns := decide (b.thr.toNat ≤ cbc) && !b.warn
    { b with lastCbc := BitVec.ofNat 3 cbc, warn := b.warn || decide (b.thr.toNat ≤ cbc),
             eccWord := if warns then BitVec.ofNat 21 (off / 32) else b.eccWord,
             ue := b.ue || decide (cbc = 7), ueCnt := if cbc = 7 then satAdd b.ueCnt 1 else b.ueCnt }

/-- Move to the front of a list of at most `n`. -/
def lruTouch (n : Nat) (l : List Nat) (x : Nat) : List Nat := (x :: l.erase x).take n

/-- A Factor fetch or load of the array word at an offset. While an operation runs it stalls: no data yet (log 16). -/
def bstRead (s : State) (offset errs : Nat) (fetch taken : Bool) : State :=
  let off := offset / 32 * 32
  if s.bst.busy && !s.bst.susp then bstMod s fun b => { b with readData := [], fetchFault := false, loadAbort := false }
  else
    let s0 := bstMod s fun b => { b with readData := bstBytes s off 32, fetchFault := false, loadAbort := false }
    if s.bst.prefetch.contains off then s0
    else if s.bst.branch.contains off then bstMod s0 fun b => { b with branch := lruTouch 16 b.branch off }
    else if s.bst.susp && off / 65536 == s.bst.sector.toNat then
      bstMod s0 fun b => { b with readData := List.replicate 32 0xFF, lastCbc := 7 }
    else
      let cbc := if bstErased s off then 0 else bstCount s errs
      let s1 := bstNote (if 5 < errs then freshen s0 else s0) off cbc
      if cbc = 7 then bstMod s1 fun b => { b with readData := [], fetchFault := fetch, loadAbort := !fetch }
      else
        let data := if 5 < errs then (List.range 32).map (Config.escapedByte [BitVec.ofNat 16 errs]) else bstBytes s off 32
        bstMod s1 fun b =>
          { b with readData := data
                   prefetch := if fetch then [off, off + 32, off + 64, off + 96] else b.prefetch
                   branch := if taken then lruTouch 16 b.branch off else b.branch }

/-! ## Refresh (R468) -/

/-- Replace a run of sparse bytes by a copy of another run. -/
def scopyRun (m : Sparse Byte) (src dst n : Nat) : Sparse Byte :=
  let moved := m.filterMap fun e => if src ≤ e.1 ∧ e.1 < src + n then some (e.1 - src + dst, e.2) else none
  moved.foldl (fun m e => sset 0xFF m e.1 e.2) (sclear m dst n)

/-- Sectors of image slot `i`. -/
def slotBase (i : Nat) : Nat := 64 + i * 384

/-- The run that rewrites a warned sector: source offset, destination offset, length; none where no other copy
exists (R468, R478, R483). -/
def refreshRun (b : Bst) (sec : Nat) : Option (Nat × Nat × Nat) :=
  let img (i : Nat) : Option (Nat × Nat × Nat) :=
    match (vget {} b.images i).hdr, (vget {} b.images (1 - i)).hdr with
    | some h, some g => if h.digest = g.digest then some (slotBase (1 - i) * 65536, slotBase i * 65536, 384 * 65536) else none
    | _, _ => none
  let pair (o : Nat) : Option (Nat × Nat × Nat) :=
    if bstMarked b o then some (o * 65536, sec * 65536, 65536) else none
  if sec < 4 then none
  else if sec = 4 ∨ sec = 6 then pair (sec + 1)
  else if sec = 5 ∨ sec = 7 then pair (sec - 1)
  else if sec < 12 then pair (sec + 4)
  else if sec < 16 then pair (sec - 4)
  else if 64 ≤ sec ∧ sec < 448 then img 0
  else if 448 ≤ sec ∧ sec < 832 then img 1
  else none

def bstRefresh (s : State) : State :=
  let sec := s.bst.eccWord.toNat * 32 / 65536
  if s.bst.warn && s.fac.up && !s.bst.busy then
    match refreshRun s.bst sec with
    | some (src, dst, n) =>
      memMod (bstMod s fun b => bstFlush { b with warn := false, eccWord := 0, unmarked := b.unmarked.erase sec }) fun m =>
        { m with boot := scopyRun m.boot src dst n }
    | none => s
  else s

/-- Writing 1 to WARN clears it, and with it the address (R487, R488). -/
def bstClearWarn (s : State) : State := bstMod s fun b => { b with warn := false, eccWord := 0 }

/-! ## Images (R480–R482) -/

/-- Whether a slot may start: complete, verified, and not older than the fuse (R481). -/
def slotEligible (b : Bst) (i : Nat) : Bool :=
  match (vget {} b.images i).hdr with
  | some h => (vget {} b.images i).written && h.sigOk && h.magic == 0x49554C4F && decide (b.svnFuse.toNat ≤ h.svn.toNat)
  | none => false

/-- The immutable boot code's choice and whether it starts in trial (R481). -/
def chooseImage (b : Bst) : Option (Fin 2 × Bool) :=
  let im (i : Fin 2) := vget {} b.images i.val
  let trial (i : Fin 2) : Bool := slotEligible b i && (im i).pendingSt && !(im i).trial && !(im i).retired
  let good (i : Fin 2) : Bool := slotEligible b i && (im i).active && !(im i).retired
  if trial 0 then some (0, true) else if trial 1 then some (1, true)
  else if good 0 then some (0, false) else if good 1 then some (1, false)
  else none

/-- Whether a slot waits to be started (R482). -/
def imagePending (b : Bst) : Bool := b.images.any fun i => i.pendingSt && !i.trial && !i.retired

/-- Start the chosen image: TRIAL is set on a pending one; FAC_VER and FAC_BUILD name it (R382, R481). With none
eligible the Factor does not start. -/
def startImage (s : State) : State :=
  match chooseImage s.bst with
  | none => { s with fac := { s.fac with running := false, up := false, slot := none, trial := false } }
  | some (i, t) =>
    let b1 := if t then { s.bst with images := vmod s.bst.images i fun x => { x with trial := true } } else s.bst
    let h := (vget {} s.bst.images i.val).hdr
    { s with bst := b1
             fac := { s.fac with running := true, slot := some i, trial := t, pendingImg := imagePending b1,
                                 ver := match h with | some h => h.version | none => 0,
                                 build := match h with | some h => h.build | none => 0 } }

/-- A management client holds a role over a TLS session (R459). -/
def mgmtHas (s : State) (client : BitVec 384) (r : Role) : Bool := s.cus.mgmtSessions.contains (client, r)

/-- Receive an image: the slot that is not running is erased and programmed, WRITTEN, then PENDING (R482). -/
def updateImage (s : State) (client : BitVec 384) (h : ImageHdr) : State :=
  match s.fac.slot with
  | some i =>
    if mgmtHas s client .admin && s.fac.up && !s.bst.busy && decide (h.len ≤ 25165440) then
      let j := 1 - i.val
      let b1 := { s.bst with images := vmod s.bst.images j fun _ => { hdr := some h, written := true, pendingSt := true } }
      fireVector { s with bst := bstFlush b1, fac := { s.fac with pendingImg := true } } 22
    else s
  | none => s

/-- Raise the security-version fuse to the SVN of the running image, once it is ACTIVE (R482). -/
def raiseSvn (s : State) (client : BitVec 384) : State :=
  match s.fac.slot with
  | some i =>
    let im := vget {} s.bst.images i.val
    match im.hdr with
    | some h =>
      if mgmtHas s client .admin && im.active && decide (s.bst.svnFuse.toNat < h.svn.toNat) then bstMod s fun b => { b with svnFuse := h.svn }
      else s
    | none => s
  | none => s

/-- FACTOR_UP reached: a trial image becomes ACTIVE and the other slot RETIRED (R481). -/
def confirmImage (s : State) : State :=
  match s.fac.slot with
  | some i =>
    let b1 := if s.fac.trial then
        { s.bst with images := vmod (vmod s.bst.images i.val fun x => { x with active := true }) (1 - i.val) fun x =>
            if x.hdr.isSome then { x with retired := true } else x }
      else s.bst
    { s with bst := b1, fac := { s.fac with trial := false } }
  | none => s

/-! ## The commands -/

def execBstProgram (stores : List (Nat × Word)) (s : State) : Host.Outcome State Fault Refusal := .next (bstStartProgram s stores)
def execBstErase (stores : List (Nat × Word)) (s : State) : Host.Outcome State Fault Refusal := .next (bstStartErase s stores)
def execBstSuspend (stores : List (Nat × Word)) (s : State) : Host.Outcome State Fault Refusal := .next (bstDoSuspend s stores)
def execBstResume (stores : List (Nat × Word)) (s : State) : Host.Outcome State Fault Refusal := .next (bstDoResume s stores)
def execBstAbort (stores : List (Nat × Word)) (s : State) : Host.Outcome State Fault Refusal := .next (bstDoAbort s stores)
def execBstProgramDone (s : State) : Host.Outcome State Fault Refusal := .next (bstFinishProgram s)
def execEraseSegmentEnd (last verifyOk : Bool) (s : State) : Host.Outcome State Fault Refusal := .next (bstSegment s last verifyOk)
def execBstArrayRead (offset : BitVec 26) (bitErrs : Nat) (fetch taken : Bool) (s : State) : Host.Outcome State Fault Refusal :=
  .next (bstRead s offset.toNat bitErrs fetch taken)
def execFlashRefresh (s : State) : Host.Outcome State Fault Refusal := .next (bstRefresh s)
def execFirmwareUpdate (client : BitVec 384) (hdr : ImageHdr) (s : State) : Host.Outcome State Fault Refusal :=
  .next (updateImage s client hdr)
def execSvnFuseRaise (client : BitVec 384) (s : State) : Host.Outcome State Fault Refusal := .next (raiseSvn s client)
def execBstWarnClear (s : State) : Host.Outcome State Fault Refusal := .next (bstClearWarn s)

end Sys2Proof.Machine
end

