-- ==== Sys2Proof/Machine/DeckRecord.lean ====
section
/-! DEFINITION. The spare rows of a deck: header, output table, spare-map log, finding slots and journal, as cells
(R31, R169–R171, R174, R449, R451), and the deck erase log (R173, R479). -/

namespace Sys2Proof.Machine

/-! ## Cells (R28, R43) -/

/-- Local outputs of a deck of a format (R37): 128, 256 or 512. -/
def fmtOutputs (f : WFmt) : Nat := match f with | .unused => 0 | .w8 => 128 | .w4 => 256 | .wt => 512

/-- Cell conductances are counted in 1/672,000 of G_FS, which divides into 1, 3 and 7 steps exactly. -/
def gUnit : Nat := 672000

/-- The conductance of a cell of a compute row. -/
def cellAt (d : Deck) (row col : Nat) : Nat := sget 0 d.cells (row * 1152 + col)

/-! ## Verify bands (R29, R147) -/

/-- The verify band of a cell with that many steps (R29). -/
def bandOf (steps : Nat) : Nat := if steps = 1 then 20160 else if steps = 3 then 10080 else 5376

/-- The most a digit-0 cell may conduct and pass: below 0.5% of G_FS. -/
def zeroBand : Nat := 3359

/-! ## Bits of spare rows -/

def rowS0 : Nat := 2048
/-- Row S13: the spare-map log. -/
def rowLog : Nat := 2061
/-- Row S15: the journal. -/
def rowJournal : Nat := 2063

/-- What a cell of a spare row reads as: digit 1 from half of G_FS on (log 76). -/
def cellBit (d : Deck) (row col : Nat) : Bool := decide (gUnit ≤ 2 * cellAt d row col)

/-- `n` bits of a spare row from column `c` on, as a number. -/
def cellNum (d : Deck) (row c n : Nat) : Nat := ((List.range n).map fun i => b2n (cellBit d row (c + i)) * 2 ^ i).sum

/-- The lowest `n` bits of a number. -/
def numBits (n v : Nat) : List Bool := (List.range n).map (bitOf v)

/-- Bits of digit 1 conduct G_FS; nothing is lowered (R28). -/
def raiseCells (d : Deck) (row c : Nat) (bs : List Bool) : Deck :=
  { d with cells := bs.zipIdx.foldl (fun m x =>
      if x.1 then smod 0 m (row * 1152 + c + x.2) (max gUnit) else m) d.cells }

/-- The cells of a spare row return to digit 0. -/
def blankRow (d : Deck) (row : Nat) : Deck := { d with cells := d.cells.filter fun e => e.1 / 1152 != row }

/-- The goals of a spare row's cells, all 1-bit (R147, R149). -/
def bitGoals (bs : List Bool) : List CellGoal :=
  bs.zipIdx.map fun x => { col := x.2, gt := if x.1 then gUnit else 0, band := if x.1 then bandOf 1 else zeroBand }

/-! ## Rows S0–S10 (R169) -/

/-- The 8 check bytes of a row's payload. -/
def checkBytes (p : List Byte) : List Byte := (Config.bchCheck p ++ List.replicate 8 0).take 8

/-- The 144 bytes of a row as bits, from bit 0 of byte 0 upward. -/
def rowBits (payload : List Byte) : List Bool := (payload ++ checkBytes payload).flatMap fun b => numBits 8 b.toNat

/-- The bits in which two strings of bytes differ. -/
def bitErrors (a b : List Byte) : Nat := ((a.zip b).map fun x => (setBits (x.1 ^^^ x.2).toNat 8).length).sum

/-- A row's payload: as it stands where its check bytes fit it, else as the code corrects it; none where a row is uncorrectable. -/
def readRow (d : Deck) (row : Nat) : Option (List Byte) :=
  let bs := (List.range 144).map fun i => BitVec.ofNat 8 (cellNum d row (8 * i) 8)
  let p := bs.take 136
  if bs.drop 136 = checkBytes p then some p
  else match Config.bchFix bs with
    | some q => if q.length = 136 ∧ bitErrors (q ++ checkBytes q) bs ≤ 4 then some q else none
    | none => none

def fmtCode (f : WFmt) : Nat := match f with | .unused => 0 | .w8 => 1 | .w4 => 2 | .wt => 3
def codeFmt (n : Nat) : WFmt := if n = 1 then .w8 else if n = 2 then .w4 else if n = 3 then .wt else .unused

def blockBytes (b : BlockDesc) : List Byte :=
  leBytes 2 b.layerId.toNat ++ leBytes 2 b.firstRow ++ leBytes 2 b.rowCount ++ leBytes 2 b.nout ++ leBytes 4 b.mask.toNat

/-- The header of row S0. -/
def headerBytes (h : DeckHeader) : List Byte :=
  leBytes 4 0x43455244 ++ leBytes 1 (fmtCode h.fmt + 4 * h.pmode.toNat + 16 * b2n h.owned) ++ leBytes 1 h.eng.toNat ++ leBytes 1 h.blocks.length ++ [0] ++
    leBytes 4 h.cycles ++ leBytes 4 h.sDeck.toNat ++ leBytes 8 h.wbId.toNat ++ (h.blocks.flatMap blockBytes ++ List.replicate 48 0).take 48 ++
    leBytes 16 h.tenant.toNat ++ leBytes 16 h.salt.toNat ++ leBytes 16 h.kcv.toNat ++ List.replicate 16 0

def le (bs : List Byte) (o n : Nat) : Nat := leNat ((bs.drop o).take n)

def blockOf (bs : List Byte) : BlockDesc :=
  { layerId := BitVec.ofNat 16 (le bs 0 2), firstRow := le bs 2 2, rowCount := le bs 4 2, nout := le bs 6 2, mask := BitVec.ofNat 32 (le bs 8 4) }

/-- The header that 136 bytes hold; none without MAGIC. -/
def headerOf (bs : List Byte) : Option DeckHeader :=
  if le bs 0 4 = 0x43455244 then
    some { fmt := codeFmt (le bs 4 1 % 4), pmode := BitVec.ofNat 2 (le bs 4 1 / 4), owned := bitOf (le bs 4 1) 4, eng := BitVec.ofNat 6 (le bs 5 1),
           blocks := (List.range (min 4 (le bs 6 1))).map fun i => blockOf (bs.drop (24 + 12 * i)), cycles := le bs 8 4, sDeck := BitVec.ofNat 32 (le bs 12 4),
           wbId := BitVec.ofNat 64 (le bs 16 8), tenant := BitVec.ofNat 128 (le bs 72 16), salt := BitVec.ofNat 128 (le bs 88 16), kcv := BitVec.ofNat 128 (le bs 104 16) }
  else none

/-- The bits of COLSUM in an entry of the output table. -/
def sumBits (f : WFmt) : Nat := match f with | .w8 => 20 | .w4 => 16 | _ => 13

/-- The output table as one number: entries from bit 0 upward in ascending local output, each with its scale in its low 8 bits. -/
def tableNum (f : WFmt) (t : Sparse (Byte × Int)) : Nat :=
  ((List.range (fmtOutputs f)).map fun p =>
    let e := sget (0, 0) t p
    (e.1.toNat + 256 * unsign (sumBits f) e.2) * 2 ^ (p * (8 + sumBits f))).sum

/-- The payload of row S1 + i. -/
def tableRow (f : WFmt) (t : Sparse (Byte × Int)) (i : Nat) : List Byte := ((leBytes 1360 (tableNum f t)).drop (136 * i)).take 136

def tabEntries (f : WFmt) (n : Nat) : Sparse (Byte × Int) :=
  (List.range (fmtOutputs f)).filterMap fun p =>
    let e := bitsOf n (p * (8 + sumBits f)) (8 + sumBits f)
    let v : Byte × Int := (BitVec.ofNat 8 e, signed (sumBits f) (e / 256))
    if v = (0, 0) then none else some (p, v)

/-- The output table that rows S1–S10 hold; an uncorrectable row gives zeros. -/
def readTable (d : Deck) (f : WFmt) : Sparse (Byte × Int) :=
  tabEntries f (leNat ((List.range 10).flatMap fun i => (readRow d (rowS0 + 1 + i)).getD (List.replicate 136 0)))

/-! ## Row S13 (R170) -/

/-- An entry of 12 bits under its code. -/
def logWord (e : Nat × Nat × Nat) : Nat :=
  let v := packNat [(e.1, 0, 5), (e.2.1, 5, 1), (e.2.2, 6, 6)]
  v + 4096 * (Config.secded 12 v % 64)

/-- The bits of row S13 with the entries of a log. -/
def logBits (log : List (Nat × Nat × Nat)) : List Bool := log.flatMap fun e => numBits 18 (logWord e)

/-- What a code word of `n` bits and `c` check bits holds. -/
def secdedOf (n c w : Nat) : Option Nat := if w / 2 ^ n = Config.secded n (w % 2 ^ n) % 2 ^ c then some (w % 2 ^ n) else Config.secdedFix n c w

def logEntry (v : Nat) : Nat × Nat × Nat := (bitsOf v 0 5, bitsOf v 5 1, bitsOf v 6 6)

/-- A list up to its last element that is not 0. -/
def upToLast (l : List Nat) : List Nat := (l.reverse.dropWhile (· == 0)).reverse

/-- The entries that row S13 holds, up to the last one written. -/
def readLog (d : Deck) : List (Nat × Nat × Nat) :=
  (upToLast ((List.range 64).map fun i => cellNum d rowLog (18 * i) 18)).filterMap fun w => (secdedOf 12 6 w).map logEntry

/-! ## Rows S11, S12, S14: finding slots (R171) -/

/-- Row and first column of slot `i`. -/
def slotPlace (i : Nat) : Nat × Nat := (if i < 5 then 2059 else if i < 10 then 2060 else 2062, 204 * (i % 5))

/-- The record part: 18 bytes of the ledger record. -/
def slotRecord (f : Finding) : List Byte :=
  leBytes 4 f.seq.toNat ++ leBytes 1 f.core ++ leBytes 1 f.string ++ leBytes 1 f.tile ++ leBytes 1 (f.deck + 4 * f.fmt.toNat) ++
    [f.group, f.offset] ++ leBytes 2 f.row.toNat ++ [f.cls] ++ leBytes 2 f.output.toNat ++ [f.eng] ++ leBytes 2 f.nrows.toNat

def recordBits (f : Finding) : List Bool :=
  let v := leNat (slotRecord f)
  numBits 153 (v + 2 ^ 144 * (Config.secded 144 v % 512))

def adjustBits (hterm dcolsum : BitVec 16) : List Bool :=
  let v := hterm.toNat + 65536 * dcolsum.toNat
  numBits 39 (v + 2 ^ 32 * (Config.secded 32 v % 128))

/-- Set flag `j` of slot `i`: USED, WAITING, ADJUSTED, RETIRED. -/
def raiseFlag (d : Deck) (i j : Nat) : Deck := raiseCells d (slotPlace i).1 ((slotPlace i).2 + 192 + 3 * j) [true, true, true]

/-- Three cells read by majority (R171, R174). -/
def majority (d : Deck) (row c : Nat) : Bool := decide (2 ≤ b2n (cellBit d row c) + b2n (cellBit d row (c + 1)) + b2n (cellBit d row (c + 2)))

def slotFlag (d : Deck) (i j : Nat) : Bool := majority d (slotPlace i).1 ((slotPlace i).2 + 192 + 3 * j)

/-- The cells of slot `i` take what a new slot holds: its record part, USED, and the flag of its state. -/
def writeSlot (d : Deck) (i : Nat) (x : FSlot) : Deck :=
  let d1 := raiseFlag (raiseCells d (slotPlace i).1 (slotPlace i).2 (recordBits x.finding)) i 0
  if x.waiting then raiseFlag d1 i 1 else d1

/-- The cells of slot `i` follow a change of its flags; the adjustment part is written with ADJUSTED. -/
def updateSlot (d : Deck) (i : Nat) (x : FSlot) : Deck :=
  let d1 := if x.waiting then raiseFlag d i 1 else d
  let d2 := if x.adjusted then raiseFlag (raiseCells d1 (slotPlace i).1 ((slotPlace i).2 + 153) (adjustBits x.hterm x.dcolsum)) i 2 else d1
  if x.retired then raiseFlag d2 i 3 else d2

/-- The finding of a record part. -/
def slotFinding (bs : List Byte) : Finding :=
  { seq := BitVec.ofNat 32 (le bs 0 4), beat := 0, core := Fin.ofNat 32 (le bs 4 1), string := Fin.ofNat 12 (le bs 5 1), tile := Fin.ofNat 16 (le bs 6 1),
    deck := Fin.ofNat 4 (le bs 7 1), fmt := BitVec.ofNat 2 (le bs 7 1 / 4), group := BitVec.ofNat 8 (le bs 8 1), offset := BitVec.ofNat 8 (le bs 9 1),
    row := BitVec.ofNat 16 (le bs 10 2), cls := BitVec.ofNat 8 (le bs 12 1), rung := 0, st := 0, output := BitVec.ofNat 16 (le bs 13 2), hterm := 0,
    eng := BitVec.ofNat 8 (le bs 15 1), nrows := BitVec.ofNat 16 (le bs 16 2) }

/-- What slot `i` holds, where it is in use. A record that its code cannot correct is not restored (log 76). -/
def readSlot (d : Deck) (i : Nat) : Option FSlot :=
  if slotFlag d i 0 then
    match secdedOf 144 9 (cellNum d (slotPlace i).1 (slotPlace i).2 153) with
    | some v =>
      let a := (secdedOf 32 7 (cellNum d (slotPlace i).1 ((slotPlace i).2 + 153) 39)).getD 0
      some { finding := slotFinding (leBytes 18 v), waiting := slotFlag d i 1, adjusted := slotFlag d i 2, retired := slotFlag d i 3,
             hterm := BitVec.ofNat 16 a, dcolsum := BitVec.ofNat 16 (a / 65536) }
    | none => some { finding := slotFinding (leBytes 18 (cellNum d (slotPlace i).1 (slotPlace i).2 144)), retired := true }
  else none

/-! ## Row S15: the journal (R174, R451) -/

/-- Columns of the journal's marks and entries. -/
def colStart : Nat := 0
def colDone : Nat := 3
def colProgress (j : Nat) : Nat := 6 + 3 * j
def colEntry (i : Nat) : Nat := 102 + 48 * i
def colSeal (j : Nat) : Nat := 486 + 3 * j

/-- A journal pulse sets the three cells of a bit. -/
def journalMark (d : Deck) (c : Nat) : Deck := raiseCells d rowJournal c [true, true, true]

/-- An interrupt entry: row and loops applied. -/
def journalEntry (d : Deck) (row loops : Nat) : Deck :=
  if d.jInterrupt.length < 8 then
    let v := packNat [(row, 0, 12), (loops - 1, 12, 4)]
    { raiseCells d rowJournal (colEntry d.jInterrupt.length) ((numBits 16 v).flatMap fun b => [b, b, b]) with jInterrupt := d.jInterrupt ++ [(row, loops)] }
  else d

def readMark (d : Deck) (c : Nat) : Bool := majority d rowJournal c

def readEntry (d : Deck) (i : Nat) : Nat := ((List.range 16).map fun b => b2n (readMark d (colEntry i + 3 * b)) * 2 ^ b).sum

/-! ## The record read back (R170, R171, R174, R177, R178) -/

/-- The erase log's last entry of a deck. -/
def lastErase (log : List EraseEnt) (k : Nat) : Option EraseEnt := log.reverse.find? fun e => e.deck == k

/-- The spare-map log that the last erase saved (R170). -/
def savedLog (log : List EraseEnt) (k : Nat) : List (Nat × Nat × Nat) := match lastErase log k with | some e => e.map | none => []

/-- A deck's record as its spare rows give it. CYCLES of a deck without a readable header is that of its last logged erase. -/
def readRecord (log : List EraseEnt) (k : Nat) (d : Deck) : Deck :=
  let h := (readRow d rowS0).bind headerOf
  { d with
    header := h
    outTab := match h with | some x => readTable d x.fmt | none => []
    spareLog := readLog d
    slots := (List.range 15).filterMap (readSlot d)
    jStart := readMark d colStart, jDone := readMark d colDone
    jProgress := BitVec.ofNat 32 ((List.range 32).map fun j => b2n (readMark d (colProgress j)) * 2 ^ j).sum
    jInterrupt := (upToLast ((List.range 8).map (readEntry d))).map fun v => (bitsOf v 0 12, bitsOf v 12 4 + 1)
    marks := ((List.range 32).filter fun j => readMark d (colSeal j)).length
    cycles := match h with | some x => x.cycles | none => match lastErase log k with | some e => e.cycles | none => 0 }

/-- Whether the compute rows and the journal of a deck are as an erase leaves them; row S0 may hold the header of the erase (R169, R172). -/
def deckErased (d : Deck) : Bool :=
  !d.jStart && (d.header.all fun h => !h.owned) && d.cells.all fun e => e.1 / 1152 == rowS0

/-! ## The deck erase log (R173, R479) -/

/-- First byte of a log slot: sectors 16–47, 512 slots of 128 bytes each. -/
def logSlotAt (slot : Nat) : Nat := 0x100000 + 128 * (slot % 16384)

/-- Two 12-bit entries to every three bytes. -/
def packMap (map : List (Nat × Nat × Nat)) : List Byte :=
  leBytes 64 ((map.zipIdx.map fun x => packNat [(x.1.1, 0, 5), (x.1.2.1, 5, 1), (x.1.2.2, 6, 6)] * 2 ^ (12 * x.2)).sum)

/-- The words of an entry as it is appended: 80 bytes with the state byte 0x01, then 0xFF. -/
def logEntryBytes (k cycles : Nat) (map : List (Nat × Nat × Nat)) : List Byte :=
  leBytes 4 k ++ leBytes 4 cycles ++ packMap map ++ [0x01] ++ List.replicate 7 0 ++ List.replicate 16 0xFF

def putBoot (s : State) (off : Nat) (bs : List Byte) : State :=
  memMod s fun m => { m with boot := bs.zipIdx.foldl (fun b x => sset 0xFF b (off + x.2) x.1) m.boot }

/-- The next slot of the log. -/
def nextSlot (log : List EraseEnt) : Nat := match log.getLast? with | some e => ((e.slots.getLast?.getD 0) + 1) % 16384 | none => 0

/-- The slots that an erase with so long a map takes: 42 entries a slot. -/
def slotsFor (log : List EraseEnt) (map : List (Nat × Nat × Nat)) : List Nat :=
  (List.range (max 1 (cdiv map.length 42))).map fun i => (nextSlot log + i) % 16384

/-- The sectors that slots enter anew. -/
def sectorsEntered (slots : List Nat) : List Nat := (slots.filter fun x => x % 512 == 0).map (· / 512)

/-- Whether the log has room: a sector entered anew holds no slot that has not committed. -/
def logRoom (log : List EraseEnt) (map : List (Nat × Nat × Nat)) : Bool :=
  (sectorsEntered (slotsFor log map)).all fun c => log.all fun e => e.committed || e.slots.all fun x => x / 512 != c

/-- A sector of the log is erased for reuse. -/
def eraseLogSector (s : State) (c : Nat) : State :=
  let s1 := memMod s fun m => { m with boot := m.boot.filter fun x => x.1 / 65536 != 16 + c }
  bstMod s1 fun b => { b with eraseLog := b.eraseLog.filter fun e => e.slots.all fun x => x / 512 != c }

/-- An entry is appended before the first pulse of an erase. -/
def appendErase (s : State) (k cycles : Nat) (map : List (Nat × Nat × Nat)) : State :=
  let slots := slotsFor s.bst.eraseLog map
  let s1 := forEach (sectorsEntered slots) s eraseLogSector
  let s2 := forEach slots.zipIdx s1 fun s x => putBoot s (logSlotAt x.1) (logEntryBytes k cycles ((map.drop (42 * x.2)).take 42))
  bstMod s2 fun b => { b with eraseLog := b.eraseLog ++ [{ slots := slots, deck := k, cycles := cycles, map := map, committed := false }] }

/-- The header after an erase is written: the entry's slots commit. -/
def commitErase (s : State) (k : Nat) : State :=
  let open_ := s.bst.eraseLog.filter fun e => e.deck == k && !e.committed
  let s1 := forEach (open_.flatMap EraseEnt.slots) s fun s x => putBoot s (logSlotAt x + 96) (leBytes 4 3 ++ List.replicate 28 0xFF)
  bstMod s1 fun b => { b with eraseLog := b.eraseLog.map fun e => if e.deck = k then { e with committed := true } else e }

end Sys2Proof.Machine
end

