-- ==== Sys2Proof/Machine/Flags.lean ====
section
/-! DEFINITION. Status codes and completion flags (R355, R543). -/

namespace Sys2Proof.Machine

def stOk : Byte := 0x00
def stBusy : Byte := 0x01
def stCapacity : Byte := 0x02
def stPolicy : Byte := 0x03
def stBadFormat : Byte := 0x04
def stNotOwner : Byte := 0x05
def stFenced : Byte := 0x06
def stAborted : Byte := 0x07
def stIntegrity : Byte := 0x08
def stFull : Byte := 0x09
def stStale : Byte := 0x0A
def stSealed : Byte := 0x0B

/-- The order in which statuses win when several apply to one consignment, first the strongest (R543). -/
def statusRank (b : Byte) : Nat :=
  match b.toNat with | 7 => 4 | 6 => 3 | 10 => 2 | 8 => 1 | _ => 0

/-- The status a consignment completes with of two that apply (R543). -/
def worse (a b : Byte) : Byte := if statusRank a < statusRank b then b else a

/-- The status word of a Factor message: status, completion flags, approximation count (R355). -/
def statusWord (st : Byte) (flags acount : Nat) : Word := packWord [(st.toNat, 0, 8), (flags, 8, 5), (acount, 16, 16)]

/-- Completion flags APPROX, OVF, CLIP, REPLAYED, SHADOW (R355). -/
def completionFlags (q : QEntry) : Nat :=
  packNat [(b2n q.approx, 0, 1), (b2n q.ovf, 1, 1), (b2n q.clip, 2, 1), (b2n q.replayed, 3, 1), (b2n q.shadow, 4, 1)]

end Sys2Proof.Machine
end

