-- ==== Sys2Proof/Machine/Operands.lean ====
section
/-! DEFINITION. The operand forms of mailbox messages: word 0, payload widths, and the engagements and granules
a message names (R354, R359, R360). -/

namespace Sys2Proof.Machine

/-- The 16 words of the slot at index `i` of the inbound ring (R353, R354). -/
def inSlot (p : MbPage) (i : Nat) : List Word := (List.range 16).map fun w => sget 0 p.inRing (i % 64 * 16 + w)

/-- Word `n` of a message. -/
def wordAt (w : List Word) (n : Nat) : Nat := (w.getD n 0).toNat

def msgOpcode (w : List Word) : Nat := bitsOf (wordAt w 0) 0 8
def msgSeq (w : List Word) : Nat := bitsOf (wordAt w 0) 8 8
def msgCid (w : List Word) : Nat := bitsOf (wordAt w 0) 16 5
def msgLen (w : List Word) : Nat := bitsOf (wordAt w 0) 21 4

/-- The payload words of each opcode's request, as masks of their defined bits (R360); none where the opcode
is not defined (R359). -/
def opMasks (op : Nat) : Option (List Nat) :=
  let a := 0xFFFFFFFF
  match op with
  | 0x01 => some [0xFFFF]
  | 0x02 => some [a, a, 1]
  | 0x03 => some [0x3F]
  | 0x04 => some [0x33F3F, a, a]
  | 0x10 => some [0x3F, a, a]
  | 0x11 => some [0x3F]
  | 0x12 => some [0x3F]
  | 0x13 => some [0x3F]
  | 0x14 => some [0x13F]
  | 0x20 => some [0x3F, a, a, a, a, a, 0xFFFF]
  | 0x21 => some [0xFFFF]
  | 0x30 => some [0x7F, a, a]
  | 0x31 => some []
  | 0x32 => some [a, a, a]
  | 0x40 => some [0x1F]
  | 0x41 => some [0x1F]
  | 0x50 => some [a, a]
  | 0x51 => some [a, a, a]
  | 0x60 => some [3, a]
  | 0x70 => some [a, 1]
  | 0x7F => some [0x3F]
  | _ => none

/-- Whether an opcode is permitted from the privileged mailbox or a consignor's (R359). -/
def opPermitted (op : Nat) (privileged : Bool) : Bool :=
  match op with
  | 0x02 | 0x04 | 0x10 | 0x12 | 0x13 | 0x20 | 0x21 | 0x50 | 0x51 | 0x70 => !privileged
  | 0x40 | 0x41 => privileged
  | _ => true

/-- Whether an opcode is long-running (R359). -/
def opLong (op : Nat) : Bool :=
  match op with
  | 0x02 | 0x03 | 0x10 | 0x11 | 0x12 | 0x13 | 0x14 | 0x40 | 0x41 | 0x7F => true
  | _ => false

/-- The engagement of payload word 1. -/
def engField (w : List Word) : Nat := bitsOf (wordAt w 1) 0 6

/-- The engagements a message names (R358 check 3). -/
def msgEngs (w : List Word) : List Nat :=
  match msgOpcode w with
  | 0x03 | 0x10 | 0x11 | 0x12 | 0x13 | 0x20 | 0x7F => [engField w]
  | 0x04 => [engField w, bitsOf (wordAt w 1) 8 6]
  | 0x14 => if bitOf (wordAt w 1) 8 then [] else [engField w]
  | 0x30 => if bitOf (wordAt w 1) 6 then [] else [engField w]
  | _ => []

/-- The shared-window ranges a message names: address and length in bytes (R360). -/
def msgRanges (w : List Word) : List (Nat × Nat) :=
  match msgOpcode w with
  | 0x02 => [(wordAt w 1, wordAt w 2)]
  | 0x10 => [(wordAt w 2, wordAt w 3)]
  | 0x20 => [(wordAt w 3, wordAt w 4), (wordAt w 5, wordAt w 6)]
  | 0x30 => [(wordAt w 2, wordAt w 3)]
  | 0x32 => [(wordAt w 2, 32 * wordAt w 3)]
  | 0x50 => [(wordAt w 1, wordAt w 2)]
  | 0x51 => [(wordAt w 1, wordAt w 2)]
  | _ => []

/-- The granules a message names, each once. -/
def msgGrans (w : List Word) : List Nat := ((msgRanges w).flatMap fun r => granulesOf r.1 r.2).eraseDups

/-- Whether word 0 and the payload have the form R354 and R358 check 1 ask of a defined opcode. -/
def msgFormOk (w : List Word) (mb : Nat) : Bool :=
  match opMasks (msgOpcode w) with
  | none => false
  | some ms =>
    msgCid w == mb && msgLen w == ms.length && bitsOf (wordAt w 0) 25 7 == 0 &&
      (List.range 15).all fun i => wordAt w (i + 1) &&& (ms.getD i 0) == wordAt w (i + 1)

end Sys2Proof.Machine
end

