-- ==== Sys2Proof/Machine/MailboxOps.lean ====
section
/-! DEFINITION. The mailbox pairs: outbound messages, completions in submission order, the consignor reset,
and the frame in which the Factor takes a message (R351–R363, R372–R375). -/

namespace Sys2Proof.Machine

/-! ## Outbound messages -/

/-- Whether a page's outbound ring is full (R353). -/
def outFull (p : MbPage) : Bool := (p.outPi.toNat + 128 - p.ci.toNat) % 128 == 64

/-- Signal a page's vector under its IRQ_EN and COAL (R363). -/
def signalMb (s : State) (mb : Nat) : State :=
  let p := getMb s mb
  if !p.irqEn then s
  else if p.coalRunning then modMb s mb fun p => { p with coalPending := true }
  else fireVector (modMb s mb fun p => { p with coalRunning := decide (p.coal ≠ 0) }) mb

/-- Write a message into the outbound ring. -/
def writeOut (s : State) (mb : Nat) (m : List Word) : State :=
  let slot := (getMb s mb).outPi.toNat % 64
  signalMb (modMb s mb fun p => { p with outRing := ssetRun 0 p.outRing (slot * 16) ((m ++ List.replicate 16 0).take 16),
                                         outPi := p.outPi + 1 }) mb

/-- Whether consignments of an earlier queue epoch have still to complete: their completions precede every later message (R373). -/
def owesOld (p : MbPage) : Bool := p.queue.any fun e => e.2.qepoch != p.qepoch

/-- Send a Factor message: into the ring, or held while the ring is full (R353), completions of an earlier queue epoch go first, or the
Factor is in reset (R372). -/
def sendOut (s : State) (mb : Nat) (m : List Word) : State :=
  if outFull (getMb s mb) || !(getMb s mb).held.isEmpty || owesOld (getMb s mb) || !s.fac.up then modMb s mb fun p => { p with held := p.held ++ [m] }
  else writeOut s mb m

/-- Move held messages into the ring while it has room and no completion goes first. -/
def drainHeldN : Nat → State → Nat → State
  | 0, s, _ => s
  | n + 1, s, mb =>
    match (getMb s mb).held with
    | [] => s
    | m :: r => if outFull (getMb s mb) || owesOld (getMb s mb) || !s.fac.up then s else drainHeldN n (writeOut (modMb s mb fun p => { p with held := r }) mb m) mb

def drainHeld (s : State) (mb : Nat) : State := drainHeldN (getMb s mb).held.length s mb

/-- A Factor message: word 0, the status word and its payload (R354, R355). -/
def factorMsg (op : Byte) (seq : Byte) (mb : Nat) (compl : Bool) (status : Word) (payload : List Word) : List Word :=
  packWord [(op.toNat, 0, 8), (seq.toNat, 8, 8), (mb, 16, 5), (payload.length + 1, 21, 4), (1, 25, 1), (b2n compl, 26, 1)]
    :: status :: payload

/-- Reply to a request. -/
def reply (s : State) (mb : Nat) (op seq : Byte) (st : Byte) (payload : List Word) : State :=
  sendOut s mb (factorMsg op seq mb false (statusWord st 0 0) payload)

/-! ## Consignments and their completions (R357, R361, R395) -/

def getQ (s : State) (c q : Nat) : Option QEntry := sfind (getMb s c).queue q
def modQ (s : State) (c q : Nat) (f : QEntry → QEntry) : State :=
  match getQ s c q with
  | some e => modMb s c fun p => { p with queue := sput p.queue q (f e) }
  | none => s

/-- The granules a consignment names. -/
def consGrans (e : QEntry) : List Nat :=
  (granulesOf e.inAddr.toNat e.inBytes.toNat ++ granulesOf e.outAddr.toNat e.outBytes.toNat).eraseDups

/-- The completion of a consignment (R355, R360). -/
def completionMsg (c q : Nat) (e : QEntry) : List Word :=
  factorMsg 0x20 e.seq c true (statusWord e.status (completionFlags e) e.acount)
    [packWord [(q, 0, 8), (e.qepoch.toNat, 8, 8), (e.pos, 16, 9)], e.tag, packWord [(e.done, 0, 16)], BitVec.ofNat 32 e.outWritten]

/-- The consignment of consignor `c` that was submitted first among those in its queue. -/
def oldestQ (s : State) (c : Nat) : Option (Nat × QEntry) :=
  (getMb s c).queue.foldl (fun m e => match m with
    | none => some e
    | some b => if e.2.order < b.2.order then some e else some b) none

/-- Write the completions that submission order allows; granules return to HOST first (R357, R361). Nothing is
written while the Factor is not taking messages (R372) or the ring is full (R353); one of an earlier queue epoch passes held messages (R373). -/
def flushN : Nat → State → Nat → State
  | 0, s, _ => s
  | n + 1, s, c =>
    if !s.fac.up || outFull (getMb s c) then s
    else match oldestQ s c with
      | some (q, e) =>
        if e.st = .ended ∧ ((getMb s c).held = [] ∨ e.qepoch ≠ (getMb s c).qepoch) then
          let s1 := granRelease s (consGrans e)
          let s2 := modMb s1 c fun p => { p with queue := sdel p.queue q }
          flushN n (writeOut s2 c (completionMsg c q e)) c
        else s
      | none => s

def flushOnce (s : State) (c : Nat) : State := flushN (getMb s c).queue.length s c

/-- Write what a page's outbound ring takes: the completions of an earlier queue epoch, the held messages, then further completions. -/
def flushCompletions (s : State) (c : Nat) : State := flushOnce (drainHeld (flushOnce s c) c) c

/-- End a consignment with a status; a stronger status it already met stands (R543). -/
def endCons (s : State) (c q : Nat) (st : Byte) : State :=
  flushCompletions (modQ s c q fun e =>
    if e.st = .ended then e
    else { e with st := .ended, status := worse (if e.bounceBad then worse e.status stIntegrity else e.status) st }) c

/-- Every consignor's queue entries that satisfy `p`, as (consignor, QSLOT), in submission order. -/
def consWhere (s : State) (p : QEntry → Bool) : List (Nat × Nat) :=
  let all := (List.range 16).flatMap fun c => (getMb s c).queue.filterMap fun e => if p e.2 then some (e.2.order, c, e.1) else none
  (sortBy Prod.fst all).map Prod.snd

/-- End every consignment that satisfies `p` with a status, in submission order. -/
def endAll (s : State) (p : QEntry → Bool) (st : Byte) : State :=
  forEach (consWhere s p) s fun s e => endCons s e.1 e.2 st

/-! ## Taking a message (R356–R358) -/

/-- Whether the Factor takes the page's next message now. -/
def msgPosted (s : State) (mb : Nat) : Bool :=
  let p := getMb s mb
  s.fac.up && !s.cus.factorHalted && !p.crstBusy && p.wmark != p.pi

/-- The message at the watermark. -/
def msgAt (s : State) (mb : Nat) : List Word := inSlot (getMb s mb) (getMb s mb).wmark.toNat

/-- The watermark passes the message (R356). -/
def commitMsg (s : State) (mb : Nat) : State := modMb s mb fun p => { p with wmark := p.wmark + 1 }

/-- Whether an engagement is bound to a mailbox (R359, R394); a RESIDENT engagement, which keeps no binding, to a
consignor that carries the tenant's session (log 13). -/
def tenantRights (s : State) (mb : Nat) : Bool :=
  s.cus.tenancy == .held && decide (mb < 16) && s.cus.conns.any fun c =>
    decide (c.port = .tunnel (Fin.ofNat 16 mb)) && c.sessions.any fun x => x.2 == some s.cus.tenantId

def boundTo (s : State) (e mb : Nat) : Bool :=
  mb == 16 || bitOf (getEng s e).bound.toNat mb || ((getEng s e).st == .resident && tenantRights s mb)

/-- The granules check 3 judges: for PROGRAM_WAYBILL the first one, its length being judged by R168 (log 14). -/
def checkGrans (w : List Word) : List Nat :=
  if msgOpcode w = 0x10 then [wordAt w 2 / 65536] else msgGrans w

/-- Checks 1 to 3 of R358: the status of the first that fails. -/
def msgStatus (s : State) (mb : Nat) (w : List Word) : Byte :=
  if !msgFormOk w mb then stBadFormat
  else if !opPermitted (msgOpcode w) (mb == 16) then stPolicy
  else if (msgEngs w).any fun e => !boundTo s e mb then stNotOwner
  else if (checkGrans w).any fun k => !granNamed s mb k then stNotOwner
  else stOk

/-- The granules of its own that a message names. -/
def ownGrans (s : State) (mb : Nat) (w : List Word) : List Nat := (msgGrans w).filter (granNamed s mb)

/-- Refuse a message: its granules return to HOST before the reply (R365, R368). -/
def refuseMsg (s : State) (mb : Nat) (w : List Word) (st : Byte) : State :=
  let ks := if st = stBadFormat then [] else ownGrans s mb w
  reply (granRelease (granHold s ks) ks) mb (BitVec.ofNat 8 (msgOpcode w)) (BitVec.ofNat 8 (msgSeq w)) st []

/-- A message that was taken ends with a status and a payload. -/
def finishMsg (s : State) (mb : Nat) (w : List Word) (st : Byte) (payload : List Word) : State :=
  reply (granRelease s (ownGrans s mb w)) mb (BitVec.ofNat 8 (msgOpcode w)) (BitVec.ofNat 8 (msgSeq w)) st payload

/-- The status that ends a message before the checks of its opcode: checks 1 to 3, a bounce record that failed
(R418; SUBMIT carries it to its completion), and the limit of four long-running messages (R357). -/
def entryStatus (s : State) (mb : Nat) (w : List Word) : Byte :=
  let st := msgStatus s mb w
  if st ≠ stOk then st
  else if msgOpcode w ≠ 0x20 ∧ (msgGrans w).any fun k => (getGran s k).bad then stIntegrity
  else if opLong (msgOpcode w) ∧ 4 ≤ (getMb s mb).recs.length then stBusy
  else stOk

/-- Take the message at the watermark if it has the opcode, and act on it when the checks pass. -/
def takeMsg (s : State) (mb : Mb) (op : Nat) (act : State → List Word → State) : State :=
  let w := msgAt s mb
  if msgPosted s mb && msgOpcode w == op then
    let s1 := commitMsg s mb
    let st := entryStatus s mb w
    if st = stOk then act (granHold s1 (ownGrans s mb w)) w else refuseMsg s1 mb w st
  else s

/-- Record a long-running message in the mailbox SRAM (R356). -/
def pushRec (s : State) (mb : Nat) (w : List Word) (r : LongRec) : State :=
  modMb s mb fun p => { p with recs := p.recs ++ [{ r with opcode := BitVec.ofNat 8 (msgOpcode w), seq := BitVec.ofNat 8 (msgSeq w) }] }

/-- The records that match, with their mailboxes. -/
def recsWhere (s : State) (p : LongRec → Bool) : List (Nat × LongRec) :=
  (List.range 17).flatMap fun mb => (getMb s mb).recs.filterMap fun r => if p r then some (mb, r) else none

/-- A long-running message ends: granules return, the record goes, the reply is written unless discarded (R373). -/
def finishRec (s : State) (mb : Nat) (r : LongRec) (st : Byte) (payload : List Word) : State :=
  let s1 := granRelease (modMb s mb fun p => { p with recs := p.recs.erase r }) r.grans
  if r.discard then s1 else reply s1 mb r.opcode r.seq st payload

/-- End every matching long-running message. -/
def finishRecs (s : State) (p : LongRec → Bool) (st : Byte) (payload : List Word) : State :=
  forEach (recsWhere s p) s fun s e => finishRec s e.1 e.2 st payload

/-! ## Consignor reset (R373, R374) -/

/-- Granules that unread inbound messages name return to HOST. -/
def dropUnread (s : State) (mb : Nat) : State :=
  let p := getMb s mb
  let n := (p.pi.toNat + 128 - p.wmark.toNat) % 128
  forEach (List.range n) s fun s i =>
    let w := inSlot p (p.wmark.toNat + i)
    if msgFormOk w mb then granRelease (granHold s (ownGrans s mb w)) (ownGrans s mb w) else s

/-- Steps 2 to 6 of R373. -/
def performCrst (s : State) (mb : Nat) : State :=
  let s1 := dropUnread s mb
  let s2 := modMb s1 mb fun p =>
    { p with pi := 0, wmark := 0, outPi := 0, ci := 0, held := [], qepoch := p.qepoch + 1,
             recs := p.recs.map fun r => { r with discard := true },
             queue := p.queue.map fun e => (e.1, if e.2.st = .ended then e.2 else { e.2 with status := stAborted, cancelled := true }) }
  let s3 := forEach ((getMb s2 mb).queue.filter fun e => e.2.st == .queued) s2 fun s e => endCons s mb e.1 stAborted
  flushCompletions (modMb s3 mb fun p => { p with crstBusy := false }) mb

/-- Reset a consignor: at once, or when the Factor resumes (R375). -/
def startCrst (s : State) (mb : Nat) : State :=
  let s1 := modMb s mb fun p => { p with crstBusy := true }
  if s.fac.up then performCrst s1 mb
  else { s1 with fac := { s1.fac with crstPending := s1.fac.crstPending ||| BitVec.ofNat 17 (2 ^ mb) } }

/-- Every granule becomes NONE and the pages behind them return (R364, R374). -/
def clearGranules (s : State) : State := { s with gran := [], granPage := [] }

/-- FLR and hot reset: every consignor and the privileged mailbox, then every granule to NONE (R374). -/
def resetConsignors (s : State) : State := clearGranules (forEach (List.range 17) s startCrst)

/-- Set ERR of a page (R370). -/
def setMbErr (s : State) (mb : Nat) : State := modMb s mb fun p => { p with err := true }

end Sys2Proof.Machine
end

