-- ==== Sys2Proof/Machine/ResetOps.lean ====
section
/-! DEFINITION. What a reset, a stop of the programming engine, the beginning of a tenant switch and a wake do to
the state (R175, R454–R456, R489–R500, R511–R517). -/

namespace Sys2Proof.Machine

/-! ## Stopping programming (R175, R176) -/

/-- Whether programming or erase of the deck is under way or queued. -/
def deckBusy (d : Deck) : Bool := d.prog.isSome || d.erasing

/-- The loops of its row that a deck's last program loop has applied when it stops at beat `b`: a pulse counts once it has begun in a thermal
shutdown, which lets it end, and once it has ended otherwise (R175, R176). -/
def loopsApplied (thermal : Bool) (b : Nat) (r : LoopRun) : Nat := if b < r.start + (if thermal then 100 else 300) then r.loop - 1 else r.loop

/-- The cells after a program loop is cut at beat `b`: a pulse not begun gives nothing, one cut short less than a whole one (R175,
log 148). -/
def cutCells (thermal : Bool) (b : Nat) (r : LoopRun) (d : Deck) : Deck :=
  let begun := decide (r.start + 100 ≤ b)
  if begun && (thermal || decide (r.start + 300 ≤ b)) then d
  else { d with cells := r.before.foldl (fun m x => sset 0 m x.1 (if begun then min (sget 0 m x.1) (x.2 + Config.cutRise r.start x.1) else x.2)) d.cells }

/-- Whether a deck's last program loop is under way at beat `b`. -/
def loopRuns (b : Nat) (d : Deck) : Bool := match d.run with | some r => decide (b < r.start + 800) | none => false

/-- Whether a deck is in programming or erase now (R179): its programming has begun, or a loop of its repair runs. -/
def deckActs (s : State) (d : Deck) : Bool := d.progRunning || loopRuns s.alm.beat.toNat d

/-- A program loop under way is cut (R175, R176). -/
def cutLoop (thermal : Bool) (b : Nat) (d : Deck) : Deck :=
  match d.run with
  | some r => if loopRuns b d then cutCells thermal b r d else d
  | none => d

/-- The interrupt entry of a thermal shutdown: the row under programming and the loops it has had applied, where there are any (R175). -/
def thermalEntry (b : Nat) (d : Deck) : Deck :=
  match d.run with
  | some r =>
    let n := if loopRuns b d then loopsApplied true b r else match d.prog with | some p => if p.row = r.row then p.loop - 1 else 0 | none => 0
    if 0 < n then journalEntry d r.row n else d
  | none => d

/-- Programming or erase of a deck stops at beat `b`; what the Assayer was doing on it is abandoned (R114, R175, R176). -/
def stopDeck (thermal : Bool) (b : Nat) (d : Deck) : Deck :=
  let d1 := cutLoop thermal b (if thermal && !d.erasing then thermalEntry b d else d)
  { d1 with prog := none, progRunning := false, erasing := false, run := none, repair := none }

/-- Apply a change to every listed tile-deck. -/
def mapDecks (s : State) (f : Nat → Deck → Deck) : State :=
  { s with decks := s.decks.filterMap fun e => if f e.1 e.2 = {} then none else some (e.1, f e.1 e.2) }

def stopAllProgramming (s : State) (thermal : Bool) : State := mapDecks s fun _ d => stopDeck thermal s.alm.beat.toNat d

/-- Every open latch closes (R448). -/
def closeLatches (s : State) : State := mapDecks s fun _ d => { d with opened := false }

/-! ## What a cold reset leaves (R498–R501) -/

/-- Whether some deck record names an engagement as owner (R386, R388). -/
def recordNames (s : State) (e : Nat) : Bool :=
  s.decks.any fun x => match x.2.header with | some h => h.owned && h.eng.toNat == e | none => false

/-- A RESIDENT engagement holds its tile-decks only (R385). -/
def residentEng (g : Eng) : Eng :=
  { st := .resident, manifestHash := g.manifestHash, wbId := g.wbId, prot := g.prot, manifest := g.manifest, decks := g.decks }

/-- What Oluolawell's data keeps of engagement `e`: what the Ledger last held of it, where a deck record names it. -/
def keptEng (s : State) (e : Nat) : Option (Nat × Eng) :=
  if !recordNames s e then none
  else if (getEng s e).st = .free then s.bst.resident.find? fun x => x.1 == e
  else some (e, residentEng (getEng s e))

/-- The cells of a deck, its spare rows among them, survive every reset, and what they were last read as stands until option loading reads them
again; what the tile, the Assayer and Customs hold does not. -/
def deckKept (d : Deck) : Deck :=
  { cells := d.cells, header := d.header, outTab := d.outTab, spareLog := d.spareLog, slots := d.slots,
    twin := d.twin, jStart := d.jStart, jDone := d.jDone, jProgress := d.jProgress, jInterrupt := d.jInterrupt,
    marks := d.marks, cycles := d.cycles }

/-- The boot store's array, records and fuses survive; its registers and buffers clear. -/
def bstKept (b : Bst) : Bst :=
  { images := b.images, unmarked := b.unmarked, eraseLog := b.eraseLog, coreMap := b.coreMap,
    creds := b.creds, svnFuse := b.svnFuse, resident := b.resident }

/-- The switch record after a cold reset's assertion: a held tenancy's record becomes one (R505). -/
def switchRecord (s : State) (vsbLost : Bool) : Option (BitVec 128) :=
  if vsbLost then none else match s.cus.swRec with | some r => some r | none => s.cus.tenancyRec

/-- The assertion of a cold reset: everything returns to its reset value but the cells, the boot store, the fuses and
the VSB domain (R498, R500). -/
def assertCold (s : State) (vsbLost thermal : Bool) : State :=
  let s1 := stopAllProgramming (bstCutShort s) thermal
  { State.reset with
    pending := s1.pending
    free := s1.free
    mem := { boot := s1.mem.boot, host := s1.mem.host }
    rst := { s1.rst with rstnCold := false, routeEn := false, lock := false }
    cus := { swRec := switchRecord s1 vsbLost
             switches := if vsbLost then 0 else s1.cus.switches
             cert2 := s1.cus.cert2, cert3 := s1.cus.cert3 }
    pwr := { vcoreOk := s1.pwr.vcoreOk, vauxOk := s1.pwr.vauxOk, vsbOk := s1.pwr.vsbOk }
    bst := { bstKept s1.bst with resident := (List.range 64).filterMap (keptEng s1) }
    asy := { nextSeq := if vsbLost then 0 else s1.asy.nextSeq }
    decks := (mapDecks s1 fun _ d => deckKept d).decks }

/-! ## The GPIO pins (R503, R504, R562) -/

/-- The levels of GPIO5 down to GPIO0 by their fixed functions, in power state `st` (R562). -/
def gpioLevels (s : State) (st : BitVec 2) : BitVec 6 :=
  BitVec.ofBool (!s.hzl.ports.any fun p => p.st == .lost) ++ BitVec.ofBool s.fac.running ++ st ++
    BitVec.ofBool (!s.tol.overLimit) ++ BitVec.ofBool (!s.tol.tempHi)

/-- What GPIO0 to GPIO5 drive: nothing while they are high impedance, which they are in Deep Camp and from a cold reset until the Factor
configures them; the levels kept in Halt, in Camp and through a device reset. GPIO6 and GPIO7 are inputs that are never read
(log 146). -/
def gpioOut (s : State) : Option (BitVec 6) :=
  if !s.gpio.on || s.pwr.st == 3 then none
  else if s.pwr.st ≠ 0 ∨ s.rst.stretching ∨ s.rst.loading then some s.gpio.held
  else some (gpioLevels s s.pwr.st)

/-- The outputs keep the levels they drive. -/
def gpioHold (s : State) : State := match gpioOut s with | some v => { s with gpio := { s.gpio with held := v } } | none => s

/-- The Factor configures the pins (R562). -/
def gpioConfigure (s : State) : State := if s.fac.running then { s with gpio := { s.gpio with on := true } } else s

/-! ## What a warm reset does (R498, R500) -/

/-- Step 1 of a tenant switch: STATE becomes SWITCHING and the switch record is written (R455). A trigger while a
switch runs, or with no tenant, has no effect (R460, log 17). -/
def beginSwitch (s : State) : State :=
  if s.cus.tenancy = .held then
    { s with cus := { s.cus with tenancy := .switching, swRec := some (s.cus.tenantId.extractLsb' 0 128) } }
  else s

/-- The PCIe side of a PERST_N reset: every granule NONE, the MSI-X table at its reset state, and a tenant switch if
the TDI is in RUN (R374, R498). -/
def assertPerst (s : State) : State :=
  let s1 := clearGranules { s with pcie := {} }
  if s1.cus.tdi = .run then beginSwitch s1 else s1

/-- Whether a finding holds a slot of its deck record. -/
def holdsSlot (s : State) (f : Finding) : Bool := s.decks.any fun d => d.2.slots.any fun x => x.finding.seq == f.seq && !x.retired

/-- The assertion of a warm reset: the Factor, the boot-store controller and the management port stop, and findings held in the Factor's data
region only are lost (R138); everything else runs on. -/
def assertWarm (s : State) (perst : Bool) : State :=
  let b := bstCutShort (gpioHold s)
  let s1 :=
    { b with
      fac := { crstPending := s.fac.crstPending, resumePending := true }
      asy := { b.asy with outside := b.asy.outside.filter (holdsSlot s) }
      cus := { b.cus with mgmtSessions := [], factorHalted := false }
      bst := bstFlush { b.bst with cmdErr := false, opErr := false, sector := 0, opErase := false, suspCnt := 0, seg := 0,
                                   lastCbc := 0, warn := false, ue := false, ueCnt := 0, eccWord := 0 } }
  if perst then assertPerst s1 else s1

/-! ## Sources and joining (R489, R490, R493, R496) -/

/-- Whether a device reset is under way: stretching, or loading options. -/
def inReset (s : State) : Bool := s.rst.stretching || s.rst.loading

/-- A device-reset source is asserted: it begins a reset, or joins the one under way. RST_N is driven and RST_CNT
counts a reset once. -/
def beginReset (s : State) (src : Nat) (cold vsbLost thermal : Bool) : State :=
  let joined := inReset s
  let wasCold := joined && s.rst.stCold
  let s1 := if cold then assertCold s vsbLost thermal
    else if wasCold then (if src = 2 then { s with pcie := {} } else s)
    else assertWarm s (src = 2)
  let r := s1.rst
  { s1 with rst :=
    { r with
      stretching := true
      loading := false
      rstNDriven := true
      stCold := cold || wasCold
      stFirst := if joined then r.stFirst else BitVec.ofNat 4 src
      stSeen := (if joined then r.stSeen else 0) ||| BitVec.ofNat 8 (2 ^ (src - 1))
      stOlrestart := joined && (r.stOlrestart || s.rst.loading)
      stVsbLost := (joined && r.stVsbLost) || vsbLost
      perstSeen := (joined && r.perstSeen) || decide (src = 2)
      count := if vsbLost then 0 else if joined then r.count else r.count + 1 } }

/-! ## Power states (R511–R517) -/

/-- The entry sequence under way is aborted and its steps undone: the device is in Trek (R514). -/
def abortEntry (s : State) : State :=
  { s with pwr := { s.pwr with entering := false, st := 0, aborted := satAdd s.pwr.aborted 1, refUnit := 9,
                               refTarget := s.pwr.target, refEngValid := false, refEng := 0 }
           fac := { s.fac with up := s.fac.running, atWaits := false } }

/-- The state Oluolawell's TARGET names (R515): a hint of 2 holds Trek; an ADMIN's request, or a Camp hint of at least 50 ms. -/
def chooseTarget (s : State) : BitVec 2 :=
  if s.pwr.hint = 2 then 0
  else if s.pwr.adminTarget ≠ 0 then s.pwr.adminTarget
  else if s.pwr.hint = 1 ∧ 50 ≤ s.pwr.hintMs.toNat then 2
  else 0

/-- Oluolawell writes TARGET when what it follows changes (R515). -/
def retarget (s : State) : State := { s with pwr := { s.pwr with target := chooseTarget s } }

/-- A wake source: code, and port for Huazan activity (R514, R516). In Halt it only resumes the Factor. Leaving Deep
Camp is a cold start (R513), which PWR_STAT outlasts with the source (log 138). -/
def wake (s : State) (code port : Nat) : State :=
  if s.pwr.entering then abortEntry s
  else if s.pwr.st = 1 then { s with fac := { s.fac with atWaits := false } }
  else if s.pwr.st = 2 then
    if s.pwr.exiting then
      if code < s.pwr.wake.toNat then { s with pwr := { s.pwr with wake := BitVec.ofNat 3 code, wakePort := BitVec.ofNat 3 port } } else s
    else { s with pwr := { s.pwr with exiting := true, wake := BitVec.ofNat 3 code, wakePort := BitVec.ofNat 3 port } }
  else if s.pwr.st = 3 then
    let s1 := beginReset s 1 true false false
    { s1 with pwr := { s1.pwr with wake := BitVec.ofNat 3 code, wakePort := BitVec.ofNat 3 port } }
  else s

/-- The device leaves Halt for Trek (R511). -/
def leaveHalt (s : State) (code : Nat) : State :=
  if s.pwr.entering then abortEntry s
  else if s.pwr.st = 1 then
    { s with pwr := { s.pwr with st := 0, wake := BitVec.ofNat 3 code, wakePort := 0 }, fac := { s.fac with atWaits := false } }
  else s

end Sys2Proof.Machine
end

