-- ==== Sys2Proof/Machine/LedgerOps.lean ====
section
/-! DEFINITION. Engagements, their decks, circuits and queues as the meanings share them (R275–R279, R385–R408). -/

namespace Sys2Proof.Machine

/-! ## Decks of an engagement -/

/-- Whether a deck is programmed: its record is whole (R174). -/
def deckDone (d : Deck) : Bool := d.jDone

/-- Whether a deck is partial (R174). -/
def deckPartial (d : Deck) : Bool := d.jStart && !d.jDone

/-- Whether the number of seal marks makes a deck public (R451). -/
def deckPublic (d : Deck) : Bool := d.marks % 2 == 1

/-- Whether a deck is open (R448). -/
def deckOpen (d : Deck) : Bool := deckPublic d || d.opened

/-- Whether a deck is sealed: programmed and not open (R448). -/
def deckSealed (d : Deck) : Bool := deckDone d && !deckOpen d

/-- Physical keys of an engagement's tile-decks. -/
def engDeckKeys (s : State) (e : Nat) : List Nat := (getEng s e).decks.map (physDeck s)

/-- Whether every deck of the engagement is complete and calibrated. -/
def decksReady (s : State) (e : Nat) : Bool :=
  (engDeckKeys s e).all fun k => deckDone (getDeck s k) && !(getDeck s k).uncal

def anySealed (s : State) (e : Nat) : Bool := (engDeckKeys s e).any fun k => deckSealed (getDeck s k)

/-- Tile-decks a deck record gives an engagement, as logical numbers. -/
def recordDecks (s : State) (e : Nat) : List Nat :=
  s.decks.filterMap fun x => match x.2.header with
    | some h => if h.owned && h.eng.toNat == e then logicalOfPhys s x.1 else none
    | none => none

/-! ## Reservations -/

/-- The engagement's itineraries leave every Drover. -/
def dropItins (s : State) (e : Nat) : State :=
  { s with cores := s.cores.map fun c => { c with itins := c.itins.filter fun i => i.eng.val != e, oldImage := sdel c.oldImage e } }

/-- The engagement's Waystation pages return. -/
def dropWsPages (s : State) (e : Nat) : State :=
  { s with cores := s.cores.map fun c => { c with pageOwner := c.pageOwner.filter fun p => p.2 != e } }

/-- The engagement's packed regions return (R260). -/
def dropRegions (s : State) (e : Nat) : State := { s with regions := s.regions.filter fun r => r.2.eng.toNat != e }

def dropTargets (s : State) (e : Nat) : State := { s with targets := s.targets.filter fun t => t.2.eng.toNat != e }

/-- Every reservation but the tile-decks returns to the Ledger. -/
def dropReservations (s : State) (e : Nat) : State :=
  dropTargets (dropRegions (dropWsPages (dropItins s e) e) e) e

/-- An engagement leaves execution: RESIDENT where a deck record names it, FREE otherwise (R386). -/
def retireEng (s : State) (e : Nat) : State :=
  let s1 := dropReservations s e
  if (getEng s e).st = .free then s1
  else if recordNames s e then modEng s1 e residentEng
  else modEng s1 e fun _ => {}

/-! ## Circuits (R275–R277) -/

/-- Beats of the engagement's present period. -/
def engPeriod (g : Eng) : Nat := if g.st = .shadow ∧ g.pShadow ≠ 0 then g.pShadow else g.period

/-- The engagement's present anchor. -/
def engAnchor (g : Eng) : Nat := if g.st = .shadow ∧ g.pShadow ≠ 0 then g.anchorSh.toNat else g.anchor.toNat

/-- The start beat of circuit `k` (R275). -/
def circuitBeat (g : Eng) (k : Nat) : Nat := engAnchor g + k * engPeriod g

/-- Bits [39:24] of a beat (R276). -/
def epochStamp (b : Nat) : Nat := bitsOf b 24 16

/-- The 64 bits of a circuit word (R276). -/
def circuitWord (e : Nat) (c : Circ) : BitVec 64 :=
  BitVec.ofNat 64 (packNat [(b2n c.live, 0, 1), (c.consignor.val, 1, 4), (c.qslot.toNat, 5, 8), (c.token.toNat, 13, 16),
    (e, 29, 6), (c.epoch.toNat, 35, 16), (b2n c.replay, 51, 1)])

/-- Whether a circuit's two periods have passed. -/
def circuitOver (s : State) (c : Circ) : Bool := decide (c.endBeat ≤ s.alm.beat.toNat)

/-- Count the tokens of circuits that are over and forget those circuits. -/
def retireCircuits (s : State) (e : Nat) : State :=
  let g := getEng s e
  let above := g.circuits.filter (circuitOver s)
  let s1 := forEach (above.filter fun c => c.live && c.started) s fun s c =>
    modQ s c.consignor c.qslot.toNat fun q => { q with done := q.done + 1 }
  modEng s1 e fun g => { g with circuits := g.circuits.filter fun c => !circuitOver s c }

/-- Mark a consignment so that it ends at the next circuit boundary (R277, R362, R373, R430). -/
def condemn (s : State) (c q : Nat) (st : Byte) : State :=
  modQ s c q fun e => if e.st = .ended then e else { e with cancelled := true, status := worse e.status st }

/-- The tokens a consignment that stops has completed: a cancelled one completes the token in progress (R362). -/
def settleDone (e : QEntry) : QEntry := if e.status = stOk then { e with done := e.next } else e

/-- At a circuit boundary the engagement's condemned consignments end. -/
def endCondemned (s : State) (e : Nat) : State :=
  forEach (consWhere s fun q => q.eng.val == e && q.cancelled && decide (q.st ≠ .ended)) s fun s x =>
    endCons (modQ s x.1 x.2 settleDone) x.1 x.2 stOk

/-- Started consignments of an engagement are marked; queued ones end at once (R375). -/
def abortCons (s : State) (e : Nat) : State :=
  let s1 := endAll s (fun q => q.eng.val == e && q.st == .queued) stAborted
  forEach (consWhere s1 fun q => q.eng.val == e && q.st == .started) s1 fun s x => condemn s x.1 x.2 stAborted

/-! ## Swap beats (R278) -/

/-- The swap beat of a change named now. -/
def swapBeat (s : State) (wide : Bool) : Nat :=
  if wide then nextEpoch s else ((s.alm.beat.toNat + 65536 + 65535) / 65536) * 65536

/-- Set an engagement's swap beat and the cores' SWAPPEND. -/
def nameSwap (s : State) (e : Nat) (x : Nat) : State :=
  let s1 := modEng s e fun g => { g with swapAt := some (BitVec.ofNat 64 x) }
  { s1 with cores := s1.cores.map fun c => if c.itins.any fun i => i.eng.val == e then { c with swapPend := true } else c }

/-! ## Schedule faults (R51, R295) -/

/-- Record the first fault of a core. -/
def recordFault (s : State) (p : Nat) (cause : Nat) (e : Nat) (leg : BitVec 16) : State :=
  modCore s p fun c =>
    if c.fValid then c
    else { c with fValid := true, fCause := BitVec.ofNat 4 cause, fEng := BitVec.ofNat 6 e, fLeg := leg }

/-- A leg is not acted on and is reported as a schedule fault of its core (R51). -/
def legFault (s : State) (ctx : LegCtx) (cause : Nat) : State := recordFault s (physOf s ctx.core) cause ctx.eng ctx.leg

/-- A leg that addresses a foreign page performs nothing, is logged, and is a schedule fault (R297, R370). -/
def foreignPage (s : State) (ctx : LegCtx) (addr : Nat) (write : Bool) : State :=
  legFault (logViolation s { addr := BitVec.ofNat 32 addr, req := BitVec.ofNat 16 ctx.core, src := 4, write := write, cid := 0x1F }) ctx 2

/-- Whether the leg's core runs legs: its Drover runs, it is neither fenced nor out, and the beat runs (R262). -/
def coreRuns (s : State) (c : Nat) : Bool :=
  s.alm.pllLock && !isFenced s c && !isOut s c && (getCore s (physOf s c)).running

/-! ## Trackers and KV tables (R201, R256) -/

/-- The plan in force: the shadow plan from its swap beat on (R401). -/
def curPlan (g : Eng) : Option Plan := if g.st = .shadow ∧ g.pShadow ≠ 0 then g.shadowPlan else g.plan

/-- The replay buffers whose post has completed, the newest first (R407). -/
def countedBufs (g : Eng) : List ReplayBuf := (if g.buf1Newer then [g.buf1, g.buf0] else [g.buf0, g.buf1]).filter fun b => b.counted

/-- A tracker history with no step in it: 16 pairs of NaN, which contribute to no window (log 18). -/
def emptyHistory : List Byte := wordsBytes (List.replicate 32 0x7FC00000)

/-- The tracker histories of a plan, in the order of its tracker legs: logical core and Waystation address. -/
def planTrackers (p : Plan) : List (Nat × Nat) :=
  (p.itins.flatMap fun it => it.legs.filterMap fun l =>
    match l.body with
    | .vector vop d => if vop = 0x70 then some (it.core.val, d.param1.toNat) else none
    | _ => none).eraseDups

/-- The tracker histories of an engagement, under the plan in force. -/
def trackerAddrs (g : Eng) : List (Nat × Nat) := ((curPlan g).map planTrackers).getD []

/-- Write tracker histories. -/
def putHistories (s : State) (hs : List ((Nat × Nat) × List Byte)) : State :=
  forEach hs s fun s h => wsWrite s (physOf s h.1.1) h.1.2 (markAll false h.2)

def clearTrackers (s : State) (e : Nat) : State := putHistories s ((trackerAddrs (getEng s e)).map fun a => (a, emptyHistory))

/-- The tracker histories at the newest token boundary that counts, in the order of the tracker legs: none before a first one does (R201, R407). -/
def keptHistories (g : Eng) : List (List Byte) :=
  match countedBufs g with
  | b :: _ => b.hist
  | [] => []

/-- A plan that replaces another takes its histories with it: a rebinding does not touch them, and what a fenced core held is replayed from the newest
token boundary (R201, R407). Tracked tensors are told apart by the order of their legs (log 134). -/
def moveTrackers (s : State) (e : Nat) (old new : Plan) : State :=
  let kept := keptHistories (getEng s e)
  let held := (planTrackers old).zipIdx.map fun x => if isFenced s x.1.1 then kept.getD x.2 emptyHistory else wsBytes s (physOf s x.1.1) x.1.2 128
  putHistories s ((planTrackers new).zip held)

/-- TBL_VALID of a region's preamble is cleared (R241, R256). -/
def unmarkTable (s : State) (e : Nat) (r : Region) : State :=
  match engRead s e (r.base + 34) 1 with
  | [b] => if r.prot then s else engWrite s e (r.base + 34) [(b.1 &&& 0xFD, b.2)]
  | _ => s

/-- The tables of an engagement's packed regions become invalid (R256, R261). -/
def clearTables (s : State) (e : Nat) : State :=
  let s1 := forEach (s.regions.filter fun r => r.2.eng.toNat == e) s fun s r => unmarkTable s e r.2
  { s1 with regions := s1.regions.map fun r => (r.1, if r.2.eng.toNat == e then { r.2 with tblValid := false, ovfBlocks := [] } else r.2) }

/-! ## Fences (R404, R410) -/

/-- Whether a fence or takeover is computing its placement (R404): a FENCE_CORE waits for its fence, or a takeover is under way. An unfence
is placed in its one command. -/
def fenceBusy (s : State) : Bool := s.ldg.takeover || !(recsWhere s fun r => r.opcode == 0x40).isEmpty

/-- Whether a placement, fence or takeover is being computed. -/
def ledgerBusy (s : State) : Bool := s.ldg.placing || fenceBusy s

/-- PLACING is reported while an admission is under way. -/
def tidyPlacing (s : State) : State := { s with ldg := { s.ldg with placing := s.engs.any fun g => g.st == .placing } }

/-- TAKEOVER of LDG_STAT: a fenced core waits for its spare, or an engagement for its swap back (R402, R410). -/
def tidyTakeover (s : State) : State :=
  let cs := (List.range 32).filter fun c => (vget {} s.ldg.map c).fenced && !(vget {} s.ldg.map c).out
  { s with ldg := { s.ldg with takeover := !cs.isEmpty || s.engs.any fun g => g.takeover, takeoverCore := cs.head?.map (Fin.ofNat 32) } }

/-- Whether every core of an engagement's plan is in service. -/
def coresOk (s : State) (e : Nat) : Bool :=
  match (getEng s e).plan with
  | some p => p.itins.all fun i => !isFenced s i.core && !isOut s i.core
  | none => true

/-- Save the core map in the boot store (R402, R478). -/
def saveCoreMap (s : State) : State := bstMod s fun b => { b with coreMap := some (s.ldg.map.toList, s.ldg.spares) }

end Sys2Proof.Machine
end

