-- ==== Sys2Proof/Machine/Codes.lean ====
section
/-! DEFINITION. The arithmetic of a strike, from planes to corrected outputs, and the checksum checks made beside it (R28–R46,
R57–R79, R124–R126, R583). -/

namespace Sys2Proof.Machine


/-- Planes of an activation width code (R273), and the AW byte it asks for. -/
def awPlanes (aw : BitVec 2) : Nat := match aw.toNat with | 0 => 8 | 1 => 4 | _ => 1

/-- Set bits of TMASK. -/
def maskTiles (m : BitVec 16) : List Nat := setBits m.toNat 16

/-- The deck of a tile that is active at a beat (R47, R48): none during the four beats of a switch. -/
def activeAt (t : Tile) (b : Nat) : Option (Fin 4) :=
  match t.switchTo with
  | some d => if t.switchBeat.toNat + 4 ≤ b then some d else none
  | none => t.active

/-- Whether a beat is one of a switch's four (R48). -/
def switchingAt (t : Tile) (b : Nat) : Bool := t.switchTo.isSome && decide (t.switchBeat.toNat ≤ b) && decide (b < t.switchBeat.toNat + 4)

/-- Whether a beat is a slot beat of a strike on the tile, power-gated beats included (R49, R66). -/
def slotBeat (t : Tile) (b : Nat) : Bool := t.strikes.any fun x => decide (x.1 ≤ b) && decide (b < x.2)

/-! ## Formats and modes (R35–R40, R60, R62, R76) -/

/-- The largest magnitude of a weight, M (R76). -/
def fmtM (f : WFmt) : Nat := match f with | .unused => 1 | .w8 => 127 | .w4 => 7 | .wt => 1

/-- Outputs per column group, Q (R43). -/
def fmtQ (f : WFmt) : Nat := fmtOutputs f / 32

/-- Columns per weight, C (R43). -/
def fmtC (f : WFmt) : Nat := match f with | .unused => 1 | .w8 => 8 | .w4 => 4 | .wt => 2

/-- Outputs converted per ADC and plane, m, which is also the floor F on the slot (R62). -/
def fmtFloor (f : WFmt) : Nat := match f with | .unused => 1 | .w8 => 1 | .w4 => 2 | .wt => 4

/-- On-rows per sub-strike, L, of a precision mode (R60). -/
def modeL (m : BitVec 2) : Nat := match m.toNat with | 0 => 512 | 1 => 256 | _ => 128

/-- Worst-case slot W (R60). -/
def modeW (m : BitVec 2) : Nat := 2048 / modeL m

/-- Charge weights of a weight's columns, P and N alternating (R40, R74). -/
def chargeWeights (f : WFmt) : List Int :=
  match f with
  | .unused => []
  | .w8 => [64, -64, 32, -32, 24, -24, 7, -7]
  | .w4 => [4, -4, 3, -3]
  | .wt => [1, -1]


/-! ## Columns and spares (R32–R34, R43, R56) -/

/-- The physical column that serves offset `j` of group `g`. -/
def physCol (d : Deck) (g j : Nat) : Nat :=
  let w := sget 0 d.reg.spareMap g
  if flagOf w 7 ∧ fieldOf w 0 6 = j then 36 * g + 34
  else if flagOf w 15 ∧ fieldOf w 8 6 = j then 36 * g + 35
  else 36 * g + j


/-- Offset within its group of slice column `c` of local output `p` (R43). -/
def sliceOff (f : WFmt) (p c : Nat) : Nat := fmtC f * (p % fmtQ f) + c

/-- The charge one driven row gives output `p`, in 1/672,000 weight-unit (R40, R41). -/
def rowCharge (d : Deck) (f : WFmt) (p row : Nat) : Int :=
  let g := p / fmtQ f
  ((chargeWeights f).zipIdx.map fun w => w.1 * (cellAt d row (physCol d g (sliceOff f p w.2)) : Int)).sum

/-- The charge of one column over driven rows, in 1/672,000 cell unit. -/
def colCharge (d : Deck) (g j : Nat) (rows : List Nat) : Nat := (rows.map fun r => cellAt d r (physCol d g j)).sum

/-! ## Blocks and outputs (R44, R45, R583) -/

def deckBlocks (d : Deck) : List BlockDesc := match d.header with | some h => h.blocks | none => []

/-- Whether a compute row lies inside the deck's blocks. -/
def rowInBlocks (d : Deck) (r : Nat) : Bool :=
  (deckBlocks d).any fun b => decide (b.firstRow ≤ r) && decide (r < b.firstRow + b.rowCount)

/-- The local outputs a block delivers: the first NOUT of those whose group its mask holds. -/
def blockOutputs (f : WFmt) (b : BlockDesc) : List Nat :=
  ((List.range (fmtOutputs f)).filter fun p => bitOf b.mask.toNat (p / fmtQ f)).take b.nout

/-- The local outputs a strike on the deck delivers, ascending. -/
def deckOutputs (d : Deck) : List Nat := sortBy id ((deckBlocks d).flatMap (blockOutputs d.reg.fmt))

/-! ## Row packing and the overflow ladder (R64–R69) -/

/-- The on-rows of plane `p` of a bundle, ascending. -/
def onRows (d : Deck) (b : Bundle) (p : Nat) : List Nat :=
  b.codes.filterMap fun e => if e.1 < 2048 ∧ bitOf e.2 p ∧ rowInBlocks d e.1 then some e.1 else none

/-- A plane's drive pattern. -/
structure Drive where
  rows : List Nat
  m : Nat
  half : Bool
  dense : Bool
  deriving DecidableEq, Repr

/-- The first rung the plane's on-row count satisfies (R65, R67). -/
def drivePlane (lim slot : Nat) (rows : List Nat) : Drive :=
  let cnt := rows.length
  if cnt ≤ slot * lim then ⟨rows, cdiv cnt lim, false, false⟩
  else if cnt ≤ slot * 2 * lim then ⟨rows, cdiv cnt (2 * lim), true, false⟩
  else ⟨rows.take (slot * 2 * lim), slot, true, true⟩

/-- The rows of sub-strike `j`: ranks i with i mod m = j. -/
def subRows (v : Drive) (j : Nat) : List Nat := (v.rows.zipIdx.filter fun x => x.2 % v.m == j).map Prod.fst

/-! ## The converter and the accumulator (R76, R78) -/

/-- The code of a charge of `x`/672,000 weight-units with a sampled error of `e`/65,536, at step U or 2U: rounded to the
nearest integer, ties up, then limited (R76, log 3). -/
def adcCode (lim mag : Nat) (half : Bool) (x e : Int) : Int :=
  let num : Int := (x * 65536 + e * gUnit) * 256
  let den : Int := (gUnit * 65536 * lim * mag * (if half then 2 else 1) : Nat)
  clampI (-256) 255 ((2 * num + den) / (2 * den))

def isLimit (c : Int) : Bool := c == -256 || c == 255

/-- The code the shift-add takes: replaced on the Dense rung (R69). -/
def planeCode (v : Drive) (c : Int) : Int := if v.dense then (if 0 < c then 255 else if c < 0 then -256 else 0) else c

/-- The accumulator over the planes, most significant first (R78). -/
def shiftAdd (l : List (Drive × Int)) : Int :=
  l.foldl (fun acc x => 2 * acc + planeCode x.1 x.2 * (if x.1.half then 2 else 1)) 0

/-! ## Correction (R79) -/

/-- The largest finite FP32. -/
def fpMax (neg : Bool) : Word := BitVec.ofNat 32 (fmtFp32.maxBits + fmtFp32.signBit neg)

/-- SCALE as the correction stage reads it. -/
def readScale (w : Word) : Word := match fp w with | .nan => 0 | .inf n => fpMax n | .fin .. => w

def scaleBad (w : Word) : Bool := match fp w with | .fin .. => false | _ => true

/-- BETA and GAMMA as FP32 (R117). -/
def betaFp (b : BitVec 12) : Word := (toFp (FVal.dyadic (decide (b.toInt < 0)) b.toInt.natAbs (-6))).1
def gammaFp (g : BitVec 16) : Word := (toFp (FVal.dyadic false (65536 + g.toInt).toNat (-16))).1

/-- An output's value in FP32, each operation rounded; the flag says that one of them saturated. -/
def correct (d : Deck) (n : Nat) (b : Bundle) (p : Nat) (acc : Int) : Word × Bool :=
  let f := d.reg.fmt
  let off := fmul (betaFp (sget 0 d.beta p)) (fint (2 ^ n - 1 : Nat))
  let v1 := fsub (fint acc) off.1
  let v2 := fmul v1.1 (gammaFp (sget 0 d.gamma p))
  let v3 := fmul v2.1 (fq (modeL d.reg.pmode * fmtM f) 256)
  let zc := fmul (fint b.zp.toNat) (fint (sget 0 d.colsum p))
  let v4 := fsub v3.1 zc.1
  let sc := fmul (toFp (fdec fmtE4m3 (sget 0 d.scales p).toNat)).1 d.sDeck
  let v5 := fmul v4.1 sc.1
  let v6 := fmul v5.1 (readScale b.scale)
  (v6.1, off.2 || v1.2 || v2.2 || v3.2 || zc.2 || v4.2 || sc.2 || v5.2 || v6.2)

/-! ## One tile's strike -/

/-- Whether a finding names an output (R128, R132): the output of its column, or every output of its group, or of the
deck. -/
def namesOutput (f : WFmt) (x : Finding) (p : Nat) : Bool :=
  x.group == 0xFF || x.output.toNat == p ||
    ((x.cls == 4 || x.cls == 8 || x.cls == 9) && x.group.toNat == p / fmtQ f)

/-- Whether an output has an open or waiting finding (R136), in the deck's slots or, where no slot was free, outside them. -/
def outputSick (d : Deck) (more : List Finding) (p : Nat) : Bool :=
  (d.slots.any fun x => !x.retired && !x.adjusted && namesOutput d.reg.fmt x.finding p) || more.any fun x => namesOutput d.reg.fmt x p

/-- The drive patterns of the strike, most significant plane first; a sealed deck drives no row (R54). -/
def strikeDrives (d : Deck) (b : Bundle) (n slot : Nat) : List Drive :=
  ((List.range n).reverse.map fun p => drivePlane (modeL d.reg.pmode) slot (onRows d b p))

/-- The Held error of output `p` in a plane: each driven row gives its own, which stands until the deck is calibrated again and so
repeats in every plane that drives the row at the same gain (R94, R95, log 3). -/
def heldError (d : Deck) (half : Bool) (p : Nat) (rows : List Nat) : Int := (rows.map (Config.heldError d.heldGen half p)).sum

/-- The codes of output `p`, one per plane; `k` numbers the free errors of class Strike, independent from plane to plane (R94,
log 3). -/
def strikeCodes (d : Deck) (ds : List Drive) (sealed_ : Bool) (k p : Nat) : List (Drive × Int) :=
  ds.zipIdx.map fun v =>
    let x : Int := if sealed_ then 0 else (v.1.rows.map (rowCharge d d.reg.fmt p)).sum
    let e : Int := if sealed_ then 0 else heldError d v.1.half p v.1.rows
    (v.1, adcCode (modeL d.reg.pmode) (fmtM d.reg.fmt) v.1.half x (e + Config.chargeError (k + v.2 * 512 + p)))

/-- One delivered output: its value, whether a correction step saturated, and its limit-code conversions. -/
def strikeOutput (d : Deck) (b : Bundle) (n : Nat) (ds : List Drive) (sealed_ : Bool) (more : List Finding) (k p : Nat) : PVal × Bool × Nat :=
  let cs := strikeCodes d ds sealed_ k p
  let v := correct d n b p (shiftAdd cs)
  let lims := (cs.filter fun c => !c.1.dense && isLimit c.2).length
  ({ val := v.1, ovf := ds.any Drive.half, clip := (ds.any Drive.dense) || cs.any (fun c => isLimit c.2) || scaleBad b.scale,
     poison := b.poison, tag := b.tag, sick := outputSick d more p }, v.2, lims)

/-! ## Checksum checks (R124–R126) -/

/-- The residual of a group over driven rows, in 1/672,000 CU. -/
def residual (d : Deck) (g : Nat) (rows : List Nat) : Int :=
  32 * (colCharge d g 33 rows : Int) - ((List.range 32).map fun j => (colCharge d g j rows : Int)).sum

/-- Whether a group of a tile-deck has a checksum finding that has not closed (R125). -/
def wideHeld (s : State) (dk g : Nat) : Bool :=
  (s.asy.ring ++ s.asy.outside).any fun x =>
    decide (deckNum (physOf s x.core) x.string x.tile x.deck = dk) && x.cls == 3 && x.group.toNat == g && decide (x.st.toNat ≤ 1)

/-- A deck with the results of a sweep that has ended in force: 0.060 CU stays while a checksum finding of the group is open (R125, R127). -/
def sweptDeck (s : State) (dk : Nat) : Deck :=
  let d := getDeck s dk
  match d.sweepPend with
  | some r =>
    if r.ready ≤ s.alm.beat.toNat then
      { d with
        csSamples := r.samples, flagged := r.flagged, suspect := false, lastSweep := BitVec.ofNat 64 r.ready, sweepPend := none
        wide := (r.sigma.filter fun e => decide (61 < e.2)).map Prod.fst
        csSigma := r.sigma.foldl (fun m e => sset 61 m e.1 (if wideHeld s dk e.1 then 61 else min e.2 61)) d.csSigma }
    else d
  | none => d

/-- CS_SIGMA of a group, in 1/1,024 CU; 0.060 CU until 256 samples exist (R124). -/
def sigmaOf (d : Deck) (g : Nat) : Nat := sget 61 d.csSigma g

/-- Whether a check exceeds: |rho| > 8 CS_SIGMA √n_on. -/
def exceeds (d : Deck) (g n : Nat) (rho : Int) : Bool :=
  decide (64 * (sigmaOf d g) ^ 2 * n * gUnit ^ 2 < rho.natAbs ^ 2 * 1024 ^ 2)

/-- Shift a check into a group's history; 3 exceedances in 16 make the deck suspect. -/
def noteCheck (d : Deck) (g : Nat) (exc : Bool) : Deck :=
  let h : BitVec 16 := BitVec.ofNat 16 ((sget 0 d.checks g).toNat * 2 + b2n exc)
  { d with checks := sset 0 d.checks g h, suspect := d.suspect || decide (3 ≤ (setBits h.toNat 16).length) }

/-- Check every unmasked group in every sub-strike of a plane. -/
def checkPlane (k : Nat) (d0 : Deck) (d : Deck) (v : Drive × Nat) : Deck :=
  (List.range v.1.m).foldl (fun d j =>
    let rows := subRows v.1 j
    (List.range 32).foldl (fun d g =>
      if bitOf d.masked.toNat g then d
      else noteCheck d g (exceeds d0 g rows.length (residual d0 g rows + Config.residualError (k + ((v.2 * 16 + j) * 32 + g))))) d) d

end Sys2Proof.Machine
end

