-- ==== Sys2Proof/Machine/Approx.lean ====
section
/-! DEFINITION. Operations whose results the spec gives to a bound (R216): close rational values, and the rule that any
value inside the bound may result (log 4). Fixed-point numbers are counted in units of 2^−64. -/

namespace Sys2Proof.Machine

/-- 1.0, ln 2 and √(2/π), 2/√π, √½ in units of 2^−64. -/
def fxOne : Int := 2 ^ 64
def fxLn2 : Int := 0xB17217F7D1CF79AC
def fxSqrt2OverPi : Int := 14718372293494604904
def fxTwoOverSqrtPi : Int := 20814921713516466458
def fxSqrtHalf : Int := 13043817825332782212

def fxMul (a b : Int) : Int := a * b / fxOne
def fxDiv (a b : Int) : Int := a * fxOne / b

/-- A finite value in fixed point, limited to ±2^20. -/
def fxOf (v : FVal) : Int :=
  match v with
  | .fin s n d => clampI (-(2 ^ 84)) (2 ^ 84) (snum s n * fxOne / (d : Int))
  | _ => 0

/-- A fixed-point number times 2^k as a value. -/
def fxVal (x : Int) (k : Int) : FVal := FVal.dyadic (decide (x < 0)) x.natAbs (k - 64)

/-- e^f for |f| ≤ 1, by Horner's rule over 28 terms. -/
def fxExpSmall (f : Int) : Int := (List.range 28).foldr (fun (k : Nat) (acc : Int) => fxOne + fxMul acc f / ((k : Int) + 1)) fxOne

/-- e^x as a mantissa in [1, 2) and a power of two. -/
def fxExp (x : Int) : Int × Int := (fxExpSmall (x % fxLn2), x / fxLn2)

/-- e^x in fixed point, for x at most 40. -/
def fxExpLow (x : Int) : Int :=
  let r := fxExp x
  if 0 ≤ r.2 then r.1 * 2 ^ r.2.toNat else r.1 / 2 ^ (-r.2).toNat

/-- The fraction bits of log2 m for m in [1, 2), by repeated squaring. -/
def fxLogBits : Nat → Int → Int → Int
  | 0, _, acc => acc * 2 ^ 4
  | n + 1, m, acc =>
    let q := fxMul m m
    if 2 * fxOne ≤ q then fxLogBits n (q / 2) (2 * acc + 1) else fxLogBits n q (2 * acc)

/-- log2 (n/d) for n, d > 0. -/
def fxLog2 (n d : Nat) : Int :=
  let e := flog2 n d
  let p := pow2 e
  e * fxOne + fxLogBits 60 ((n * p.2 : Nat) * fxOne / (d * p.1 : Nat)) 0

/-- The integer square root. -/
def isqrt (n : Nat) : Nat :=
  (List.range (Nat.log2 n / 2 + 1)).reverse.foldl (fun r i => if (r + 2 ^ i) ^ 2 ≤ n then r + 2 ^ i else r) 0

/-- √(n/d) with 80 more bits than its last place needs, its last bit sticky, so that one rounding of it is the
rounding of the exact root. -/
def sqrtVal (n d : Nat) : FVal :=
  let k := 128 + Nat.log2 d
  let m := n * d * 4 ^ k
  let r := isqrt m
  .fin false (2 * r + (if r * r = m then 0 else 1)) (2 * d * 2 ^ k)

/-- tanh and sigmoid in fixed point. -/
def fxTanh (x : Int) : Int :=
  let c := clampI (-20 * fxOne) (20 * fxOne) x
  let e := fxExpLow (2 * c)
  fxDiv (e - fxOne) (e + fxOne)

def fxSigmoid (x : Int) : Int :=
  let c := clampI (-40 * fxOne) (40 * fxOne) x
  let e := fxExpLow c
  fxDiv e (e + fxOne)

/-- The terms of erf's series: sum of (−1)^k z^(2k+1) / (k! (2k+1)). -/
def fxErfTerms : Nat → Nat → Int → Int → Int
  | 0, _, _, _ => 0
  | n + 1, k, z2, t => t / (2 * (k : Int) + 1) + fxErfTerms n (k + 1) z2 (-(fxMul t z2) / ((k : Int) + 1))

def fxErf (z : Int) : Int :=
  if 5 * fxOne ≤ z then fxOne else if z ≤ -5 * fxOne then -fxOne
  else fxMul fxTwoOverSqrtPi (fxErfTerms 120 0 (fxMul z z) z)

/-! ## The bound rule (log 4) -/

/-- |a − b| ≤ lim for finite values. -/
def within (a b : FVal) (lim : FVal) : Bool :=
  match (a.add b.neg).abs with
  | .fin s n d => !(lim.lt (.fin s n d))
  | _ => false

/-- `k` units in the last place of FP32 at a value, and not less than one at the smallest normal number. -/
def ulps (k : Nat) (v : FVal) : FVal :=
  match v with
  | .fin _ n d => if n = 0 then FVal.dyadic false k (-149) else FVal.dyadic false k (max (flog2 n d) (-126) - 23)
  | _ => .fin false 0 1

/-- The FP32 result of an approximated operation: the free value where it lies within the bound of the exact result
(relative in ulp, or absolute 2^abs where that is larger), else the exact result rounded; the flag says that the result saturates. A result
below the normal range is zero of its sign. The close value may itself be off by 2^−20 of an ulp, which the bound takes in. -/
def boundedResult (op : Nat) (xs : List Word) (exact : FVal) (u : Nat) (abs : Option Int) : Word × Bool :=
  let r := toFp exact
  let cand := Config.approx op xs
  let lim := match abs with | some e => FVal.max (ulps u exact) (FVal.dyadic false 1 e) | none => ulps u exact
  let slack := (ulps 1 exact).mul (FVal.dyadic false 1 (-20))
  if (fp cand).isFin && within (fp cand) exact (lim.add slack) then ((toFp (fp cand)).1, r.2) else r

/-- The result of an operation the spec states none for: a free value that is no NaN (R184), log 4. -/
def openResult (op : Nat) (x : Word) : Word :=
  let w := Config.vecOpen op x
  if (fp w).isNan then 0 else w

end Sys2Proof.Machine
end

