-- ==== Sys2Proof/Machine/Packing.lean ====
section
/-! DEFINITION. Exponent packing (R236–R256): classes, tables, block bodies, check values, region images, and the
expander. -/

namespace Sys2Proof.Machine

/-! ## Sizes (R239–R241) -/

/-- Whether a format is packed (R236). -/
def packable (fmt : BitVec 4) : Bool := decide (1 ≤ fmt.toNat) && decide (fmt.toNat ≤ 4)

/-- Bytes of a raw block of 256 elements. -/
def rawBytes (fmt : BitVec 4) : Nat := 256 * (fmtBits fmt / 8)

/-- Bytes of a slot (R240). -/
def slotBytes (fmt : BitVec 4) (slot : BitVec 2) : Nat := rawBytes fmt * (3 + slot.toNat) / 8

/-- Offset of the overflow area of a region the device writes (R241). -/
def ovfOff (r : Region) : Nat := 64 + r.nblk * (8 + slotBytes r.fmt r.slot)

/-- Bytes of a region image (R241). -/
def regionBytes (r : Region) : Nat := 64 + r.nblk * (8 + rawBytes r.fmt)

/-- Offset, from the region base, of the header and of the body of block `j`. -/
def hdrOff (j : Nat) : Nat := 64 + 8 * j
def bodyOff (r : Region) (j : Nat) : Nat := 64 + 8 * r.nblk + j * slotBytes r.fmt r.slot

/-- Bytes of overflow entry, and the offset of entry `j` from the start of the overflow area. -/
def ovfEntry (r : Region) : Nat := rawBytes r.fmt - slotBytes r.fmt r.slot

/-! ## Classes and tables (R242–R244) -/

/-- Exponent and fraction widths of a packed format. -/
def expBits (fmt : BitVec 4) : Nat := match ffmtOf fmt with | some f => f.eb | none => 0
def fracBits (fmt : BitVec 4) : Nat := match ffmtOf fmt with | some f => f.fb | none => 0

def expField (fmt : BitVec 4) (x : Nat) : Nat := bitsOf x (fracBits fmt) (expBits fmt)
def fracField (fmt : BitVec 4) (x : Nat) : Nat := bitsOf x 0 (fracBits fmt)
def signField (fmt : BitVec 4) (x : Nat) : Bool := bitOf x (expBits fmt + fracBits fmt)

/-- The class of an element as its key: 256 for Z, else the exponent field (R242, R243). -/
def classKey (fmt : BitVec 4) (x : Nat) : Nat :=
  if expField fmt x = 0 ∧ fracField fmt x = 0 then 256 else expField fmt x

/-- A table entry for a class. -/
def tableEntry (key : Nat) : Nat := 0x8000 + key

/-- The table of a first pass: the 16 most frequent classes, ties by ascending key (R243). -/
def buildTable (keys : List Nat) : List Nat :=
  let cs := (keys.eraseDups).map fun k => (k, keys.count k)
  let ranked := sortBy (fun (c : Nat × Nat) => keys.length - c.2) (sortBy Prod.fst cs)
  (((ranked.take 16).map fun (c : Nat × Nat) => tableEntry c.1) ++ List.replicate 16 0).take 16

/-- The elements of raw bytes. -/
def rawElems (fmt : BitVec 4) (bs : List Byte) : List Nat :=
  if fmtBits fmt = 16 then (List.range (bs.length / 2)).map fun i => leNat ((bs.drop (2 * i)).take 2) else bs.map BitVec.toNat

/-! ## Codes and bodies (R245–R247) -/

/-- `n` bits of `x`, most significant first. -/
def msbBits (n x : Nat) : List Bool := (List.range n).reverse.map (bitOf x)

/-- The code bits of rank `r`. -/
def rankCode (r : Nat) : List Bool :=
  if r = 0 then [false]
  else if r = 1 then [true, false]
  else if r < 4 then [true, true, false] ++ msbBits 1 (r - 2)
  else if r < 8 then [true, true, true, false] ++ msbBits 2 (r - 4)
  else [true, true, true, true, false] ++ msbBits 3 (r - 8)

/-- The rank of a class in a table, if a valid entry holds it. -/
def rankOf (tab : List Nat) (key : Nat) : Option Nat := (List.range 16).find? fun r => tab.getD r 0 == tableEntry key

/-- The code and the field bits of one element. -/
def elemCode (fmt : BitVec 4) (tab : List Nat) (x : Nat) : List Bool × List Bool :=
  let full := signField fmt x :: msbBits (fracBits fmt) (fracField fmt x)
  match rankOf tab (classKey fmt x) with
  | some r => (rankCode r, if classKey fmt x = 256 then [signField fmt x] else full)
  | none => (List.replicate 5 true ++ msbBits (expBits fmt) (expField fmt x), full)

/-- Bits as bytes, from bit 0 upward. -/
def bitBytes : Nat → List Bool → List Byte
  | 0, _ => []
  | n + 1, bs =>
    if bs.isEmpty then []
    else BitVec.ofNat 8 (packNat ((bs.take 8).zipIdx.map fun b => (b2n b.1, b.2, 1))) :: bitBytes n (bs.drop 8)

/-- The packed body of a block's elements, without the zeros that fill its slot. -/
def packBody (fmt : BitVec 4) (tab : List Nat) (xs : List Nat) : List Byte :=
  let cs := xs.map (elemCode fmt tab)
  let code := cs.flatMap Prod.fst
  let field := cs.flatMap Prod.snd
  bitBytes (code.length + 1) code ++ bitBytes (field.length + 1) field

/-! ## The check value (R248) -/

def crc16Bit (c : Nat) : Nat := if c < 0x8000 then 2 * c else ((2 * c) % 0x10000) ^^^ 0x1021
def crc16Byte (c : Nat) (b : Byte) : Nat :=
  crc16Bit (crc16Bit (crc16Bit (crc16Bit (crc16Bit (crc16Bit (crc16Bit (crc16Bit (c ^^^ (b.toNat * 256)))))))))

/-- CRC-16 of a block's raw bytes followed by its index. -/
def blockCrc (raw : List Byte) (index : Nat) : Nat := (raw ++ leBytes 4 index).foldl crc16Byte 0xFFFF

/-! ## Packing a block (R247) -/

/-- A block in its written form. -/
structure PackedBlock where
  crc : Nat
  ovf : Bool
  body : List MByte
  entry : List MByte
  deriving DecidableEq, Repr

/-- Pack raw bytes: packed form where it fits and nothing is poisoned, overflow form otherwise. -/
def packBlock (r : Region) (tab : List Nat) (raw : List MByte) (index : Nat) : PackedBlock :=
  let n := slotBytes r.fmt r.slot
  let body := packBody r.fmt tab (rawElems r.fmt (plainOf raw))
  let crc := blockCrc (plainOf raw) index
  if body.length ≤ n ∧ anyMark raw = false then
    { crc := crc, ovf := false, body := markAll false (body ++ List.replicate (n - body.length) 0), entry := [] }
  else { crc := crc, ovf := true, body := raw.take n, entry := raw.drop n }

/-- The slot header of a block (R241). -/
def slotHeader (r : Region) (j : Nat) (b : PackedBlock) : List Byte :=
  leBytes 2 b.crc ++ [BitVec.ofNat 8 (b2n b.ovf), 0] ++ leBytes 4 (if b.ovf then j * ovfEntry r / 32 else 0)

/-- Pad raw data to whole blocks with +0 elements and cut it (R239). -/
def cutBlocks : Nat → Nat → List MByte → List (List MByte)
  | 0, _, _ => []
  | n + 1, size, bs =>
    if bs.isEmpty then []
    else (bs.take size ++ List.replicate (size - bs.length) (0, false)) :: cutBlocks n size (bs.drop size)

/-! ## Region images in stacked memory (R241, R244, R254) -/

/-- The entry of a region an engagement owns. -/
def ownRegion (s : State) (e n : Nat) : Option Region :=
  match sfind s.regions n with
  | some r => if r.eng.toNat = e then some r else none
  | none => none

/-- The table of a region, as its preamble holds it. -/
def regionTable (s : State) (e : Nat) (r : Region) : List MByte := engRead s e r.base 32

def tableOf (bs : List Byte) : List Nat := (List.range 16).map fun i => leNat ((bs.drop (2 * i)).take 2)

/-- The preamble of a region with a table (R241). -/
def preamble (r : Region) (tab : List Nat) : List Byte :=
  (tab.flatMap fun x => leBytes 2 x) ++
    [BitVec.ofNat 8 r.fmt.toNat, BitVec.ofNat 8 r.slot.toNat, BitVec.ofNat 8 (b2n r.kv + 2), 0] ++
    leBytes 4 r.nblk ++ leBytes 8 (ovfOff r) ++ List.replicate 16 0

/-- The class keys a first pass counts: the elements without poison (R256), padding left out (R239). -/
def passKeys (fmt : BitVec 4) (ms : List MByte) : List Nat :=
  let w := fmtBits fmt / 8
  (List.range (ms.length / w)).filterMap fun i =>
    let b := (ms.drop (w * i)).take w
    if anyMark b then none else some (classKey fmt (leNat (plainOf b)))

/-- The pieces a packed block writes: offset from the region base, and bytes. -/
def blockPieces (r : Region) (j : Nat) (b : PackedBlock) : List (Nat × List MByte) :=
  [(hdrOff j, markAll false (slotHeader r j b)), (bodyOff r j, b.body)] ++
    (if b.ovf then [(ovfOff r + j * ovfEntry r, b.entry)] else [])

/-- Record whether block `j` of region `n` is in overflow form (R261). -/
def noteOvf (s : State) (n j : Nat) (ovf : Bool) : State :=
  match sfind s.regions n with
  | some r =>
    let l := r.ovfBlocks.filter (· ≠ j)
    { s with regions := sput s.regions n { r with ovfBlocks := if ovf then insertBy id j l else l } }
  | none => s

/-- Consecutive raw blocks from index `blk`, packed. -/
def packBlocks (r : Region) (tab : List Nat) (blk : Nat) (blocks : List (List MByte)) : List (Nat × PackedBlock) :=
  blocks.zipIdx.map fun x => (blk + x.2, packBlock r tab x.1 (blk + x.2))

/-- What packed blocks write: offset of the reservation, and bytes. -/
def packPieces (r : Region) (bs : List (Nat × PackedBlock)) : List (Nat × List MByte) :=
  bs.flatMap fun b => (blockPieces r b.1 b.2).map fun x => (r.base + x.1, x.2)

/-- Pack consecutive raw blocks from index `blk` and write each through `put` (posted or direct). -/
def packRun (put : State → Nat → Nat → List MByte → State) (e n : Nat) (r : Region) (tab : List Nat) (s : State) (blk : Nat)
    (blocks : List (List MByte)) : State :=
  let bs := packBlocks r tab blk blocks
  forEach bs (forEach (packPieces r bs) s fun s x => put s e x.1 x.2) fun s b => noteOvf s n b.1 b.2.ovf

/-- Build a region's table from data and write its preamble. -/
def writeTable (put : State → Nat → Nat → List MByte → State) (e n : Nat) (r : Region) (data : List MByte) (s : State) : State :=
  let s1 := put s e r.base (markAll false (preamble r (buildTable (passKeys r.fmt data))))
  { s1 with regions := sput s1.regions n { r with tblValid := true } }

/-! ## Fetching packed blocks (R250, R252) -/

/-- One block as a fetch finds it: header and frame of raw size. -/
def fetchBlock (s : State) (e : Nat) (r : Region) (j : Nat) : List MByte × List MByte :=
  let h := engRead s e (r.base + hdrOff j) 8
  let n := slotBytes r.fmt r.slot
  let body := engRead s e (r.base + bodyOff r j) n
  if bitOf ((plainOf h).getD 2 0).toNat 0 then
    (h, body ++ engRead s e (r.base + ovfOff r + leNat (((plainOf h).drop 4).take 4) * 32) (rawBytes r.fmt - n))
  else (h, body ++ List.replicate (rawBytes r.fmt - n) (0, false))

/-- Packing blocks in a 4 KB operand tile. -/
def tileBlocks (fmt : BitVec 4) : Nat := if fmtBits fmt = 16 then 8 else 16

/-- The strip of a tile, from the preamble's table and the slot headers of its blocks (R250). -/
def packStrip (tab : List MByte) (headers : List (List MByte)) : List MByte :=
  tab ++ headers.flatMap fun h =>
    let w := leBytes 2 (leNat ((plainOf h).take 2)) ++ [BitVec.ofNat 8 (b2n (bitOf ((plainOf h).getD 2 0).toNat 0)), 0]
    markAll (anyMark h) w

/-- Reserved bytes of a fetch of `n` blocks (R252). -/
def reservedBytes (r : Region) (n : Nat) : Nat := n * (slotBytes r.fmt r.slot + 8)

/-! ## The expander (R213, R214, R249–R251) -/

/-- Bits of bytes, from bit 0 upward. -/
def byteBits (bs : List Byte) : List Bool := bs.flatMap fun b => (List.range 8).map (bitOf b.toNat)

/-- The number a list of bits spells, most significant first. -/
def msbNat (bs : List Bool) : Nat := bs.foldl (fun a b => 2 * a + b2n b) 0

/-- One code at the head of a stream: a rank or an escaped exponent, and the rest; none where the stream ends. -/
def readCode (fmt : BitVec 4) (bs : List Bool) : Option ((Nat ⊕ Nat) × List Bool) :=
  match bs with
  | false :: r => some (.inl 0, r)
  | true :: false :: r => some (.inl 1, r)
  | true :: true :: false :: a :: r => some (.inl (2 + b2n a), r)
  | true :: true :: true :: false :: a :: b :: r => some (.inl (4 + msbNat [a, b]), r)
  | true :: true :: true :: true :: false :: a :: b :: c :: r => some (.inl (8 + msbNat [a, b, c]), r)
  | true :: true :: true :: true :: true :: r =>
    if r.length < expBits fmt then none else some (.inr (msbNat (r.take (expBits fmt))), r.drop (expBits fmt))
  | _ => none

/-- `n` codes, each as (Z, exponent field), and the bits left; none on an entry that is not valid or past the slot. -/
def readCodes (fmt : BitVec 4) (tab : List Nat) : Nat → List Bool → Option (List (Bool × Nat) × List Bool)
  | 0, bs => some ([], bs)
  | n + 1, bs =>
    match readCode fmt bs with
    | none => none
    | some (c, r) =>
      let cls : Option (Bool × Nat) := match c with
        | .inl k => if bitOf (tab.getD k 0) 15 then some (bitOf (tab.getD k 0) 8, bitsOf (tab.getD k 0) 0 8) else none
        | .inr e => some (false, e)
      match cls, readCodes fmt tab n r with
      | some x, some (l, q) => some (x :: l, q)
      | _, _ => none

/-- The fields of elements whose classes are known; none past the slot. -/
def readFields (fmt : BitVec 4) : List (Bool × Nat) → List Bool → Option (List Nat)
  | [], _ => some []
  | (z, e) :: l, bs =>
    let n := if z then 1 else 1 + fracBits fmt
    if bs.length < n then none
    else
      let sign := b2n (bs.headD false)
      let frac := if z then 0 else msbNat ((bs.drop 1).take (fracBits fmt))
      let x := packNat [(frac, 0, fracBits fmt), (if z then 0 else e, fracBits fmt, expBits fmt), (sign, fracBits fmt + expBits fmt, 1)]
      (readFields fmt l (bs.drop n)).map (x :: ·)

/-- The raw bytes of a packed body (R245, R246). -/
def unpackBody (fmt : BitVec 4) (tab : List Nat) (body : List Byte) : Option (List Byte) :=
  match readCodes fmt tab 256 (byteBits body) with
  | none => none
  | some (cls, rest) => (readFields fmt cls (rest.drop (rest.length % 8))).map fun xs => xs.flatMap fun x => leBytes (fmtBits fmt / 8) x

/-- An expanded block: its bytes, whether it was held in overflow form, and whether it failed its check. -/
structure Expanded where
  bytes : List MByte
  ovf : Bool
  crcFail : Bool
  deriving DecidableEq, Repr

/-- Expand one frame with its strip's table and entry (R213, R249, R251). -/
def expandBlock (fmt : BitVec 4) (slot : BitVec 2) (tab entry frame : List MByte) (index : Nat) : Expanded :=
  let ovf := bitOf ((plainOf entry).getD 2 0).toNat 0
  let carried := anyMark tab || anyMark entry || anyMark (if ovf then frame else frame.take (slotBytes fmt slot))
  let raw := if ovf then some (plainOf frame) else unpackBody fmt (tableOf (plainOf tab)) ((plainOf frame).take (slotBytes fmt slot))
  match raw with
  | some bs =>
    let bad := blockCrc bs index != leNat ((plainOf entry).take 2)
    { bytes := markAll (carried || bad) bs, ovf := ovf, crcFail := bad && !carried }
  | none =>
    { bytes := markAll true ((List.range (rawBytes fmt)).map (Config.undecoded (plainOf frame))), ovf := ovf, crcFail := !carried }

/-- Expand `n` frames from Waystation address `addr`, whose strips start at `strip`: the first is block `blk` of the region. -/
def expandRun (s : State) (p : Nat) (r : Region) (addr strip blk n : Nat) : List Expanded :=
  (List.range n).map fun i =>
    let t := strip + 128 * (i / tileBlocks r.fmt)
    expandBlock r.fmt r.slot (wsRead s p t 32) (wsRead s p (t + 32 + 4 * (i % tileBlocks r.fmt)) 4)
      (wsRead s p (addr + i * rawBytes r.fmt) (rawBytes r.fmt)) (blk + i)

/-- Count expanded blocks in XPK_CNT (R257). -/
def countExpanded (s : State) (p : Nat) (xs : List Expanded) : State :=
  modCore s p fun c => { c with xOvf := satAdd c.xOvf (xs.filter Expanded.ovf).length, xCrc := satAdd c.xCrc (xs.filter Expanded.crcFail).length }

end Sys2Proof.Machine
end

