-- ==== Sys2Proof/Machine/Matrix.lean ====
section
/-! DEFINITION. The arithmetic of the matrix engine (R202–R203, R206–R215, R225): operand tiles, products and accumulation, and what one
output tile yields. -/

namespace Sys2Proof.Machine

/-- An operand element with its poison mark. -/
abbrev MElem := FVal × Bool

/-! ## Operand classes and pairings (R206, R207) -/

def is16 (fmt : BitVec 4) : Bool := fmtBits fmt == 16

/-- Rows of an A tile, and columns of a B tile. -/
def tileSide (fmt : BitVec 4) : Nat := if is16 fmt then 32 else 64

/-- Whether two operand formats may meet in a leg (R207). -/
def pairingOk (a b : BitVec 4) : Bool :=
  match a.toNat, b.toNat with
  | 3, 3 | 3, 4 | 4, 3 | 4, 4 | 5, 5 | 6, 6 | 1, 1 | 2, 2 => true
  | _, _ => false

/-! ## Exact products and the accumulator (R208, R209) -/

/-- An infinite operand is read as the largest finite value of its format (R209). -/
def readOperand (fmt : BitVec 4) (v : FVal) : FVal :=
  match v with
  | .inf n => match ffmtOf fmt with | some f => fdec f (f.maxBits + f.signBit n) | none => v
  | _ => v

def isInf : FVal → Bool
  | .inf _ => true
  | _ => false

/-- The exponent of a nonzero finite value's leading bit; that a product's exponent is the sum of two of them is the model's choice (R208, log 122). -/
def leadExp : FVal → Option Int
  | .fin _ n d => if n = 0 then none else some (flog2 n d)
  | _ => none

/-- A product in units of 2^q, bits below truncated; that a negative one is truncated by magnitude is the model's choice (R208, log 122). -/
def prodUnits (q : Int) (a b : FVal) : Int :=
  match a, b with
  | .fin s n d, .fin t m c => snum (s != t) ((n * m * (pow2 q).2) / (d * c * (pow2 q).1))
  | _, _ => 0

/-- The sum of a group of products: exact (DBF8), or in a window of 48 bits below the largest product exponent. -/
def groupSum (window : Bool) (ps : List (FVal × FVal)) : FVal :=
  if window then
    let es := ps.filterMap fun p => match leadExp p.1, leadExp p.2 with | some x, some y => some (x + y) | _, _ => none
    match es with
    | [] => .fin false 0 1
    | e :: r =>
      let q := r.foldl max e - 48
      let x := (ps.map fun p => prodUnits q p.1 p.2).sum
      FVal.dyadic (decide (x < 0)) x.natAbs q
  else ps.foldl (fun (acc : FVal) p => acc.add (p.1.mul p.2)) (.fin false 0 1)

/-- The groups of 32 consecutive K indices. -/
def groups32 : Nat → List (FVal × FVal) → List (List (FVal × FVal))
  | 0, _ => []
  | n + 1, l => if l.isEmpty then [] else l.take 32 :: groups32 n (l.drop 32)

/-- Add one group sum to the FP32 accumulator with one rounding; the count rises with each saturation. -/
def accStep (window : Bool) (a : Word × Nat) (g : List (FVal × FVal)) : Word × Nat :=
  let r := toFp ((fp a.1).add (groupSum window g))
  (r.1, a.2 + b2n r.2)

/-- A result element of floating-point or DBF8 operands, and the saturations of its accumulator. -/
def dotFp (window : Bool) (ps : List (FVal × FVal)) : Word × Nat :=
  if ps.any fun p => p.1.isNan || p.2.isNan then (0x7FC00000, 0)
  else (groups32 (ps.length + 1) ps).foldl (accStep window) (0, 0)

/-- The integer an INT8 element holds. -/
def elemInt (v : FVal) : Int := v.rne

/-- Σ a × w over INT8 elements. -/
def dotInt (ps : List (FVal × FVal)) : Int := (ps.map fun p => elemInt p.1 * elemInt p.2).sum

/-- The zero-point correction (R202). -/
def zeroPoint (dot za zw cs rs k : Int) : Int := dot - za * cs - zw * rs + k * za * zw

/-! ## Operand tiles (R206, R213–R215) -/

/-- One fetched tile: its elements, its expanded blocks, and cast saturations. -/
structure TileData where
  elems : List MElem
  blocks : List Expanded
  sats : Nat
  deriving DecidableEq, Repr

/-- The elements of raw tile bytes. -/
def plainElems (fmt : BitVec 4) (bs : List MByte) : List MElem :=
  let w := fmtBits fmt / 8
  (List.range (bs.length / w)).map fun i =>
    let b := (bs.drop (w * i)).take w
    (readElem fmt (leNat (plainOf b)), anyMark b)

/-- The elements of a DBF8 tile with its scale strip (R186, R187). -/
def dbfElems (bs strip : List MByte) : List MElem :=
  bs.zipIdx.map fun b =>
    let e := strip.getD (b.2 / 32) (0, false)
    (dbf8Elem e.1.toNat b.1.1.toNat, b.1.2 || e.2)

/-- Tile `j` of an operand at `addr`: expanded where packed (R213). -/
def fetchTile (s : State) (p e : Nat) (fmt : BitVec 4) (pack : Option PackRef) (addr strip j : Nat) : TileData :=
  match pack.bind fun k => (ownRegion s e k.region).map fun r => (k, r) with
  | some (k, r) =>
    let xs := expandRun s p r addr (strip + 128 * j) (k.blk + tileBlocks r.fmt * j) (tileBlocks r.fmt)
    { elems := plainElems r.fmt (xs.flatMap Expanded.bytes), blocks := xs, sats := 0 }
  | none =>
    let bs := wsRead s p addr 4096
    { elems := if fmt.toNat = 6 then dbfElems bs (wsRead s p (strip + 128 * j) 128) else plainElems fmt bs, blocks := [], sats := 0 }

/-- Whether an element is an integer in −127 to +127. -/
def castExact (v : FVal) : Bool :=
  match v with
  | .fin _ n d => n % d == 0 && decide (n ≤ 127 * d)
  | _ => false

/-- Cast mode (R214): BF16 elements to INT8; those of the first `cols` columns enter the array and count. -/
def castTile (cols : Nat) (t : TileData) : TileData :=
  { t with elems := t.elems.map fun x => (FVal.ofInt (toInt8 x.1).1, x.2)
           sats := ((t.elems.take (64 * cols)).filter fun x => !castExact x.1).length }

/-! ## The leg -/

/-- Bytes from one column block of B to the next: its K-tiles, and for INT8 a page with its strip (R215, log 20). -/
def colStride (d : MatrixDesc) : Nat :=
  let k := if d.cast then 8192 * d.kt else 4096 * d.kt
  if d.fmtA.toNat = 5 then k + 4096 else k

/-- Columns of output tile `t` that the operand has; the others are padding and are discarded (R207). -/
def tileCols (d : MatrixDesc) (t : Nat) : Nat := min (tileSide d.fmtA) (d.cols - t * tileSide d.fmtA)

/-- The K-tiles of column block `t` of B, each as the engine reads it. -/
def colTiles (s : State) (p e : Nat) (d : MatrixDesc) (t : Nat) : List TileData :=
  (List.range d.kt).map fun j =>
    let base := d.bAddr.toNat + colStride d * t
    if d.cast then
      let x := fetchTile s p e 1 d.packB (base + 8192 * j) d.stripB.toNat (2 * (t * d.kt + j))
      let y := fetchTile s p e 1 d.packB (base + 8192 * j + 4096) d.stripB.toNat (2 * (t * d.kt + j) + 1)
      castTile (tileCols d t) { elems := x.elems ++ y.elems, blocks := x.blocks ++ y.blocks, sats := 0 }
    else fetchTile s p e d.fmtB d.packB (base + 4096 * j) d.stripB.toNat (t * d.kt + j)

def rowTiles (s : State) (p e : Nat) (d : MatrixDesc) : List TileData :=
  (List.range d.kt).map fun j => fetchTile s p e d.fmtA d.packA (d.aAddr.toNat + 4096 * j) d.stripA.toNat j

/-- Row or column `i` of an operand: its elements over every K-tile, 64 from each (log 20). -/
def lineOf (ts : List TileData) (i : Nat) : List MElem := ts.flatMap fun t => (t.elems.drop (64 * i)).take 64

/-- One result element before conversion: FP32 value, poison, and accumulator saturations. -/
structure MResult where
  val : Word
  poison : Bool
  sats : Nat
  deriving DecidableEq, Repr

/-- An INT32 of a sum strip, with its mark (R215). -/
def stripSum (s : State) (p addr i : Nat) : Int × Bool :=
  let b := wsRead s p (addr + 4 * i) 4
  (signed 32 (leNat (plainOf b)), anyMark b)

/-- Whether any element carries a poison mark. -/
def anyPoison (l : List MElem) : Bool := l.any Prod.snd

/-- z_a of row `r` of an INT8 activation: z − 128 of the row as the vector unit made it (R202), else the command's operand. -/
def rowZero (s : State) (p : Nat) (d : MatrixDesc) (r : Nat) : Int :=
  match sfind (getCore s p).quant (d.aAddr.toNat + 64 * r) with
  | some q => (q.2.toNat : Int) - 128
  | none => sbyte d.zA

/-- Combine a row of A with a column of B (R202, R208). -/
def combine (d : MatrixDesc) (za : Int) (a b : List MElem) (rs cs : Int × Bool) : MResult :=
  let ps := (a.map fun x => readOperand d.fmtA x.1).zip (b.map fun x => readOperand d.fmtB x.1)
  let poison := anyPoison a || anyPoison b
  if d.fmtA.toNat = 5 then
    let y := zeroPoint (dotInt ps) za (sbyte d.zW) cs.1 rs.1 ps.length
    { val := fint y, poison := poison || rs.2 || cs.2, sats := 0 }
  else
    let r := dotFp (decide (d.fmtA.toNat ≠ 6)) ps
    { val := r.1, poison := poison, sats := r.2 }

/-- One written element: its bytes, whether it saturated, and whether it is NaN. -/
structure OutElem where
  bytes : List MByte
  sat : Bool
  nan : Bool
  deriving DecidableEq, Repr

/-- A factor of the output stage as the engine reads it: an infinite one is the largest finite FP32, so that the engine never forms 0 × ∞
(R184, R209, log 122). -/
def readFactor (w : Word) : Word := (toFp (readOperand 0 (fp w))).1

/-- The output stage for one element: column scale, s_act of a shadow leg, and conversion (R210, R225). A saturation of a multiplication counts
as one of the conversion (log 122). -/
def outputStage (d : MatrixDesc) (scale : Option (Word × Bool)) (r : MResult) : OutElem :=
  let x := match scale with | some k => fmul r.val (readFactor k.1) | none => (r.val, false)
  let y := if d.shadow then fmul x.1 (readFactor d.sAct) else (x.1, false)
  let mark := r.poison || (match scale with | some k => k.2 | none => false)
  if d.out.toNat = 5 then
    let c := toInt8 (fp y.1)
    { bytes := markAll mark (leBytes 1 (unsign 8 c.1)), sat := x.2 || y.2 || c.2, nan := false }
  else
    let c := convTo d.out (fp y.1)
    { bytes := markAll mark (leBytes (fmtBits d.out / 8) c.1), sat := x.2 || y.2 || c.2, nan := (fp y.1).isNan }

/-- Whether the descriptor's fields are in range and its pairing is one of R207; a cast B operand is held as BF16 and
is INT8 to the engine. -/
def matrixOk (d : MatrixDesc) : Bool :=
  decide (1 ≤ d.kt) && decide (d.kt ≤ 1024) && decide (1 ≤ d.t) && decide (d.t ≤ 65536) && decide (1 ≤ d.rows) && decide (d.rows ≤ tileSide d.fmtA) &&
    decide (1 ≤ d.cols) && decide (d.cols ≤ d.t * tileSide d.fmtA) &&
    (if d.cast then d.fmtA.toNat == 5 && (d.fmtB.toNat == 5 || d.fmtB.toNat == 1) else pairingOk d.fmtA d.fmtB) &&
    decide (d.out.toNat ≤ 5) && (d.shadow || d.sAct == 0)

/-- The formats as the engine sees them. -/
def engineDesc (d : MatrixDesc) : MatrixDesc := if d.cast then { d with fmtB := 5 } else d

/-- The scale of column `c` of output tile `t`, if the leg names a vector. -/
def columnScale (s : State) (p : Nat) (d : MatrixDesc) (i : Nat) : Option (Word × Bool) :=
  if d.scaleAddr = 0xFFFFFFFF then none
  else
    let b := wsRead s p (d.scaleAddr.toNat + 4 * i) 4
    some (BitVec.ofNat 32 (leNat (plainOf b)), anyMark b)

/-- Where row `r` of output tile `t` lies: its address and bytes. -/
def outRow (d : MatrixDesc) (t r : Nat) : Nat × Nat :=
  let n := tileSide d.fmtA
  let w := fmtBits d.out / 8
  (d.cAddr.toNat + (t * n + r) * n * w, tileCols d t * w)

/-- The Waystation ranges a leg touches: address, bytes, and whether it writes. -/
def matrixRanges (d : MatrixDesc) : List (Nat × Nat × Bool) :=
  let n := tileSide d.fmtA
  [ (d.aAddr.toNat, 4096 * d.kt + (if d.fmtA.toNat = 5 then 256 else 0), false),
    (d.bAddr.toNat, colStride d * d.t - (if d.fmtA.toNat = 5 then 3840 else 0), false) ] ++
    ((List.range d.t).flatMap fun t => (List.range d.rows).map fun r => ((outRow d t r).1, (outRow d t r).2, true)) ++
    (if d.scaleAddr = 0xFFFFFFFF then [] else [(d.scaleAddr.toNat, 4 * min d.cols (n * d.t), false)]) ++
    (if d.fmtA.toNat = 6 then [(d.stripA.toNat, 128 * d.kt, false), (d.stripB.toNat, 128 * d.kt * d.t, false)] else [])

/-- The first range of a leg that leaves the engagement's pages. -/
def foreignRange (s : State) (p e : Nat) (rs : List (Nat × Nat × Bool)) : Option (Nat × Bool) :=
  (rs.find? fun r => !wsOwned s p e r.1 r.2.1).map fun r => (r.1, r.2.2)

/-- Writeback cycles of one output tile (R211). -/
def writebackCycles (side outBits : Nat) : Nat := side * side * outBits / 8 / 256

/-- Core cycles from the first K-tile of an output tile to its last byte in the Waystation (R211). -/
def tileLatency (d : MatrixDesc) : Nat :=
  64 * d.kt + 10 + (if d.fmtA.toNat = 5 then 4 else 0) + writebackCycles (tileSide d.fmtA) (fmtBits d.out)

/-- The latency of a matrix leg in core cycles (R211). -/
def matrixLatency (d : MatrixDesc) : Nat := 64 * d.kt * (d.t - 1) + tileLatency d

/-- Row or column lines of an operand that enter the array. -/
def linesOf (ts : List TileData) (n : Nat) : List (List MElem) := (List.range n).map (lineOf ts)

/-- Infinite operand elements that the engine reads (R209). -/
def infCount (ls : List (List MElem)) : Nat := (ls.flatten.filter fun x => isInf x.1).length

/-- Everything output tile `t` yields: the rows it writes, and what it counts (R207–R215, R225). That an infinite element counts once for every
output tile that reads it is the model's choice (R209, log 122). -/
def matrixTile (s : State) (p e : Nat) (d : MatrixDesc) (t : Nat) : List (Nat × List MByte) × Tally :=
  let n := tileSide d.fmtA
  let at_ := rowTiles s p e d
  let bt := colTiles s p e d t
  let as := linesOf at_ d.rows
  let bs := linesOf bt (tileCols d t)
  let csAt := d.bAddr.toNat + colStride d * t + (if d.cast then 8192 * d.kt else 4096 * d.kt)
  let rs := as.zipIdx.map fun a => (bs.zipIdx.map fun b =>
    let m := combine (engineDesc d) (rowZero s p d a.2) a.1 b.1 (stripSum s p (d.aAddr.toNat + 4096 * d.kt) a.2) (stripSum s p csAt b.2)
    (m, outputStage d (columnScale s p d (t * n + b.2)) m))
  let es := rs.flatten
  let xs := (at_ ++ bt).flatMap TileData.blocks
  let conv := (es.filter fun x => x.2.sat).length
  (rs.zipIdx.map fun r => ((outRow d t r.2).1, r.1.flatMap fun x => x.2.bytes),
   { cvtSat := conv, clip := decide (0 < conv), shadow := d.shadow, meNan := (es.filter fun x => x.2.nan).length
     meSat := infCount as + infCount bs + (es.map fun x => x.1.sats).sum + (bt.map TileData.sats).sum
     xOvf := (xs.filter Expanded.ovf).length, xCrc := (xs.filter Expanded.crcFail).length })

end Sys2Proof.Machine
end

