-- ==== Sys2Proof/Machine/Vmath.lean ====
section
/-! DEFINITION. The arithmetic of the vector unit (R181–R202, R216–R218): readers, writers, elementwise functions, reductions, rows,
trackers and bundles, and each operation's cycles and operands. Operand forms the descriptor does not spell out are log 21. -/

namespace Sys2Proof.Machine

/-- An FP32 element with its poison mark. -/
abbrev VElem := Word × Bool

/-! ## Tensors in the Waystation (R181, R185, R186, R216) -/

/-- Bytes of a tensor of `n` elements; a DBF8 tensor has its scale array after its blocks. -/
def vecBytes (fmt : BitVec 4) (n : Nat) : Nat :=
  if fmt.toNat = 6 then 33 * cdiv n 32 else cdiv (n * fmtBits fmt) 8

/-- Element `i` of a tensor's bytes, as FP32. -/
def vecElem (fmt : BitVec 4) (n : Nat) (bs : List MByte) (i : Nat) : VElem :=
  let w := fmtBits fmt
  if fmt.toNat = 6 then
    let e := bs.getD (32 * cdiv n 32 + i / 32) (0, false)
    let m := bs.getD i (0, false)
    ((toFp (dbf8Elem e.1.toNat m.1.toNat)).1, m.2 || e.2)
  else if w < 8 then
    let b := bs.getD (i * w / 8) (0, false)
    (fint (bitsOf b.1.toNat (i * w % 8) w : Nat), b.2)
  else
    let b := (bs.drop (i * (w / 8))).take (w / 8)
    ((toFp (readElem fmt (leNat (plainOf b)))).1, anyMark b)

def readVec (s : State) (p addr : Nat) (fmt : BitVec 4) (n : Nat) : List VElem :=
  let bs := wsRead s p addr (vecBytes fmt n)
  (List.range n).map (vecElem fmt n bs)

/-- Codes of `w` bits packed from bit 0 upward (R185). -/
def packCodes (w : Nat) (cs : List (Nat × Bool)) : List MByte :=
  let per := 8 / w
  (List.range (cdiv cs.length per)).map fun i =>
    let g := (cs.drop (i * per)).take per
    (BitVec.ofNat 8 (packNat (g.zipIdx.map fun c => (c.1.1, c.2 * w, w))), g.any Prod.snd)

/-- What a conversion wrote: bytes, and for each element whether it is a NaN that counts and whether it saturated (R187, R192). -/
structure Written where
  bytes : List MByte
  nans : List Bool
  sats : List Bool
  deriving DecidableEq, Repr

/-- Blocks of 32. -/
def blocks32 {α : Type} : Nat → List α → List (List α)
  | 0, _ => []
  | n + 1, l => if l.isEmpty then [] else l.take 32 :: blocks32 n (l.drop 32)

/-- A DBF8 tensor: the element array, then the scale array (R186, R187). -/
def writeDbf8 (vs : List VElem) : Written :=
  let bl := (blocks32 (vs.length + 1) vs).map fun b =>
    (encodeDbf8 ((b.map fun v => fp v.1) ++ List.replicate (32 - b.length) (FVal.fin false 0 1)), b.any Prod.snd, b.map fun v => (fp v.1).isNan)
  { bytes := (bl.flatMap fun x => markAll x.2.1 (x.1.2.1.map fun i => BitVec.ofNat 8 (unsign 8 i))) ++
      bl.map fun x => (BitVec.ofNat 8 x.1.1, x.2.1)
    nans := bl.flatMap fun x => x.2.2
    sats := bl.flatMap fun x => x.1.2.2.take x.2.2.length }

/-- The An code of an element (R189, R197). A quotient the spec states no result for gives a free code (log 4). -/
def quantCode (bits : Nat) (sa : Word) (z : Nat) (x : Word) : Nat × Bool :=
  if (fp x).isFin && !(((fp x).div (fp sa)).getD .nan).isFin then ((Config.vecOpen 0x11 x).toNat % 2 ^ bits, false)
  else toAct bits sa z x

/-- Elements in a format (R189); An codes take s_a and z from the descriptor's parameters. -/
def writeElems (fmt : BitVec 4) (sa : Word) (z : Nat) (vs : List VElem) : Written :=
  match actWidth fmt with
  | some w =>
    let cs := vs.map fun v => (quantCode w sa z v.1, v.2, (fp v.1).isNan)
    { bytes := packCodes w (cs.map fun c => (c.1.1, c.2.1)), nans := cs.map fun c => c.2.2, sats := cs.map fun c => c.1.2 }
  | none =>
    if fmt.toNat = 6 then writeDbf8 vs
    else if fmt.toNat = 5 then
      let cs := vs.map fun v => (toInt8 (fp v.1), v.2, (fp v.1).isNan)
      { bytes := cs.map fun c => (BitVec.ofNat 8 (unsign 8 c.1.1), c.2.1), nans := cs.map fun c => c.2.2, sats := cs.map fun c => c.1.2 }
    else
      let cs := vs.map fun v => (convTo fmt (fp v.1), v.2)
      { bytes := cs.flatMap fun c => markAll c.2 (leBytes (fmtBits fmt / 8) c.1.1), nans := cs.map fun _ => false, sats := cs.map fun c => c.1.2 }

/-- What a leg adds to COR_CVT_CNT: an element that an operation and the conversion saturate counts once (R187, R192). `ops` flags the elements
that saturated before the conversion. -/
def cvtTally (w : Written) (ops : List Bool) : Tally :=
  let n := max w.sats.length ops.length
  { cvtNan := (w.nans.filter id).length, cvtSat := ((List.range n).filter fun i => w.sats.getD i false || ops.getD i false).length }

/-- ceil(n / 64). -/
def passes (n : Nat) : Nat := cdiv n 64

/-! ## Elementwise operations -/

/-- Least or greatest; with a NaN, or between zeros of unlike signs, the spec states no result (log 4). -/
def pick (op : Nat) (f : FVal → FVal → FVal) (a b : Word) : Word :=
  if (fp a).isNan || (fp b).isNan then (toFp (fp (Config.vecOpen op (a ^^^ b)))).1
  else if (fp a).isZero && (fp b).isZero && a != b then Config.vecOpen op (a ^^^ b) &&& 0x80000000
  else (toFp (f (fp a) (fp b))).1

def vecMinimum (a b : Word) : Word := pick 0x05 FVal.min a b
def vecMaximum (a b : Word) : Word := pick 0x06 FVal.max a b

/-- a × b + c, rounded once. -/
def fma (a b c : Word) : Word × Bool := toFp (((fp a).mul (fp b)).add (fp c))

/-- The relation a comparison code names: equal, not equal, below, not above, above, not below (log 21). -/
def compareHolds (code : Byte) (a b : Word) : Bool :=
  let x := fp a
  let y := fp b
  let eq := !x.isNan && !y.isNan && !x.lt y && !y.lt x
  match Config.compareCode code % 6 with
  | 0 => eq | 1 => !eq | 2 => x.lt y | 3 => x.lt y || eq | 4 => y.lt x | _ => y.lt x || eq

/-! ## Quantisation (R197, R202) -/

/-- The width of the codes a quantising leg writes: An, or INT8 as code − 128. -/
def quantWidth (fmt : BitVec 4) : Option Nat := if fmt.toNat = 5 then some 8 else actWidth fmt

/-- Codes of a row in An, or as an INT8 row of operand tiles, 64 elements to a tile, with its sum in the strip behind the last K-tile (R202,
R206, R215, log 21): the pieces written, address and bytes. -/
def quantPieces (d : VecDesc) (w : Nat) (cs : List (Nat × Bool)) : List (Nat × List MByte) :=
  let dst := d.dst.toNat
  if d.fmtOut.toNat = 5 then
    let row := cs.map fun c => ((BitVec.ofNat 8 (unsign 8 ((c.1 : Int) - 128)), c.2) : MByte)
    let sum : Int := (cs.map fun c => (c.1 : Int) - 128).sum
    ((List.range (cdiv cs.length 64)).map fun k => (dst + 4096 * k, (row.drop (64 * k)).take 64)) ++
      [(dst / 4096 * 4096 + 4096 * cdiv cs.length 64 + dst % 4096 / 64 * 4, markAll (cs.any Prod.snd) (leBytes 4 (unsign 32 sum)))]
  else [(dst, packCodes w cs)]

/-- The ranges that a quantising leg writes. -/
def quantRanges (d : VecDesc) : List (Nat × Nat × Bool) :=
  let dst := d.dst.toNat
  if d.fmtOut.toNat = 5 then
    ((List.range (cdiv d.n 64)).map fun k => (dst + 4096 * k, min 64 (d.n - 64 * k), true)) ++
      [(dst / 4096 * 4096 + 4096 * cdiv d.n 64 + dst % 4096 / 64 * 4, 4, true)]
  else [(dst, vecBytes d.fmtOut d.n, true)]

/-! ## Approximated functions (R216) -/

/-- A function on finite operands: NaN gives NaN (R184); of an infinity the spec states no result (log 4). -/
def onFinite (op : Nat) (x : Word) (f : Bool → Nat → Nat → Word × Bool) : Word × Bool :=
  match fp x with
  | .nan => (0x7FC00000, false)
  | .inf _ => (openResult op x, false)
  | .fin s n d => f s n d

/-- Fixed point of an operand limited to ±lim. -/
def fxClamp (lim : Nat) (v : FVal) : Int := clampI (-(lim : Int) * fxOne) ((lim : Int) * fxOne) (fxOf v)

def vexp (x : Word) : Word × Bool :=
  match fp x with
  | .inf true => (0, false)
  | _ => onFinite 0x20 x fun s n d =>
      let r := fxExp (fxClamp 200 (.fin s n d))
      boundedResult 0x20 [x] (fxVal r.1 r.2) 2 none

def vexp2 (x : Word) : Word × Bool :=
  onFinite 0x21 x fun s n d =>
    let v := fxClamp 300 (.fin s n d)
    boundedResult 0x21 [x] (fxVal (fxExpSmall (fxMul (v % fxOne) fxLn2)) (v / fxOne)) 2 none

def vlog2 (x : Word) : Word × Bool :=
  onFinite 0x22 x fun s n d => if s || n == 0 then (openResult 0x22 x, false) else boundedResult 0x22 [x] (fxVal (fxLog2 n d) 0) 2 none

def vrecip (x : Word) : Word × Bool :=
  onFinite 0x23 x fun s n d => if n = 0 then (openResult 0x23 x, false) else boundedResult 0x23 [x] (.fin s d n) 1 none

def vrsqrt (x : Word) : Word × Bool :=
  onFinite 0x24 x fun s n d =>
    if s || n == 0 then (openResult 0x24 x, false)
    else match sqrtVal n d with
      | .fin _ m c => boundedResult 0x24 [x] (.fin false c m) 1 none
      | _ => (0, false)

/-- Square root is correctly rounded; of a number below zero the spec states no result. -/
def vsqrt (x : Word) : Word × Bool :=
  onFinite 0x25 x fun s n d => if n = 0 then toFp (.fin s 0 1) else if s then (openResult 0x25 x, false) else toFp (sqrtVal n d)

def vsigmoid (x : Word) : Word × Bool :=
  onFinite 0x26 x fun s n d => boundedResult 0x26 [x] (fxVal (fxSigmoid (fxOf (.fin s n d))) 0) 2 (some (-24))

def vtanh (x : Word) : Word × Bool :=
  onFinite 0x27 x fun s n d => boundedResult 0x27 [x] (fxVal (fxTanh (fxOf (.fin s n d))) 0) 2 (some (-24))

/-- x × g(x) for a gate g that is 0 far below zero and 1 far above. -/
def gated (op : Nat) (g : Int → Int) (x : Word) : Word × Bool :=
  onFinite op x fun s n d =>
    let f := fxOf (.fin s n d)
    let exact : FVal := if f < -40 * fxOne then .fin false 0 1 else if 40 * fxOne < f then .fin s n d else (FVal.fin s n d).mul (fxVal (g f) 0)
    boundedResult op [x] exact 4 (some (-22))

def vsilu (x : Word) : Word × Bool := gated 0x28 fxSigmoid x

/-- GELU's gates: tanh form ½(1 + tanh(√(2/π)(x + 0.044715 x³))), and erf form ½(1 + erf(x/√2)). -/
def geluTanhGate (f : Int) : Int :=
  (fxOne + fxTanh (fxMul fxSqrt2OverPi (f + fxMul (fxMul (fxMul f f) f) (44715 * fxOne / 1000000)))) / 2
def geluErfGate (f : Int) : Int := (fxOne + fxErf (fxMul f fxSqrtHalf)) / 2

def vgeluTanh (x : Word) : Word × Bool := gated 0x29 geluTanhGate x
def vgeluErf (x : Word) : Word × Bool := gated 0x2A geluErfGate x

/-! ## Rotary embedding -/

/-- One rotated pair: (x cos − y sin, x sin + y cos), with the saturations of its steps. -/
def rotatePair (x y c t : Word) : (Word × Bool) × (Word × Bool) :=
  let a := fsub (fmul x c).1 (fmul y t).1
  let b := fadd (fmul x t).1 (fmul y c).1
  ((a.1, a.2 || (fmul x c).2 || (fmul y t).2), (b.1, b.2 || (fmul x t).2 || (fmul y c).2))

/-- The elements 2i and 2i + 1 of the result; the table holds cos and sin of pair i at the same places (log 21). -/
def rotate (xs ts : List VElem) (i : Nat) : VElem × Bool :=
  let z : VElem := (0, false)
  let j := i / 2 * 2
  let r := rotatePair (xs.getD j z).1 (xs.getD (j + 1) z).1 (ts.getD j z).1 (ts.getD (j + 1) z).1
  let m := (xs.getD j z).2 || (xs.getD (j + 1) z).2 || (ts.getD j z).2 || (ts.getD (j + 1) z).2
  if i % 2 = 0 then ((r.1.1, m), r.1.2) else ((r.2.1, m), r.2.2)

/-! ## Reductions (R217) -/

/-- Add the values of lane `l`, in ascending order. -/
def laneSum (xs : List Word) (l : Nat) : Word × Bool :=
  match (xs.zipIdx.filter fun x => x.2 % 64 == l).map Prod.fst with
  | [] => (0, false)
  | v :: r => r.foldl (fun a x => ((fadd a.1 x).1, a.2 || (fadd a.1 x).2)) (v, false)

/-- One level of the pairwise tree. -/
def treeLevel : List (Word × Bool) → List (Word × Bool)
  | a :: b :: r => ((fadd a.1 b.1).1, a.2 || b.2 || (fadd a.1 b.1).2) :: treeLevel r
  | l => l

/-- The sum in the fixed order: 64 lanes, then six levels. -/
def reduceSum (xs : List Word) : Word × Bool :=
  (treeLevel (treeLevel (treeLevel (treeLevel (treeLevel (treeLevel ((List.range 64).map (laneSum xs)))))))).headD (0, false)

def foldPick (f : Word → Word → Word) : List Word → Word
  | [] => 0
  | v :: r => r.foldl f v

/-- The sum of the rounded squares. -/
def sumSquares (xs : List Word) : Word × Bool :=
  let r := reduceSum (xs.map fun x => (fmul x x).1)
  (r.1, r.2 || xs.any fun x => (fmul x x).2)

/-! ## Normalisations and softmax -/

/-- x × r × γ, γ from a table where there is one. -/
def scaleBy (r : Word) (ts : List Word) (x : Word × Nat) : Word × Bool :=
  let a := fmul x.1 r
  match ts[x.2]? with
  | some g => let b := fmul a.1 g; (b.1, a.2 || b.2)
  | none => a

/-- RMSNorm: sum of squares, rsqrt of the mean plus epsilon, scale. -/
def rmsNorm (eps : Word) (xs ts : List Word) : List (Word × Bool) :=
  let ss := sumSquares xs
  let m := fadd (fdiv ss.1 (fint xs.length)).1 eps
  xs.zipIdx.map fun x => let q := vrsqrt m.1; let r := scaleBy q.1 ts x; (r.1, r.2 || q.2 || ss.2 || m.2)

/-- LayerNorm: mean, variance, rsqrt, scale and shift; γ is the first half of the table and β the second. -/
def layerNorm (eps : Word) (xs ts : List Word) : List (Word × Bool) :=
  let n := xs.length
  let sm := reduceSum xs
  let mean := (fdiv sm.1 (fint n)).1
  let cs := xs.map fun x => fsub x mean
  let ss := sumSquares (cs.map Prod.fst)
  let m := fadd (fdiv ss.1 (fint n)).1 eps
  cs.zipIdx.map fun c =>
    let q := vrsqrt m.1
    let r := scaleBy q.1 (ts.take n) (c.1.1, c.2)
    let f := r.2 || q.2 || c.1.2 || sm.2 || ss.2 || m.2
    match ts[n + c.2]? with
    | some b => let y := fadd r.1 b; (y.1, y.2 || f)
    | none => (r.1, f)

/-- Softmax: max, exp of difference with sum, reciprocal, scale. -/
def softmax (xs _ts : List Word) : List (Word × Bool) :=
  let m := foldPick vecMaximum xs
  let es := xs.map fun x => let y := fsub x m; let e := vexp y.1; (e.1, y.2 || e.2)
  let l := reduceSum (es.map Prod.fst)
  let r := vrecip l.1
  es.map fun e => let y := fmul e.1 r.1; (y.1, e.2 || y.2 || l.2 || r.2)

/-! ## Scale trackers (R198–R201) -/

/-- 1.125 as FP32. -/
def headroom : Word := 0x3F900000

/-- The least and greatest finite elements; a pair of NaN where there is none. -/
def stepRange (xs : List Word) : Word × Word :=
  let fs := xs.filter fun x => (fp x).isFin
  match fs with
  | [] => (0x7FC00000, 0x7FC00000)
  | v :: r => (r.foldl (fun a x => if (fp x).lt (fp a) then x else a) v, r.foldl (fun a x => if (fp a).lt (fp x) then x else a) v)

/-- The 16 pairs of a history. -/
def historyPairs (bs : List Byte) : List (Word × Word) :=
  (List.range 16).map fun i => (BitVec.ofNat 32 (leNat ((bs.drop (8 * i)).take 4)), BitVec.ofNat 32 (leNat ((bs.drop (8 * i + 4)).take 4)))

/-- The range over the window: steps with an entry among the newest N. -/
def windowRange (n : Nat) (h : List (Word × Word)) : Word × Word :=
  let w := (h.take n).filter fun x => (fp x.1).isFin
  let lo := stepRange (w.map Prod.fst)
  let hi := stepRange (w.map Prod.snd)
  if w.isEmpty then (0, 0) else (lo.1, hi.2)

/-- The zero point of an empty range (R200). -/
def emptyZero (mode w : Nat) : Nat := if mode = 1 then 2 ^ (w - 1) else 0

/-- s_a and z of a mode over a range (R198, R200). -/
def trackerScale (mode w : Nat) (lo hi : Word) : Word × Nat :=
  let neg (x : Word) : Word := (toFp (fp x).neg).1
  let absv (x : Word) : Word := (toFp (fp x).abs).1
  let top := fint (2 ^ w - 1 : Nat)
  let r : Word × Nat :=
    if mode = 0 then
      let l := (fmul headroom (if (fp lo).lt (fp 0) then lo else 0)).1
      let h := (fmul headroom (if (fp 0).lt (fp hi) then hi else 0)).1
      let sa := (fdiv (fsub h l).1 top).1
      (sa, (fp (fdiv (neg l) sa).1).rne.toNat)
    else if mode = 1 then
      let m := (fmul headroom (if (fp (absv lo)).lt (fp (absv hi)) then absv hi else absv lo)).1
      ((fdiv m (fint (2 ^ (w - 1) - 1 : Nat))).1, 2 ^ (w - 1))
    else
      let h := (fmul headroom (if (fp 0).lt (fp hi) then hi else 0)).1
      ((fdiv h top).1, 0)
  if (fp r.1).isZero then (0x3F800000, emptyZero mode w) else r

/-- Whether the tracker's mode and window are ones R198 and R199 give. -/
def trackerOk (d : VecDesc) : Bool :=
  decide (d.mode.toNat ≤ 2) && decide (1 ≤ d.win.toNat) && decide (d.win.toNat ≤ 16) && (quantWidth d.fmtOut).isSome &&
    !(d.mode.toNat == 1 && d.fmtOut.toNat == 10)

/-! ## Input-plane bundles (R58, R300) -/

/-- Bytes of a bundle of width `n`. -/
def bundleBytes (n : Nat) : Nat := 32 + 256 * n

/-- The byte of a plane that holds rows 8i to 8i + 7. -/
def planeByte (cs : List VElem) (p i : Nat) : Byte :=
  BitVec.ofNat 8 (packNat ((List.range 8).map fun b => (b2n (bitOf (fp (cs.getD (8 * i + b) (0, false)).1).rne.toNat p), b, 1)))

/-- The frame of one bundle: header and planes, most significant first. -/
def bundleFrame (n z : Nat) (tag : BitVec 16) (sa : Word) (cs : List VElem) : List MByte :=
  let mark := cs.any Prod.snd
  markAll mark ([BitVec.ofNat 8 n, BitVec.ofNat 8 z] ++ leBytes 2 tag.toNat ++ leBytes 4 sa.toNat ++
    [BitVec.ofNat 8 (b2n mark)] ++ List.replicate 23 0 ++
    ((List.range n).reverse.flatMap fun p => (List.range 256).map (planeByte cs p)))

/-- Where frame `i` lies: frames are aligned to 64 bytes and none crosses a page (R300, log 21). -/
def frameAt (dst n i : Nat) : Nat :=
  let step := 64 * cdiv (bundleBytes n) 64
  let per := 4096 / step
  let first := (4096 - dst % 4096) / step
  if i < first then dst + i * step else (dst / 4096 + 1 + (i - first) / per) * 4096 + (i - first) % per * step

/-! ## What an operation takes (R218, R273, R298) -/

/-- Core cycles of a vector operation on operands of a format, where the VOP is not reserved (R218, R273). -/
def vopCycles (vop : Nat) (fmt : BitVec 4) (n : Nat) : Option Nat :=
  let p := passes n
  if 0x01 ≤ vop ∧ vop ≤ 0x09 ∨ vop = 0x10 ∨ vop = 0x11 then some (p + 4)
  else if 0x20 ≤ vop ∧ vop ≤ 0x27 then some (2 * p + 8)
  else if 0x28 ≤ vop ∧ vop ≤ 0x2A then some (2 * p + 12)
  else if vop = 0x30 then some (2 * p + 4)
  else if 0x40 ≤ vop ∧ vop ≤ 0x44 then some (p + 6)
  else if vop = 0x50 then some (2 * p + 10)
  else if vop = 0x60 then some (2 * p + 18)
  else if vop = 0x61 then some (3 * p + 24)
  else if vop = 0x62 then some (4 * p + 32)
  else if vop = 0x70 then some (2 * p + 22)
  else if vop = 0x71 then some (cdiv n 2048 * (32 + 4 * (actWidth fmt).getD 8))
  else none

/-- The range of an operand; an operand named none has no bytes. -/
def srcRange (addr : Word) (fmt : BitVec 4) (n : Nat) : Nat × Nat × Bool :=
  (addr.toNat, if addr = 0xFFFFFFFF then 0 else vecBytes fmt n, false)

def dstRange (addr : Word) (bytes : Nat) : Nat × Nat × Bool := (addr.toNat, bytes, true)

/-- Elements of the table that a row operation reads at SRC1 (log 21). -/
def tableElems (vop : Nat) (d : VecDesc) : Nat :=
  if d.src1 = 0xFFFFFFFF then 0 else if vop = 0x60 then d.n else if vop = 0x61 then 2 * d.n else 0

/-- The Waystation ranges an operation touches: address, bytes, and whether it writes them. -/
def vecRanges (vop : Nat) (d : VecDesc) : List (Nat × Nat × Bool) :=
  let one := srcRange d.src0 d.fmtIn d.n
  let two := srcRange d.src1 d.fmtIn d.n
  let out := dstRange d.dst (vecBytes d.fmtOut d.n)
  if [0x01, 0x02, 0x03, 0x05, 0x06, 0x08, 0x30].contains vop then [one, two, out]
  else if vop = 0x04 ∨ vop = 0x09 then [one, two, srcRange d.src2 d.fmtIn d.n, out]
  else if vop = 0x11 then one :: quantRanges d
  else if 0x40 ≤ vop ∧ vop ≤ 0x43 then [one, dstRange d.dst (vecBytes d.fmtOut 1)]
  else if vop = 0x44 then [one, dstRange d.dst (vecBytes d.fmtOut 2)]
  else if vop = 0x50 then [one, dstRange d.dst (vecBytes 6 d.n)]
  else if 0x60 ≤ vop ∧ vop ≤ 0x62 then [one, srcRange d.src1 d.fmtIn (tableElems vop d), out]
  else if vop = 0x70 then one :: (d.param1.toNat, 128, true) :: quantRanges d
  else if vop = 0x71 then
    let n := (actWidth d.fmtIn).getD 8
    one :: (List.range (cdiv d.n 2048)).map fun i => (frameAt d.dst.toNat n i, bundleBytes n, true)
  else [one, out]

/-- Whether a descriptor's fields are in range for its operation (R181, R198, R199, R218, R273, R300). -/
def vecOk (vop : Nat) (d : VecDesc) : Bool :=
  decide (1 ≤ d.n) && decide (d.n ≤ 65536) && !fmtReserved d.fmtIn && !fmtReserved d.fmtOut && (vopCycles vop d.fmtIn d.n).isSome &&
    (vop != 0x11 || (quantWidth d.fmtOut).isSome) && (vop != 0x70 || trackerOk d) &&
    (vop != 0x71 || ((actWidth d.fmtIn).isSome && decide (d.dst.toNat % 64 = 0)))

end Sys2Proof.Machine
end

