-- ==== Sys2Proof/Machine/Manifest.lean ====
section
/-! DEFINITION. The manifest that ADMIT names: its form and the limits of its layers and tensors (R387, R388). -/

namespace Sys2Proof.Machine

/-- Field `n` bytes long at byte `o`. -/
def leAt (bs : List Byte) (o n : Nat) : Nat := leNat ((bs.drop o).take n)

/-- Whether bytes `o … o + n − 1` are 0. -/
def zeroAt (bs : List Byte) (o n : Nat) : Bool := ((bs.drop o).take n).all (· == 0)

/-- A layer entry. -/
structure MLayer where
  op : Nat
  fmt : Nat
  outFmt : Nat
  pmode : Nat
  flags : Nat
  slot : Nat
  aw : Nat
  k : Nat
  n : Nat
  layerId : Nat
  inp : Nat
  out : Nat
  wt : Nat
  param : Nat
  spare : Bool
  deriving DecidableEq, Repr

/-- A tensor entry. -/
structure MTensor where
  id : Nat
  fmt : Nat
  track : Nat
  region : Nat
  elems : Nat
  spare : Bool
  deriving DecidableEq, Repr

def layerAt (bs : List Byte) (o : Nat) : MLayer :=
  { layerId := leAt bs o 4, op := leAt bs (o + 4) 1, fmt := leAt bs (o + 5) 1 % 16, outFmt := leAt bs (o + 5) 1 / 16, pmode := leAt bs (o + 6) 1,
    flags := leAt bs (o + 7) 1, slot := leAt bs (o + 8) 1, aw := leAt bs (o + 9) 1, k := leAt bs (o + 12) 4, n := leAt bs (o + 16) 4,
    inp := leAt bs (o + 20) 4, out := leAt bs (o + 24) 4, wt := leAt bs (o + 28) 4, param := leAt bs (o + 32) 4,
    spare := zeroAt bs (o + 10) 2 && zeroAt bs (o + 36) 28 }

def tensorAt (bs : List Byte) (o : Nat) : MTensor :=
  { id := leAt bs o 4, fmt := leAt bs (o + 4) 1, track := leAt bs (o + 5) 1, region := leAt bs (o + 6) 1, elems := leAt bs (o + 8) 8, spare := zeroAt bs (o + 7) 1 && zeroAt bs (o + 16) 16 }

def manifestLayers (bs : List Byte) : List MLayer := (List.range (leAt bs 16 4)).map fun i => layerAt bs (leAt bs 24 4 + 64 * i)
def manifestTensors (bs : List Byte) : List MTensor := (List.range (leAt bs 20 4)).map fun i => tensorAt bs (leAt bs 28 4 + 32 * i)

/-- The header's own fields. -/
def headerOk (bs : List Byte) : Bool :=
  decide (64 ≤ bs.length) && leAt bs 0 4 == 0x53464E4D && leAt bs 4 2 == 0x0100 && decide (leAt bs 6 1 < 4) && decide (1 ≤ leAt bs 7 1) &&
    decide (leAt bs 7 1 ≤ 64) && (bitOf (leAt bs 6 1) 1 || leAt bs 7 1 == 1) && decide (1 ≤ leAt bs 16 4) && decide (leAt bs 16 4 ≤ 65536) &&
    decide (1 ≤ leAt bs 20 4) && decide (leAt bs 20 4 ≤ 65536) && decide (leAt bs 36 2 ≤ 128) && zeroAt bs 38 26 &&
    decide (leAt bs 24 4 + 64 * leAt bs 16 4 ≤ bs.length) && decide (leAt bs 28 4 + 32 * leAt bs 20 4 ≤ bs.length)

/-- The WFMT code of a manifest or a waybill (R160, R387). -/
def wfmtOf (n : Nat) : WFmt := match n with | 1 => .w8 | 2 => .w4 | 3 => .wt | _ => .unused

/-- Floor and worst-case slot of a weight format code and mode (R60, R62). -/
def slotLimits (wfmt pmode : Nat) : Nat × Nat := (fmtFloor (wfmtOf wfmt), modeW (BitVec.ofNat 2 pmode))

/-- The slot of a layer's strikes: the declared one, or the worst case (R62, R387). -/
def layerSlot (l : MLayer) : Nat := if bitOf l.flags 1 then l.slot else (slotLimits l.fmt l.pmode).2

/-- The limits of one layer (R62, R181, R207, R219). -/
def layerOk (ls : List MLayer) (ts : List MTensor) (i : Nat) (l : MLayer) : Bool :=
  let has (t : Nat) : Bool := ts.any fun x => x.id == t
  let made (t : Nat) : Bool := (ls.zipIdx.all fun x => x.1.out != t) || (ls.zipIdx.any fun x => x.1.out == t && decide (x.2 < i))
  l.spare && decide (l.flags < 4) && (l.op == 2 || l.wt == 0xFFFFFFFF) && has l.inp && has l.out && made l.inp && !fmtReserved (BitVec.ofNat 4 l.outFmt) &&
    (if l.op = 1 then
      decide (1 ≤ l.fmt) && decide (l.fmt ≤ 3) && decide (l.pmode ≤ 2) && (l.aw == 8 || l.aw == 4 || l.aw == 1) && fmtStrikeOut (BitVec.ofNat 4 l.outFmt) &&
        (if bitOf l.flags 1 then decide ((slotLimits l.fmt l.pmode).1 ≤ l.slot) && decide (l.slot ≤ (slotLimits l.fmt l.pmode).2) else l.slot == 0)
    else if l.op = 2 then fmtMatrixIn (BitVec.ofNat 4 l.fmt) && has l.wt && made l.wt
    else if l.op = 3 then
      (l.fmt == 3 || l.fmt == 4 || l.fmt == 1) && decide (1 ≤ bitsOf l.param 0 8) && decide (bitsOf l.param 0 8 ≤ if l.fmt = 1 then 32 else 64) &&
        decide (1 ≤ bitsOf l.param 16 16) && decide (bitsOf l.param 16 16 ≤ 1024)
    else l.op == 4 && !fmtReserved (BitVec.ofNat 4 l.fmt) && (vopCycles (bitsOf l.param 0 8) (BitVec.ofNat 4 l.fmt) 1).isSome)

/-- The limits of one tensor (R181, R198, R236, R240): only the formats R236 names are packed (log 127). -/
def tensorOk (t : MTensor) : Bool :=
  t.spare && decide (t.fmt < 16) && !fmtReserved (BitVec.ofNat 4 t.fmt) && bitsOf t.track 2 2 == 0 && decide (t.region < 16) &&
    !(bitsOf t.track 0 2 == 1 && t.fmt == 10) && (bitsOf t.region 0 2 == 0 || packable (BitVec.ofNat 4 t.fmt))

/-- Whether the file meets R387 and its layers their limits. -/
def manifestOk (bs : List Byte) : Bool :=
  headerOk bs &&
    let ls := manifestLayers bs
    let ts := manifestTensors bs
    ls.zipIdx.all (fun x => layerOk ls ts x.2 x.1) && ts.all tensorOk

/-- Whether a slot size is named for a protected region (R253). -/
def packsProtected (bs : List Byte) : Bool :=
  (manifestTensors bs).any fun t => bitsOf t.region 0 2 != 0 && (bitOf t.region 3 || bitOf (leAt bs 6 1) 0)

end Sys2Proof.Machine
end

