-- ==== Sys2Proof/Machine/Targets.lean ====
section
/-! DEFINITION. Target images and output tables of tile-decks, in the stacked memory of their engagement (R161, R165). -/

namespace Sys2Proof.Machine

/-- Bytes of a target image: 2,048 rows of 128 bytes; and of an output table. -/
def imageSize : Nat := 262144
def tableSize : Nat := 2048

/-- The decks of a plan that have a target image of their own: of two twinned copies, the one with the lower number. -/
def imageDecks (pl : Plan) : List PlanDeck := pl.decks.filter fun d => d.twin.all fun w => decide (logicalDeck d.addr < logicalDeck w)

/-- Pages of target images, 8 to a page, and of output tables, 1,024 to a page. -/
def targetPages (pl : Plan) : Nat := cdiv (imageDecks pl).length 8 + cdiv (imageDecks pl).length 1024

/-- The first page of a plan's target images: they take the last pages of the reservation, the tables behind them (log 31). -/
def targetBase (pl : Plan) : Nat := pl.smPages - targetPages pl

/-- The number of a deck's image among its plan's: a twinned copy has that of its twin. -/
def imageNumber (pl : Plan) (d : PlanDeck) : Nat :=
  let key := match d.twin with | some w => min (logicalDeck d.addr) (logicalDeck w) | none => logicalDeck d.addr
  ((imageDecks pl).map fun x => logicalDeck x.addr).idxOf key

/-- Where a deck's image and table lie in the engagement's pages. -/
def targetPlace (pl : Plan) (d : PlanDeck) : Nat × Nat :=
  let n := imageNumber pl d
  (targetBase pl * 2 ^ 21 + n * imageSize, (targetBase pl + cdiv (imageDecks pl).length 8) * 2 ^ 21 + n * tableSize)

/-- Bits of a pre-quantised weight (R161). -/
def codeBits (f : WFmt) : Nat := match f with | .w8 => 8 | .w4 => 4 | _ => 2

/-- What a target image holds. -/
structure Target where
  eng : BitVec 6
  weight : Nat → Nat → Int
  outTab : Sparse (Byte × Int)
  sDeck : Word
  complete : Bool
  poisoned : Bool

/-- A byte of an engagement's stacked memory. -/
def engByte (s : State) (e off : Nat) : Nat := match (engRead s e off 1).head? with | some b => b.1.toNat | none => 0

/-- The weight of local output `p` at a row of an image (R165). -/
def imageWeight (s : State) (r : TargetRef) (row p : Nat) : Int :=
  let b := codeBits r.fmt
  signed b (bitsOf (engByte s r.eng.toNat (r.image + row * 128 + p * b / 8)) (p * b % 8) b)

/-- The entries of an output table that are not 0. -/
def tableEntries (s : State) (r : TargetRef) : Sparse (Byte × Int) :=
  (List.range (fmtOutputs r.fmt)).filterMap fun p =>
    let bs := plainOf (engRead s r.eng.toNat (r.table + 4 * p) 4)
    let v : Byte × Int := (bs.headD 0, signed 24 (leNat (bs.drop 1)))
    if v = (0, 0) then none else some (p, v)

/-- Whether `n` bytes of an engagement's stacked memory, within one page, hold a poisoned codeword. -/
def engPoisoned (s : State) (e off n : Nat) : Bool :=
  match engPa s e off with
  | some pa => s.mem.smPoison.any fun u => decide (pa / 64 ≤ u.1) && decide (u.1 < (pa + n + 63) / 64)
  | none => false

/-- Whether a fetch of a target would return poison. -/
def refPoisoned (s : State) (r : TargetRef) : Bool := engPoisoned s r.eng.toNat r.image imageSize || engPoisoned s r.eng.toNat r.table tableSize

/-- The target image of a logical tile-deck. -/
def targetOf (s : State) (lg : Nat) : Option Target :=
  (sfind s.targets lg).map fun r =>
    { eng := r.eng, weight := imageWeight s r, outTab := tableEntries s r, sDeck := r.sDeck, complete := r.complete, poisoned := refPoisoned s r }

/-- The tile-decks whose target image or table holds a PA. -/
def targetsAt (s : State) (pa : Nat) : List Nat :=
  s.targets.filterMap fun x =>
    let holds := fun (off n : Nat) => match engPa s x.2.eng.toNat off with | some a => decide (a ≤ pa) && decide (pa < a + n) | none => false
    if holds x.2.image imageSize || holds x.2.table tableSize then some x.1 else none

/-- The bytes of one row of an image. -/
def rowCodes (f : WFmt) (weight : Nat → Int) : List Byte :=
  leBytes 128 (((List.range (fmtOutputs f)).map fun p => unsign (codeBits f) (weight p) * 2 ^ (p * codeBits f)).sum)

/-- An image and its table are written (R164, R165). -/
def writeTarget (s : State) (r : TargetRef) (weight : Nat → Nat → Int) (out : Nat → Byte × Int) : State :=
  let e := r.eng.toNat
  let s1 := forEach (List.range 2048) s fun s row => engWrite s e (r.image + row * 128) (markAll false (rowCodes r.fmt (weight row)))
  engWrite s1 e r.table (markAll false ((List.range 512).flatMap fun p =>
    if p < fmtOutputs r.fmt then (out p).1 :: leBytes 3 (unsign 24 (out p).2) else leBytes 4 0))

end Sys2Proof.Machine
end

