-- ==== Sys2Proof/Machine/Route.lean ====
section
/-! DEFINITION. The Route: control words of its links, its broadcast tree, and the paths over it (R18, R163, R285, R422, R429, R430). -/

namespace Sys2Proof.Machine

/-! ## Control words (R422) -/

/-- A control word of a type with a body. -/
def ctrlWord (ctype body : Nat) : BitVec 64 := BitVec.ofNat 64 (packNat [(body, 0, 60), (ctype, 60, 4)])

/-- Send a control word on a port, `n` frames in a row. -/
def sendCtrl (s : State) (p n : Nat) (w : BitVec 64) : State :=
  modPort s p fun x => { x with ctrlOut := x.ctrlOut ++ List.replicate n w }

/-- The UP ports of the broadcast tree. -/
def treePorts (s : State) : List Nat := (List.range 8).filter fun p => (getPort s p).tree && decide ((getPort s p).st = .up)

def upPorts (s : State) : List Nat := (List.range 8).filter fun p => decide ((getPort s p).st = .up)

/-! ## The broadcast tree (R429) -/

/-- The ports that lead to children in the broadcast tree (R163, R436). -/
def childPorts (s : State) : List Nat := (setBits s.hzl.children.toNat 8).filter fun p => decide ((getPort s p).st = .up)

/-- The links of a device. -/
def nodeLinks (ns : List Node) (d : Nat) : List (Fin 8 × Fin 64 × Nat) :=
  match ns.find? fun n => n.1.val == d with | some n => n.2.2 | none => []

/-- Breadth-first distances from device 0 after `n` rounds: `dist` holds (device, distance). -/
def bfs (ns : List Node) : Nat → List (Nat × Nat) → List (Nat × Nat)
  | 0, dist => dist
  | n + 1, dist =>
    let new := ns.filterMap fun x =>
      if dist.any fun d => d.1 == x.1.val then none
      else match (x.2.2.filterMap fun l => (dist.find? fun d => d.1 == l.2.1.val).map Prod.snd).min? with
        | some m => some (x.1.val, m + 1)
        | none => none
    bfs ns n (dist ++ new)

def distances (ns : List Node) : List (Nat × Nat) := bfs ns 64 [(0, 0)]

/-- The parent link of a device: the neighbour nearest device 0, ties by lowest device number, then by lowest port. -/
def parentLink (ns : List Node) (d : Nat) : Option (Fin 8 × Fin 64 × Nat) :=
  let dist := distances ns
  let far (x : Nat) : Nat := match dist.find? fun y => y.1 == x with | some y => y.2 | none => 64
  if d = 0 then none
  else (sortBy (fun (l : Fin 8 × Fin 64 × Nat) => far l.2.1.val * 512 + l.2.1.val * 8 + l.1.val) (nodeLinks ns d)).head?

/-- The devices from one up to device 0. -/
def pathUp (ns : List Node) : Nat → Nat → List Nat
  | 0, d => [d]
  | n + 1, d => d :: (match parentLink ns d with | some l => pathUp ns n l.2.1.val | none => [])

/-- Hops between two devices over the tree. -/
def treeHops (ns : List Node) (a b : Nat) : Nat :=
  let pa := pathUp ns 64 a
  let pb := pathUp ns 64 b
  (pa.filter fun x => !pb.contains x).length + (pb.filter fun x => !pa.contains x).length

/-- Whether port `p` leads to a child: its peer's parent link comes back to it. -/
def leadsToChild (s : State) (ns : List Node) (p : Nat) : Bool :=
  let x := getPort s p
  x.st == .up && match parentLink ns x.peer.toNat with
    | some l => l.2.1.val == s.hzl.devnum.toNat && l.1.val == x.peerPort.toNat
    | none => false

/-- This device's own place in the tree of the nodes: its ports, its upstream port and its children (R433, R436). -/
def placeInTree (s : State) (ns : List Node) : State :=
  let me := s.hzl.devnum.toNat
  let up : Option Nat := (parentLink ns me).map fun l => l.1.val
  let kids := (List.range 8).filter (leadsToChild s ns)
  let s1 := forEach (List.range 8) s fun s p => modPort s p fun x => { x with tree := kids.contains p || up == some p, upstream := up == some p }
  { s1 with hzl := { s1.hzl with nodes := ns, parent := BitVec.ofNat 3 (up.getD 0), children := BitVec.ofNat 8 (packNat (kids.map fun p => (1, p, 1))) } }

/-! ## Lost ports (R167, R430) -/

/-- The nodes without the links whose ports are lost: a link goes with the last port that leads back over it. -/
def pruneNodes (lost : List (Nat × Nat)) (ns : List Node) : List Node :=
  let ns1 := ns.map fun n => (n.1, n.2.1, n.2.2.filter fun l => !lost.contains (n.1.val, l.1.val))
  ns1.map fun n => (n.1, n.2.1, n.2.2.filter fun l => (nodeLinks ns1 l.2.1.val).any fun x => x.2.1 == n.1)

/-- The tree is recomputed at an epoch boundary where ports have been lost (R430). -/
def recomputeTree (s : State) : State :=
  if s.hzl.formed ∧ s.hzl.seenLost ≠ [] then
    let s1 := placeInTree s (pruneNodes s.hzl.seenLost s.hzl.nodes)
    { s1 with hzl := { s1.hzl with seenLost := [] } }
  else s

/-- The devices whose parent links a path over the tree crosses. -/
def pathLinks (ns : List Node) (a b : Nat) : List Nat :=
  let pa := pathUp ns 64 a
  let pb := pathUp ns 64 b
  (pa.filter fun x => !pb.contains x) ++ pb.filter fun x => !pa.contains x

/-- Whether the loss of port `p` of device `d` breaks the path between two devices: the port is one end of a link of the path (log 131). -/
def breaks (ns : List Node) (d p a b : Nat) : Bool :=
  (pathLinks ns a b).any fun x =>
    match parentLink ns x with
    | some l => (x == d && l.1.val == p) || (l.2.1.val == d && (nodeLinks ns d).any fun y => y.1.val == p && y.2.1.val == x)
    | none => false

/-- The port towards another device of the Route. -/
def portTowards (s : State) (dev : Nat) : Option Nat :=
  let me := s.hzl.devnum.toNat
  let path := pathUp s.hzl.nodes 64 dev
  if path.contains me then
    match (path.takeWhile fun x => x != me).getLast? with
    | some x => (treePorts s).find? fun p => (getPort s p).peer.toNat == x
    | none => none
  else (treePorts s).find? fun p => (getPort s p).upstream

/-- The ports over which a waybill goes on from this device: the tree ports that do not lead to its Lead (R163, log 130). -/
def wayPorts (s : State) (lead : Nat) : List Nat :=
  if lead = s.hzl.devnum.toNat then treePorts s else (treePorts s).filter fun p => portTowards s lead != some p

/-- The circuit boundary of an engagement that follows now (R167, R430). -/
def nextBoundary (s : State) (e : Nat) : Nat :=
  let g := getEng s e
  if engPeriod g = 0 ∨ s.alm.beat.toNat ≤ engAnchor g then s.alm.beat.toNat
  else engAnchor g + cdiv (s.alm.beat.toNat - engAnchor g) (engPeriod g) * engPeriod g

/-- A waybill whose broadcast a lost port breaks: the devices it cuts off from the Lead report FENCED at the next circuit boundary (R167). -/
def cutWaybill (s : State) (d p e : Nat) (w : Waybill) : Waybill :=
  let me := s.hzl.devnum.toNat
  let ns := s.hzl.nodes
  if w.lead then
    let far := (ns.map fun n => n.1.val).filter fun x => breaks ns d p me x && w.cuts.all fun y => y.1 != x
    { w with cuts := w.cuts ++ far.map fun x => (x, nextBoundary s e) }
  else if w.cutAt.isNone ∧ breaks ns d p me w.leadDev then { w with cutAt := some (nextBoundary s e) }
  else w

def cutWaybills (s : State) (d p : Nat) : State :=
  forEach (List.range 64) s fun s e => modEng s e fun g => { g with waybill := g.waybill.map (cutWaybill s d p e) }

end Sys2Proof.Machine
end

