-- ==== Sys2Proof/Machine/StackedMemory.lean ====
section
/-! DEFINITION. Stacked memory and its protection (R319–R348): the code, reads of codewords, the bucket, the Patrol and
start-up. -/

namespace Sys2Proof.Machine

/-! ## The code (R321, R332) -/

/-- Multiplication by α in GF(2^16). -/
def gfDouble (a : Nat) : Nat := if a < 0x8000 then 2 * a else (2 * a - 0x10000) ^^^ 0x100B

/-- Multiplication in GF(2^16). -/
def gfMul (a b : Nat) : Nat :=
  ((List.range 16).foldl (fun (x : Nat × Nat) i => (if bitOf b i then x.1 ^^^ x.2 else x.1, gfDouble x.2)) (0, a)).1

/-- The coefficients of g(x) below x^8, highest first: the product of (x + α^i), i from 0 to 7. -/
def rsGenerator : List Nat :=
  ((List.range 8).foldl (fun (x : List Nat × Nat) _ =>
    (((x.1 ++ [0]).zip (0 :: x.1)).map (fun (c : Nat × Nat) => c.1 ^^^ gfMul c.2 x.2), gfDouble x.2)) ([1], 1)).1.drop 1

/-- One data symbol enters the division register. -/
def rsStep (reg : List Nat) (d : Nat) : List Nat :=
  let f := d ^^^ reg.headD 0
  ((reg.drop 1 ++ [0]).zip rsGenerator).map fun (c : Nat × Nat) => c.1 ^^^ gfMul f c.2

/-- The check symbols p_0 to p_7 of 32 data symbols: m(x) mod g(x). -/
def rsCheck (d : List Nat) : List Nat := d.foldl rsStep (List.replicate 8 0)

/-- The data symbols of 64 bytes. -/
def dataSymbols (bs : List Byte) : List Nat := (List.range 32).map fun k => leNat ((bs.drop (2 * k)).take 2)

/-- The stored symbols of a unit; in poison form every check symbol is XORed with 0xA5A5. -/
def storedSymbols (bs : List Byte) (poison : Bool) : List Nat :=
  dataSymbols bs ++ (rsCheck (dataSymbols bs)).map fun p => if poison then p ^^^ 0xA5A5 else p

/-! ## Classification of a read (R323) -/

/-- The symbols in error. -/
def errSymbols (err : List (BitVec 16)) : List Nat := (List.range 40).filter fun i => err.getD i 0 != 0

/-- What the decoder makes of a codeword. -/
inductive CwResult where
  | clean
  | corrected
  | escaped
  | uncorrectable
  deriving DecidableEq, Repr

/-- Decode under the limits of R323; `mark` is the marked die group. Beyond the limits the code detects all but few error
values, which it cannot tell from correct data (log 5). -/
def decodeErr (mark : Option Nat) (err : List (BitVec 16)) : CwResult :=
  let es := errSymbols err
  match mark with
  | none =>
    if es.isEmpty then .clean
    else if es.length ≤ 4 then .corrected
    else if Config.undetected err then .escaped else .uncorrectable
  | some g =>
    let out := es.filter fun i => i / 4 != g
    if es.isEmpty then .clean
    else if out.length ≤ 2 then .corrected
    else if out.length ≤ 4 then .uncorrectable
    else if Config.undetected err then .escaped else .uncorrectable

/-- The die group of a stack that is marked failed. -/
def markedGroup (k : Stack) : Option Nat := (setBits k.dgfail.toNat 10).head?

/-- The group that holds every symbol in error, if one does. -/
def oneGroup (err : List (BitVec 16)) : Option Nat :=
  match errSymbols err with
  | [] => none
  | i :: r => if r.all fun j => j / 4 == i / 4 then some (i / 4) else none

/-! ## The bucket and the mark (R324, R336, R337) -/

/-- Add units to a stack's bucket; it overflows at SIZE, with vector 17 where OVF was 0. -/
def bucketAdd (s : State) (st n : Nat) : State :=
  let k := getStack s st
  if k.level + n < k.size.toNat then modStack s st fun k => { k with level := k.level + n }
  else
    let s1 := modStack s st fun k => { k with level := 0, ovfCnt := satAdd k.ovfCnt 1, ovf := true }
    if k.ovf then s1 else fireVector s1 17

/-- A corrected codeword counts and fills the bucket. -/
def countCorrected (s : State) (st : Nat) : State :=
  bucketAdd (modStack s st fun k => { k with ce := satAdd k.ce 1 }) st (getStack s st).fill.toNat

/-- Mark a die group failed: a stack has one mark. -/
def markGroup (s : State) (st g : Nat) : State :=
  let k := getStack s st
  if (markedGroup k).isSome then s
  else bucketAdd (modStack s st fun k => { k with dgfail := k.dgfail ||| BitVec.ofNat 10 (2 ^ g), recent := [] }) st k.size.toNat

/-- Note a codeword corrected within one group; 16 within 2^16 beats mark it. -/
def noteGroup (s : State) (st : Nat) (g : Nat) : State :=
  let now := s.alm.beat
  let l := ((getStack s st).recent.filter fun r => decide (now.toNat < r.2.toNat + 65536)) ++ [(g, now)]
  let s1 := modStack s st fun k => { k with recent := l }
  if 16 ≤ (l.filter fun r => r.1 == g).length then markGroup s1 st g else s1

/-! ## Uncorrectable codewords (R333) -/

/-- The engagement that owns the page of a PA. -/
def pageOwnerOf (s : State) (pa : Nat) : Option Nat := (List.range 64).find? fun e => (getEng s e).pages.contains (pa / 2 ^ 21)

/-- An uncorrectable codeword of a target image: its tile-decks are not programmed, and a waybill in progress reports row 9
of R168 (R331). -/
def poisonTarget (s : State) (pa : Nat) : State :=
  forEach (targetsAt s pa) s fun s lg =>
    match sfind s.targets lg with
    | some t =>
      let s2 := modDeck s (physDeck s lg) fun d => if d.jDone || d.erasing then d else stopDeck false s.alm.beat.toNat d
      modEng s2 t.eng.toNat fun g => { g with waybill := g.waybill.map fun w => if w.status = stOk then { w with status := stIntegrity } else w }
    | none => s

/-- Count, log and store back in poison form. -/
def noteUe (s : State) (pa kind : Nat) : State :=
  let s1 := modStack (poisonTarget s pa) (paStack pa) fun k => { k with ue := satAdd k.ue 1 }
  let o := pageOwnerOf s pa
  let ent : UeEntry := { pa := pa, kind := BitVec.ofNat 2 kind, eng := BitVec.ofNat 6 (o.getD 0), owned := o.isSome }
  let p := s1.ptl
  memMod { s1 with ptl := if p.ueLog.length < 16 then { p with ueLog := p.ueLog ++ [ent] } else { p with ueLost := true } } fun m =>
    { m with smPoison := sset false m.smPoison (pa / 64) true, smValid := sset false m.smValid (pa / 64) true }

/-- The errors of a codeword in poison form: every check symbol differs from the correct one (R332). -/
def poisonErr (e : List (BitVec 16)) : List (BitVec 16) := (List.range 40).map fun i => if 32 ≤ i then e.getD i 0 ^^^ 0xA5A5 else e.getD i 0

/-- A read of the codeword at `pa` (its first byte) met `err`: what it counts, and what it delivers. `inj` says that the
errors were injected, which never count towards a mark. -/
def readCw (s : State) (pa kind : Nat) (err : CwErr) (inj : Bool) : State × CwResult :=
  let st := paStack pa
  if sget false s.mem.smPoison (pa / 64) && (err == none || (err.getD []).all (· == 0)) then
    if err = none then (noteUe s pa 3, .uncorrectable)
    else (modStack s st fun k => { k with psn := satAdd k.psn 1 }, .uncorrectable)
  else match err with
    | none => (noteUe s pa 3, .uncorrectable)
    | some e =>
      match decodeErr (markedGroup (getStack s st)) (if sget false s.mem.smPoison (pa / 64) then poisonErr e else e) with
      | .clean => (s, .clean)
      | .escaped => (s, .escaped)
      | .uncorrectable => (noteUe s pa kind, .uncorrectable)
      | .corrected =>
        let s1 := countCorrected s st
        match oneGroup e with
        | some g => (if inj then s1 else noteGroup s1 st g, .corrected)
        | none => (s1, .corrected)

/-- The 64 bytes a read delivers (R325, R331). -/
def cwData (s : State) (pa : Nat) (r : CwResult) (err : CwErr) : List MByte :=
  let bs := sgetRun 0 s.mem.sm pa 64
  match r with
  | .escaped => markAll false ((List.range 64).map (Config.escapedByte (err.getD [])))
  | .uncorrectable => markAll true bs
  | _ => markAll false bs

/-! ## Draining writes (R329, R330, R332) -/

/-- Whether a posted write covers its whole codeword. -/
def wholeCw (p : Posted) : Bool := p.pa % 64 == 0 && p.data.length == 64

/-- A posted write reaches the DRAM; a narrow one to a valid codeword is merged after a read. -/
def drainWrite (s : State) (err : CwErr) : State :=
  match s.prt.writes with
  | [] => s
  | p :: r =>
    let s1 := { s with prt := { s.prt with writes := r } }
    let base := p.pa / 64 * 64
    let s2 :=
      if !wholeCw p && sget false s1.mem.smValid (base / 64) then
        let r := readCw s1 base 1 err false
        if r.2 = .escaped then smWrite r.1 base (cwData r.1 base .escaped err) else r.1
      else s1
    noteStaging (landWrite s2 p)

def execWriteDrain (err : CwErr) (s : State) : Host.Outcome State Fault Refusal := .next (drainWrite s err)

/-! ## The Patrol (R334, R335, R348) -/

/-- Codewords of page data in a stack (R319). -/
def lapLength : Nat := 322109440

/-- The PA of the `n`-th codeword of a stack, in ascending PA. -/
def patrolPa (st n : Nat) : Nat := n / 4 * 512 + st * 256 + n % 4 * 64

/-- The errors PTL_INJ puts on the read path. -/
def injectedErr (mask : BitVec 10) : List (BitVec 16) := (List.range 40).map fun i => if bitOf mask.toNat (i / 4) then 0xFFFF else 0

/-- Join errors met with errors injected. -/
def joinErr (err : CwErr) (inj : List (BitVec 16)) : CwErr :=
  err.map fun e => (List.range 40).map fun i => e.getD i 0 ^^^ inj.getD i 0

/-- Whether a stack is out of self-refresh (R336, R340). -/
def stacksAwake (s : State) : Bool := decide (s.pwr.st.toNat < 2)

/-- The Patrol steps on; at the end of a lap it reports the lap's length in epochs. -/
def patrolStep (s : State) (st : Nat) : State :=
  let e := epochOf s
  modStack s st fun k =>
    if k.pos + 1 < lapLength then { k with pos := k.pos + 1 }
    else { k with pos := 0, lapLast := BitVec.ofNat 16 (min 0xFFFF (e - k.lapEpoch)), lapEpoch := e }

/-- The majority of a valid bit's three copies, and whether one disagrees. -/
def majority3 (c : BitVec 3) : Bool := decide (2 ≤ (setBits c.toNat 3).length)

/-- One visit of the Patrol. -/
def patrol (s : State) (st : Nat) (err : CwErr) (copies : BitVec 3) : State :=
  if !s.ptl.inservice || !stacksAwake s || s.ptl.rate == 0 then s
  else
    let pa := patrolPa st (getStack s st).pos
    let s1 := if copies = 0 ∨ copies = 7 then s else countCorrected s st
    let inj := s1.ptl.injArm && s1.ptl.injStack.val == st
    let s2 := if majority3 copies then
        let s2 := if inj then { s1 with ptl := { s1.ptl with injArm := false } } else s1
        (readCw s2 pa 2 (if inj then joinErr err (injectedErr s1.ptl.injMask) else err) inj).1
      else s1
    patrolStep s2 st

def execPatrolVisit (stack : Fin 2) (err : CwErr) (validCopies : BitVec 3) (s : State) : Host.Outcome State Fault Refusal :=
  .next (patrol s stack err validCopies)

/-- The leak (R336). -/
def leak (s : State) (st : Nat) : State := if stacksAwake s then modStack s st fun k => { k with level := k.level - 1 } else s

def execBucketLeak (stack : Fin 2) (s : State) : Host.Outcome State Fault Refusal := .next (leak s stack)

/-- The PHY reports a die group lost (R324). -/
def execPhyGroupLost (stack : Fin 2) (group : Fin 10) (s : State) : Host.Outcome State Fault Refusal := .next (markGroup s stack group)

/-! ## Start-up (R338, R339) -/

/-- Both controllers bring their stacks into service: valid bits clear, the self-test's result stands in PTL_STAT. -/
def bringup (s : State) (fail0 fail1 : Bool) : State :=
  if inReset s || s.ptl.stDone then s
  else
    let s1 := modStack (modStack (smClear s) 0 fun k => { k with stFail := fail0, lapEpoch := epochOf s }) 1
      fun k => { k with stFail := fail1, lapEpoch := epochOf s }
    { s1 with ptl := { s1.ptl with stDone := true, inservice := !fail0 && !fail1 } }

def execStackBringup (fail0 fail1 : Bool) (s : State) : Host.Outcome State Fault Refusal := .next (bringup s fail0 fail1)

end Sys2Proof.Machine
end

