-- ==== Sys2Proof/Machine/Fetch.lean ====
section
/-! DEFINITION. What a fetch from stacked memory carries, and how its bytes land in a Waystation (R250, R252, R299, R310). -/

namespace Sys2Proof.Machine

/-! ## Descriptors (R307) -/

/-- Bytes of a move. -/
def moveBytes (d : PorterDesc) : Nat := d.len * d.rows

/-- The region of a packed descriptor; a protected region is never packed (R253). -/
def descRegion (s : State) (e : Nat) (d : PorterDesc) : Option Region :=
  if d.packed then (ownRegion s e d.region).filter fun r => !r.prot else none

/-- Packing blocks a packed move names. -/
def descBlocks (r : Region) (d : PorterDesc) : Nat := moveBytes d / rawBytes r.fmt

/-! ## The bytes of a fetch (R250, R252) -/

/-- Bytes of a block's header and slot. -/
def blockReserved (r : Region) : Nat := 8 + slotBytes r.fmt r.slot

/-- Whether block `j` of a region is held in overflow form, as its slot header says (R241). -/
def headerOvf (s : State) (e : Nat) (r : Region) (j : Nat) : Bool :=
  bitOf ((plainOf (engRead s e (r.base + hdrOff j) 8)).getD 2 0).toNat 0

/-- Where the overflow entry of block `j` lies, as its PTR says (R241). -/
def entryAt (s : State) (e : Nat) (r : Region) (j : Nat) : Nat :=
  r.base + ovfOff r + leNat (((plainOf (engRead s e (r.base + hdrOff j) 8)).drop 4).take 4) * 32

/-- The blocks of a packed fetch that are held in overflow form, in block order. -/
def ovfBlocks (s : State) (e : Nat) (r : Region) (d : PorterDesc) : List Nat :=
  ((List.range (descBlocks r d)).map (d.blk + ·)).filter (headerOvf s e r)

/-- What a fetch carries, in the order of its bytes: offsets of the reservation with their bytes. Overflow entries follow the blocks (R252). -/
def fetchParts (s : State) (e : Nat) (d : PorterDesc) : List (Nat × Nat) :=
  match descRegion s e d with
  | some r =>
    ((List.range (descBlocks r d)).flatMap fun i =>
      [(r.base + hdrOff (d.blk + i), 8), (r.base + bodyOff r (d.blk + i), slotBytes r.fmt r.slot)]) ++
      (ovfBlocks s e r d).map fun j => (entryAt s e r j, ovfEntry r)
  | none => (List.range d.rows).map fun i => (d.src + i * d.sstride, d.len)

/-- The bytes of a fetch that itineraries reserve time and staging space for (R252, R307). -/
def fetchBytes (s : State) (e : Nat) (d : PorterDesc) : Nat :=
  match descRegion s e d with
  | some r => reservedBytes r (descBlocks r d)
  | none => moveBytes d

/-- Every byte that a fetch waits for: its overflow entries too (R252). -/
def fetchTotal (s : State) (e : Nat) (d : PorterDesc) : Nat :=
  match descRegion s e d with
  | some r => reservedBytes r (descBlocks r d) + (ovfBlocks s e r d).length * ovfEntry r
  | none => moveBytes d

/-- Whether a fetch is complete in the Waystation. -/
def readComplete (s : State) (r : PendRead) : Bool := decide (fetchTotal s r.eng r.desc ≤ r.delivered)

/-! ## Reading the codewords (R321–R333) -/

/-- The codewords that bytes `lo … lo + n − 1` of a fetch touch, as offsets of the reservation. -/
def partCws (parts : List (Nat × Nat)) (lo n : Nat) : List Nat :=
  let r := parts.foldl (fun (a : Nat × List Nat) x =>
    let b := max lo a.1
    let e := min (lo + n) (a.1 + x.2)
    (a.1 + x.2, if b < e then a.2 ++ ((List.range ((x.1 + e - a.1 - 1) / 64 - (x.1 + b - a.1) / 64 + 1)).map fun i => (x.1 + b - a.1) / 64 + i) else a.2)) (0, [])
  (r.2.eraseDups).map (· * 64)

/-- Read the codewords of a piece of a fetch, each with the errors it met, given by PA / 64. -/
def readCws (s : State) (e : Nat) (cws : List Nat) (errs : List (Nat × CwErr)) : State :=
  forEach cws s fun s off =>
    match engPa s e off with
    | some pa =>
      if sget false s.mem.smValid (pa / 64) then
        let err := match errs.find? fun x => x.1 == pa / 64 with | some x => x.2 | none => some []
        let r := readCw s pa 0 err false
        if r.2 = .escaped then memMod r.1 fun m => { m with sm := ssetRun 0 m.sm pa (plainOf (cwData r.1 pa .escaped err)) } else r.1
      else s
    | none => s

/-! ## Landing in the Waystation (R250, R299, R310) -/

/-- The bytes of a raw fetch, row after row. -/
def rawFetch (s : State) (e : Nat) (d : PorterDesc) : List MByte :=
  (List.range d.rows).flatMap fun i => engRead s e (d.src + i * d.sstride) d.len

/-- Where bytes of a move from byte `lo` of it on go, row after row. -/
def moveTargets (d : PorterDesc) (lo : Nat) (bs : List MByte) : List (Nat × List MByte) :=
  (List.range d.rows).filterMap fun i =>
    let b := max lo (i * d.len)
    let f := min (lo + bs.length) ((i + 1) * d.len)
    if b < f then some (d.dst + i * d.dstride + (b - i * d.len), (bs.drop (b - lo)).take (f - b)) else none

/-- Write bytes of a move from byte `lo` of it on to their places in the Waystation. -/
def landMove (s : State) (p : Nat) (d : PorterDesc) (lo : Nat) (bs : List MByte) : State :=
  forEach (moveTargets d lo bs) s fun s x => wsWrite s p x.1 x.2

/-- The packed blocks whose header and slot are complete at byte `hi` of a fetch, but were not at byte `lo`. -/
def slotsDone (r : Region) (d : PorterDesc) (lo hi : Nat) : List Nat :=
  (List.range (min (descBlocks r d) (hi / blockReserved r))).drop (lo / blockReserved r)

/-- The blocks in overflow form whose entry is complete at byte `hi` of a fetch, but was not at byte `lo`; as indices within the region. -/
def entriesDone (s : State) (e : Nat) (r : Region) (d : PorterDesc) (lo hi : Nat) : List Nat :=
  let base := reservedBytes r (descBlocks r d)
  ((ovfBlocks s e r d).take ((hi - base) / ovfEntry r)).drop ((lo - base) / ovfEntry r)

/-- Write the frames of packed blocks as bytes `lo … hi − 1` of a fetch arrive: the slot, with zeros up to the raw size (log 124), and the rest
of a block in overflow form when its entry arrives; and the strips of the tiles whose headers arrive. -/
def landPacked (s : State) (p e : Nat) (d : PorterDesc) (r : Region) (lo hi : Nat) : State :=
  let n := rawBytes r.fmt
  let sl := slotBytes r.fmt r.slot
  let new := slotsDone r d lo hi
  let s1 := forEach new s fun s i => landMove s p d (i * n) (engRead s e (r.base + bodyOff r (d.blk + i)) sl ++ List.replicate (n - sl) (0, false))
  let s2 := forEach (entriesDone s e r d lo hi) s1 fun s j => landMove s p d ((j - d.blk) * n + sl) (engRead s e (entryAt s e r j) (n - sl))
  if !d.strip then s2
  else
    let k := tileBlocks r.fmt
    forEach (new.map (· / k)).eraseDups s2 fun s t =>
      let hs := (List.range (min k (descBlocks r d - t * k))).map fun i => engRead s e (r.base + hdrOff (d.blk + t * k + i)) 8
      wsWrite s p (d.stripAddr + 128 * t) (packStrip (regionTable s e r) hs)

/-- The DBF8 scale strips of a fetch's tiles (R299). -/
def landStrips (s : State) (p e : Nat) (d : PorterDesc) : State :=
  if d.strip && !d.packed then
    forEach (List.range (cdiv (moveBytes d) 4096)) s fun s j => wsWrite s p (d.stripAddr + 128 * j) (engRead s e (d.sstrip + 128 * j) 128)
  else s

/-- `n` bytes of a fetch land in the Waystation; escaped errors reach them, and the DRAM keeps its contents. -/
def landFetched (s : State) (p : Nat) (r : PendRead) (n : Nat) (errs : List (Nat × CwErr)) : State :=
  let s1 := readCws s r.eng (partCws (fetchParts s r.eng r.desc) r.delivered n) errs
  let s2 := match descRegion s r.eng r.desc with
    | some g => landPacked s1 p r.eng r.desc g r.delivered (r.delivered + n)
    | none => landMove s1 p r.desc r.delivered (((rawFetch s1 r.eng r.desc).drop r.delivered).take n)
  let s3 := if fetchTotal s r.eng r.desc ≤ r.delivered + n then landStrips s2 p r.eng r.desc else s2
  memMod s3 fun m => { m with sm := s.mem.sm }

/-- Change a read of a core. -/
def modRead (s : State) (p id : Nat) (f : PendRead → PendRead) : State :=
  modCore s p fun c => { c with reads := c.reads.map fun r => if r.id = id then f r else r }

/-- Forget a read of a core. -/
def dropRead (s : State) (p id : Nat) : State := modCore s p fun c => { c with reads := c.reads.filter fun r => r.id != id }

/-- Bytes that reached the stop two beats ago are in the Waystation (R310). A fetch that is complete and judged is over. -/
def landArrival (s : State) (p id n : Nat) (errs : List (Nat × CwErr)) : State :=
  match (getCore s p).reads.find? fun r => r.id == id with
  | none => s
  | some r =>
    let s1 := landFetched s p r n errs
    let r1 := { r with delivered := r.delivered + n }
    if r.sampled && readComplete s1 r1 then dropRead s1 p id else modRead s1 p id fun r => { r with delivered := r.delivered + n }

end Sys2Proof.Machine
end

