-- ==== Sys2Proof/Machine/Attention.lean ====
section
/-! DEFINITION. The arithmetic of attention against the KV cache, with its cheaper paths (R219–R223): blocks, summaries and online softmax. -/

namespace Sys2Proof.Machine

/-! ## FP4 summaries (R222, R313) -/

/-- The value of an FP4 element under scale byte `e`. -/
def fp4Value (e x : Nat) : FVal :=
  if e = 0xFF then .nan
  else
    let ex := bitsOf x 1 2
    let m : Nat := if ex = 0 then bitsOf x 0 1 else (2 + bitsOf x 0 1) * 2 ^ (ex - 1)
    FVal.dyadic (bitOf x 3) m ((e : Int) - 128)

/-- Element `i` of position `p` of a summary half whose nibbles start at `base` and scales at `sbase`, converted to the
cache format by R189. -/
def summaryElem (fmt : BitVec 4) (d : Nat) (bs : List MByte) (base sbase p i : Nat) : MElem :=
  let b := bs.getD (base + (p * d + i) / 2) (0, false)
  let e := bs.getD (sbase + p * (d / 32) + i / 32) (0, false)
  (readElem fmt (convTo fmt (fp4Value e.1.toNat (bitsOf b.1.toNat (4 * (i % 2)) 4))).1, b.2 || e.2)

/-! ## Blocks -/

/-- A KV block as the leg takes it: K and V rows, and how many positions score. -/
structure KvBlock where
  k : List MElem
  v : List MElem
  valid : Nat
  exp : List Expanded
  deriving DecidableEq, Repr

/-- Bytes of a raw KV block: 64 positions of K, then of V. -/
def kvBytes (d : AttnDesc) : Nat := 128 * d.d * (fmtBits d.fmt / 8)

/-- The frame of block `j` in the ring. -/
def kvFrame (d : AttnDesc) (j : Nat) : Nat := d.kvAddr.toNat + kvBytes d * (j % d.ring)

/-- Split the elements of a block. -/
def splitKv (d : AttnDesc) (xs : List MElem) (valid : Nat) (exp : List Expanded) : KvBlock :=
  { k := xs.take (64 * d.d), v := xs.drop (64 * d.d), valid := valid, exp := exp }

/-- A resident block from its frame. -/
def residentBlock (s : State) (p e : Nat) (d : AttnDesc) (j : Nat) : KvBlock :=
  match d.pack.bind fun k => (ownRegion s e k.region).map fun r => (k, r) with
  | some (k, r) =>
    let n := d.d / 2
    let xs := expandRun s p r (kvFrame d j) (d.stripAddr.toNat + 128 * cdiv n (tileBlocks r.fmt) * (j % d.ring)) (k.blk + j * n) n
    splitKv d (plainElems r.fmt (xs.flatMap Expanded.bytes)) 64 xs
  | none => splitKv d (plainElems d.fmt (wsRead s p (kvFrame d j) (kvBytes d))) 64 []

/-- The newest block, which the Waystation holds raw. -/
def newestBlock (s : State) (p : Nat) (d : AttnDesc) : KvBlock :=
  splitKv d (plainElems d.fmt (wsRead s p d.newAddr.toNat (kvBytes d))) d.last []

/-- A block from its summary slot (R313). -/
def summaryBlock (s : State) (p : Nat) (d : AttnDesc) (j : Nat) : KvBlock :=
  let n := d.d
  let bs := wsRead s p (d.sumAddr.toNat + 68 * n * (j % d.sumb)) (68 * n)
  let half := fun base sbase => (List.range 64).flatMap fun q => (List.range n).map (summaryElem d.fmt n bs base sbase q)
  { k := half 0 (32 * n), v := half (34 * n) (66 * n), valid := 64, exp := [] }

/-- Where block `j` comes from (R221). -/
inductive KvFrom where
  | resident
  | summary
  | skipped
  deriving DecidableEq, Repr

/-- Whether a fetch of a KV frame for a circuit was late: its deadline passed before it was complete, or it is not complete now (R221, R284). -/
def kvIsLate (s : State) (p e circ frame : Nat) : Bool :=
  (getCore s p).kvLate.contains (e, circ, frame) ||
    (getCore s p).reads.any fun r => r.eng.val == e && r.circuit == circ && r.desc.dst == frame && r.late == 1 && !r.sampled && !readComplete s r

/-- The source of block `j` at its deadline. -/
def kvFrom (s : State) (p : Nat) (ctx : LegCtx) (d : AttnDesc) (j : Nat) : KvFrom :=
  if !kvIsLate s p ctx.eng.val ctx.circuit (kvFrame d j) then .resident
  else if d.nblk ≤ j + 1 + d.sumb then .summary
  else .skipped

/-- The block the leg uses, none where it skips it, and whether it is approximated. -/
def takeBlock (s : State) (p : Nat) (ctx : LegCtx) (d : AttnDesc) (j : Nat) : Option KvBlock × KvFrom :=
  if j + 1 = d.nblk then (some (newestBlock s p d), .resident)
  else match kvFrom s p ctx d j with
    | .resident => (some (residentBlock s p ctx.eng d j), .resident)
    | .summary => (some (summaryBlock s p d j), .summary)
    | .skipped => (none, .skipped)

/-! ## Online softmax (R219) -/

def rowsOf (d : Nat) (xs : List MElem) (i : Nat) : List MElem := (xs.drop (d * i)).take d

/-- The scores of the positions that score, with accumulator saturations (log 122). -/
def scores (d : AttnDesc) (q : List MElem) (b : KvBlock) : List (Word × Nat) :=
  (List.range b.valid).map fun p =>
    let r := dotFp true ((q.map fun x => readOperand d.fmt x.1).zip ((rowsOf d.d b.k p).map fun x => readOperand d.fmt x.1))
    let y := fmul (readFactor d.sigma) r.1
    (y.1, r.2 + b2n y.2)

/-- The format of P (R219). -/
def pFormat (fmt : BitVec 4) : BitVec 4 := if is16 fmt then 1 else 3

/-- Column `i` of V over the positions that score. -/
def vColumn (d : Nat) (b : KvBlock) (i : Nat) : List MElem := (List.range b.valid).map fun p => b.v.getD (d * p + i) (.fin false 0 1, false)

/-- A weight as the engine reads it after conversion to P's format. -/
def pElem (f : BitVec 4) (e : Word) : FVal := readOperand f (readElem f (convTo f (fp e)).1)

/-- One block's update of a row, and the saturations of its accumulators. -/
def attnStep (d : AttnDesc) (q : List MElem) (b : KvBlock) (r : RowState) : RowState × Nat :=
  let sc := scores d q b
  let top := foldPick vecMaximum ((match r.m with | some m => [m] | none => []) ++ sc.map Prod.fst)
  let es := sc.map fun x => (vexp (fsub x.1 top).1).1
  let a := match r.m with | some m => (vexp (fsub m top).1).1 | none => 0
  let ps := es.map fun e => pElem (pFormat d.fmt) e
  let pv := (List.range d.d).map fun i => dotFp true (ps.zip ((vColumn d.d b i).map fun x => readOperand d.fmt x.1))
  ({ m := some top
     l := (fadd (fmul r.l a).1 (reduceSum es).1).1
     o := (r.o.zip pv).map fun x => (fadd (fmul x.1 a).1 x.2.1).1 },
   (sc.map Prod.snd).sum + (pv.map Prod.snd).sum)

/-- Infinite elements among those an operand port reads (R209). -/
def infElems (l : List MElem) : Nat := (l.filter fun x => isInf x.1).length

/-- The rows of Q as the port reads them. -/
def qRows (s : State) (p : Nat) (d : AttnDesc) : List MElem := plainElems d.fmt (wsRead s p d.qAddr.toNat (d.g * d.d * (fmtBits d.fmt / 8)))

/-- A leg before its first block. -/
def attnStart (d : AttnDesc) : AttnRun :=
  { rows := List.replicate d.g { m := none, l := 0, o := List.replicate d.d 0 }, vMarks := List.replicate d.d false }

/-- A block that the leg uses (R219, R223). That infinite elements count once for every block that reads them, and saturations of the scale multiply
in SAT of COR_ME_CNT, is the model's choice (R209, log 122). -/
def useBlock (s : State) (p : Nat) (d : AttnDesc) (run : AttnRun) (b : KvBlock) : AttnRun :=
  let qs := qRows s p d
  let rs := run.rows.zipIdx.map fun r => attnStep d (rowsOf d.d qs r.2) b r.1
  { rows := rs.map Prod.fst
    kMark := run.kMark || anyPoison (b.k.take (d.d * b.valid))
    vMarks := run.vMarks.zipIdx.map fun m => m.1 || anyPoison (vColumn d.d b m.2)
    tally := { run.tally with meSat := run.tally.meSat + infElems qs + infElems b.k + infElems b.v + (rs.map Prod.snd).sum
                              xOvf := run.tally.xOvf + (b.exp.filter Expanded.ovf).length
                              xCrc := run.tally.xCrc + (b.exp.filter Expanded.crcFail).length } }

/-- The results o / l in the output format, and all that the leg counted. -/
def attnEnd (s : State) (p : Nat) (d : AttnDesc) (run : AttnRun) : List MByte × Tally :=
  let qs := qRows s p d
  let es := run.rows.zipIdx.flatMap fun r =>
    let mark := run.kMark || anyPoison (rowsOf d.d qs r.2)
    let q := vrecip r.1.l
    (r.1.o.zip run.vMarks).map fun x =>
      let y := fmul x.1 q.1
      let v := convTo d.out (fp y.1)
      (markAll (mark || x.2) (leBytes (fmtBits d.out / 8) v.1), q.2 || y.2 || v.2, (fp y.1).isNan)
  let conv := (es.filter fun o => o.2.1).length
  (es.flatMap Prod.fst, { run.tally with cvtSat := conv, clip := decide (0 < conv), meNan := (es.filter fun o => o.2.2).length })

/-! ## Limits and times (R219, R220) -/

def attnOk (d : AttnDesc) : Bool :=
  (d.fmt.toNat == 3 || d.fmt.toNat == 4 || d.fmt.toNat == 1) && (d.d == 64 || d.d == 128) && decide (1 ≤ d.g) &&
    decide (d.g ≤ if is16 d.fmt then 32 else 64) && decide (1 ≤ d.nblk) && decide (d.nblk ≤ 1024) && decide (1 ≤ d.last) &&
    decide (d.last ≤ 64) && (ffmtOf d.out).isSome && (decide (1 ≤ d.ring) || d.nblk == 1) && decide (d.sumb ≤ 128)

/-- Cycles of one interval, and of the leg (R220). -/
def attnInterval (d : AttnDesc) : Nat := max (if is16 d.fmt then 4 * d.d else 2 * d.d) (5 * d.g + 28 + d.g * d.d / 64)
def attnLatency (d : AttnDesc) : Nat :=
  attnInterval d * (d.nblk + 1) + 22 + d.g * d.d / 64 + cdiv (d.g * d.d * (fmtBits d.out / 8)) 256

/-- The core cycle of the deadline of block `j` of a leg that issued in cycle `cyc` (R221): the start of the beat that ends before interval
`j` begins. -/
def attnDeadline (d : AttnDesc) (cyc j : Nat) : Nat := 8 * ((cyc + attnInterval d * j) / 8 - 1)

def attnRanges (d : AttnDesc) : List (Nat × Nat × Bool) :=
  [ (d.qAddr.toNat, d.g * d.d * (fmtBits d.fmt / 8), false), (d.newAddr.toNat, kvBytes d, false),
    (d.kvAddr.toNat, if d.nblk = 1 then 0 else kvBytes d * min d.ring (d.nblk - 1), false),
    (d.sumAddr.toNat, 68 * d.d * d.sumb, false), (d.oAddr.toNat, d.g * d.d * (fmtBits d.out / 8), true) ]

end Sys2Proof.Machine
end

