-- ==== Sys2Proof/Machine/Banks.lean ====
section
/-! DEFINITION. Waystation banks: which bank each leg's accesses meet in which core cycles (R296, R298). -/

namespace Sys2Proof.Machine

/-! ## Streams (R298) -/

/-- The pieces of `w` bytes that a range touches, page by page: page, first piece counted from the range's own first, and number. -/
def pageRuns (w a n : Nat) : List (Nat × Nat × Nat) :=
  if n = 0 then []
  else (List.range ((a + n - 1) / 4096 - a / 4096 + 1)).map fun i =>
    let q := a / 4096 + i
    let lo := max (a / w) (4096 / w * q)
    let hi := min ((a + n - 1) / w) (4096 / w * (q + 1) - 1)
    (q, lo - a / w, hi + 1 - lo)

/-- Pieces of 128 bytes of a range. -/
def pieceCount (a n : Nat) : Nat := if n = 0 then 0 else (a + n - 1) / 128 - a / 128 + 1

/-- How an accessor touches its range (R298): one piece of `w` bytes a cycle; four pieces of 128 bytes a beat, from cycle `o` of each beat on; pieces
spread over `n` cycles (log 123); or any piece, in any of `n` beats. -/
inductive AccKind where
  | stream (w : Nat)
  | lane (o : Nat)
  | spread (n : Nat)
  | window (n : Nat)
  deriving DecidableEq, Repr

/-- An accessor's use of a range of a Waystation: it begins in cycle `start`, or for lanes and windows in beat `start`. -/
structure Acc where
  addr : Nat
  n : Nat
  write : Bool
  start : Nat
  kind : AccKind
  deriving DecidableEq, Repr

/-- The cycle of piece `i` of `k` spread evenly over `w` cycles, where they are more than that (log 123). -/
def spreadAt (k w i : Nat) : Nat := if k ≤ w then i else i * w / k

/-- The accesses of an accessor to banks. -/
def accBanks (x : Acc) : List BankUse :=
  match x.kind with
  | .stream w => (pageRuns w x.addr x.n).map fun r => { bank := r.1 % 32, start := x.start + r.2.1, len := r.2.2 }
  | .lane o => (pageRuns 128 x.addr x.n).map fun r =>
      { bank := r.1 % 32, start := 8 * (x.start + r.2.1 / 4) + o, len := 4, reps := (r.2.1 + r.2.2 - 1) / 4 - r.2.1 / 4 + 1 }
  | .spread w =>
    let f := spreadAt (pieceCount x.addr x.n) w
    (pageRuns 128 x.addr x.n).map fun r => { bank := r.1 % 32, start := x.start + f r.2.1, len := f (r.2.1 + r.2.2 - 1) + 1 - f r.2.1 }
  | .window k => (((pageRuns 128 x.addr x.n).map fun r => r.1 % 32).eraseDups).map fun q => { bank := q, start := 8 * x.start + 4, len := 4, reps := k }

/-- The pieces of an accessor's range with the beats it touches them in: beat, first byte and bytes. -/
def accPieces (x : Acc) : List (Nat × Nat × Nat) :=
  let cut (w : Nat) (at_ : Nat → Nat) : List (Nat × Nat × Nat) :=
    (List.range (if x.n = 0 then 0 else (x.addr + x.n - 1) / w - x.addr / w + 1)).map fun i =>
      let lo := max x.addr ((x.addr / w + i) * w)
      (at_ i, lo, min (x.addr + x.n) ((x.addr / w + i + 1) * w) - lo)
  match x.kind with
  | .stream w => cut w fun i => (x.start + i) / 8
  | .lane _ => cut 128 fun i => x.start + i / 4
  | .spread w => cut 128 fun i => (x.start + spreadAt (pieceCount x.addr x.n) w i) / 8
  | .window k => (List.range k).map fun i => (x.start + i, x.addr, x.n)

/-- The rows of a move, each an accessor that follows the one before it by its row's bytes, `per` to a cycle or beat. -/
def rowsAcc (kind : AccKind) (base stride len rows c per : Nat) (write : Bool) : List Acc :=
  (List.range rows).map fun i => { addr := base + i * stride, n := len, write := write, start := c + i * len / per, kind := kind }

/-- Whether two accesses ever meet in one bank. -/
def bankMeets (a b : BankUse) : Bool :=
  a.bank == b.bank && (List.range a.reps).any fun i => (List.range b.reps).any fun j =>
    decide (a.start + 8 * i < b.start + 8 * j + b.len) && decide (b.start + 8 * j < a.start + 8 * i + a.len)

/-- Whether accesses meet one another. -/
def banksClash : List BankUse → Bool
  | [] => false
  | u :: r => r.any (bankMeets u) || banksClash r

/-! ## The accessors (R211, R218, R220, R298, R300, R303, R310) -/

/-- A stream of pieces of 64 or 128 bytes. -/
def readAcc (w a n c : Nat) : Acc := { addr := a, n := n, write := false, start := c, kind := .stream w }
def writeAcc (a n c : Nat) : Acc := { addr := a, n := n, write := true, start := c, kind := .stream 128 }

/-- Two writeback streams, one for each half of a tile. -/
def writebackAcc (a n c : Nat) : List Acc := [writeAcc a (n / 2) c, writeAcc (a + n / 2) (n - n / 2) c]

/-- The accesses of accessors; a second writeback stream that lies in the bank of the first makes one access of 256 bytes with it (log 123). -/
def accUse (l : List Acc) : List BankUse := l.flatMap accBanks
def writebackUse (l : List Acc) : List BankUse :=
  match l with
  | [x, y] => accBanks x ++ (accBanks y).filter fun u => !(accBanks x).any (bankMeets u)
  | l => accUse l

/-- Two accesses of one stream to a bank as one, where they share a piece or follow one another; none where they stand apart. -/
def joinUse (a b : BankUse) : Option BankUse :=
  if a.bank ≠ b.bank ∨ b.start < a.start then none
  else if a.reps = 1 ∧ b.reps = 1 ∧ b.start ≤ a.start + a.len then some { a with len := max a.len (b.start + b.len - a.start) }
  else if a.len = b.len ∧ (b.start - a.start) % 8 = 0 ∧ b.start ≤ a.start + 8 * a.reps then some { a with reps := max a.reps ((b.start - a.start) / 8 + b.reps) }
  else none

def joinInto (u : BankUse) : List BankUse → List BankUse
  | [] => [u]
  | v :: r => match joinUse v u with | some w => w :: r | none => v :: joinInto u r

/-- The accesses of one stream that moves rows, which do not meet one another: rows shorter than a piece, or that do not begin with one, share the
cycles of the stream's rate (log 123). -/
def streamUse (l : List Acc) : List BankUse := (accUse l).foldl (fun us u => joinInto u us) []

/-- The operand reads of a matrix leg that issues in cycle `c`: both ports, and the INT8 strips. -/
def matrixReads (d : MatrixDesc) (c : Nat) : List Acc :=
  (List.range d.t).flatMap fun t =>
    let c0 := c + 64 * d.kt * t
    let b := d.bAddr.toNat + colStride d * t
    ((List.range d.kt).flatMap fun j =>
      [readAcc 64 (d.aAddr.toNat + 4096 * j) 4096 (c0 + 64 * j),
       if d.cast then readAcc 128 (b + 8192 * j) 8192 (c0 + 64 * j) else readAcc 64 (b + 4096 * j) 4096 (c0 + 64 * j)]) ++
    (if d.fmtA.toNat = 5 then
      [readAcc 64 (d.aAddr.toNat + 4096 * d.kt) 256 (c0 + 64 * d.kt + 10),
       readAcc 64 (b + (if d.cast then 8192 * d.kt else 4096 * d.kt)) 256 (c0 + 64 * d.kt + 10)]
     else [])

/-- The writeback of each output tile of a matrix leg. -/
def matrixWrites (d : MatrixDesc) (c : Nat) : List (List Acc) :=
  let n := tileSide d.fmtA
  let w := n * n * (fmtBits d.out / 8)
  (List.range d.t).map fun t =>
    writebackAcc (d.cAddr.toNat + t * w) w (c + 64 * d.kt * t + tileLatency d - writebackCycles n (fmtBits d.out))

def matrixUse (d : MatrixDesc) (c : Nat) : List BankUse := accUse (matrixReads d c) ++ (matrixWrites d c).flatMap writebackUse

/-- The reads of an attention leg that issues in cycle `c`, with every older block resident. -/
def attnReads (d : AttnDesc) (c : Nat) : List Acc :=
  let half := kvBytes d / 2
  let q := d.g * d.d * (fmtBits d.fmt / 8)
  let frame (j : Nat) : Nat := if j + 1 = d.nblk then d.newAddr.toNat else kvFrame d j
  (List.range (d.nblk + 1)).flatMap fun j =>
    let c0 := c + attnInterval d * j
    (if j < d.nblk then [readAcc 64 (frame j) half c0, readAcc 64 d.qAddr.toNat q c0] else []) ++
      (if j = 0 then [] else [readAcc 64 (frame (j - 1) + half) half (c0 + half / 64)])

def attnWrites (d : AttnDesc) (c : Nat) : List Acc :=
  let o := d.g * d.d * (fmtBits d.out / 8)
  writebackAcc d.oAddr.toNat o (c + attnLatency d - cdiv o 256)

def attnUse (d : AttnDesc) (c : Nat) : List BankUse := accUse (attnReads d c) ++ writebackUse (attnWrites d c)

/-- A vector leg that issues in cycle `c`: its operands stream from its first cycle on, its results up to its last (log 123). -/
def vecAcc (vop : Nat) (d : VecDesc) (c : Nat) : List Acc :=
  let n := (vopCycles vop d.fmtIn d.n).getD 0
  let w := n - n / 4
  (vecRanges vop d).map fun r =>
    { addr := r.1, n := r.2.1, write := r.2.2, start := if r.2.2 then c + n - min w (pieceCount r.1 r.2.1) else c, kind := .spread w }

def vecUse (vop : Nat) (d : VecDesc) (c : Nat) : List BankUse := accUse (vecAcc vop d c)

/-- A reduction that begins in beat `b`: IADDR is read, then the result is written, from its second beat on (log 123). -/
def reduceAcc (l : ReduceLeg) (b : Nat) : List Acc :=
  let n := 4 * l.nout.toNat
  let i := l.iaddr.toNat * 64
  (if l.acc then [readAcc 128 i n (8 * (b + 1))] else []) ++
    (if l.dest then [] else [writeAcc (l.oaddr.toNat * 64) (l.nout.toNat * (fmtBits l.ofmt / 8)) (8 * (b + 1) + (if l.acc then pieceCount i n else 0))])

def reduceUse (l : ReduceLeg) (b : Nat) : List BankUse := accUse (reduceAcc l b)

/-- A drain of `n` bytes whose outputs are available at beat `b`. -/
def drainAcc (a n b : Nat) : List Acc := [writeAcc a n (8 * (b + 1))]
def drainUse (a n b : Nat) : List BankUse := accUse (drainAcc a n b)

/-- The streams of a PORTER leg that issues in cycle `c`: its reads and its writes of the Waystation. A read lands in any beat of its return window,
whose last is `x` (R310). -/
def porterStreams (d : PorterDesc) (c x : Nat) : List (List Acc) :=
  let src := rowsAcc (.stream 128) d.src d.sstride d.len d.rows (c + 8) 128 false
  let strips := cdiv (d.len * d.rows) 4096
  match d.op.toNat with
  | 1 => [src]
  | 2 => [src, rowsAcc (.stream 128) d.dst d.dstride d.len d.rows (c + 8) 128 true]
  | 5 =>
    let b := c / 8 + 33
    [(List.range d.rows).map (fun i => { addr := d.dst + i * d.dstride, n := d.len, write := true, start := b, kind := .window (x + 2 - b) }) ++
      (if d.strip then [{ addr := d.stripAddr, n := 128 * strips, write := true, start := b, kind := .window (x + 2 - b) }] else [])]
  | 6 => [src ++ (if d.strip then [readAcc 128 d.stripAddr (128 * strips) (c + 8 + pieceCount 0 (d.len * d.rows))] else [])]
  | 7 => [src, if d.summary then [writeAcc (d.sumAddr + 68 * d.d * (d.blk % d.sumb)) (68 * d.d) (c + 8)] else []]
  | _ => []

def porterAcc (d : PorterDesc) (c x : Nat) : List Acc := (porterStreams d c x).flatten
def porterUse (d : PorterDesc) (c x : Nat) : List BankUse := (porterStreams d c x).flatMap streamUse

/-- The stop reader of a convoy whose first slot beat is `b`. -/
def convoyAcc (d : PorterDesc) (b : Nat) : List Acc := rowsAcc (.lane 0) d.src d.sstride d.len d.rows b 512 false
def convoyUse (d : PorterDesc) (b : Nat) : List BankUse := streamUse (convoyAcc d b)

/-- The landing of a Roads convoy whose first slot beat is `b`: `lag` is 5 on one segment, 11 across the junction (R303). -/
def landingAcc (d : PorterDesc) (b lag : Nat) : List Acc := rowsAcc (.lane 4) d.dst d.dstride d.len d.rows (b + lag - 1) 512 true
def landingUse (d : PorterDesc) (b lag : Nat) : List BankUse := streamUse (landingAcc d b lag)

/-! ## Busy banks (R282, R298) -/

/-- Whether accesses are free of conflict with one another and with those under way on a core. -/
def banksFree (c : Core) (us : List BankUse) : Bool := !banksClash us && us.all fun u => c.banks.all fun v => !bankMeets u v

/-- A leg's accesses take their cycles; those that are over are forgotten. -/
def takeBanks (s : State) (p : Nat) (us : List BankUse) : State :=
  modCore s p fun c => { c with banks := (c.banks.filter fun v => decide (8 * s.alm.beat.toNat < v.start + 8 * v.reps + v.len)) ++ us }

end Sys2Proof.Machine
end

