-- ==== Sys2Proof/Machine/Time.lean ====
section
/-! DEFINITION. Time: what legs under way bring about when their beats pass, and the beat count itself (R82–R88, R211, R220, R263,
R264, R287, R304, R310, R311, R458). -/

namespace Sys2Proof.Machine

/-! ## Legs under way (R82, R287) -/

/-- The circuit a leg belongs to. -/
def legCirc (s : State) (ctx : LegCtx) : Option Circ := (getEng s ctx.eng).circuits.find? fun x => x.k == ctx.circuit && x.live

/-- The consignment a leg works for. -/
def consOf (s : State) (ctx : LegCtx) : Option (Nat × Nat) := (legCirc s ctx).map fun c => (c.consignor.val, c.qslot.toNat)

/-- An effect of a leg, to come about in core cycle `due`. -/
def launch (s : State) (ctx : LegCtx) (due : Nat) (w : Land) : State :=
  { s with flights := s.flights ++ [{ due := due, core := physOf s ctx.core, ctx := ctx, cons := consOf s ctx, what := w }] }

/-- An effect that follows another of the same leg. -/
def follow (s : State) (f : Flight) (due : Nat) (w : Land) : State := { s with flights := s.flights ++ [{ f with due := due, what := w }] }

/-- Change the consignment that an effect works for, unless it has ended. -/
def flightCons (s : State) (f : Flight) (g : QEntry → QEntry) : State :=
  match f.cons with
  | some (c, q) => modQ s c q fun x => if x.eng = f.ctx.eng ∧ x.st ≠ .ended then g x else x
  | none => s

/-- A unit that does not act reports a schedule fault of the leg's core (R51, R282). -/
def flightFault (s : State) (f : Flight) (cause : Nat) : State := recordFault s f.core cause f.ctx.eng f.ctx.leg

/-- The open and waiting findings on a tile-deck, with a slot of its record or without (R138). -/
def outsideOn (s : State) (dk : Nat) : List Finding :=
  (s.asy.ring ++ s.asy.outside).filter fun x => decide (deckNum (physOf s x.core) x.string x.tile x.deck = dk) && decide (x.st.toNat ≤ 1)

/-- Why a tile drives no row at a strike's first slot beat, if so (R48, R51, R52, R59, R174): the fault cause. -/
def slotFault (t : Tile) (d : Deck) (l : StrikeLeg) (b : Nat) : Option Nat :=
  if switchingAt t b then some 5
  else if activeAt t b ≠ some l.deck ∨ d.reg.fmt = .unused ∨ d.outOfService ∨ deckPartial d then some 6
  else if b < t.workEnd then some 1
  else none

/-- A strike begins on one tile: its planes are driven, counted and checked, and its outputs formed (R64–R79, R124); a sealed deck
drives no row and is reported (R54). -/
def beginTile (f : Flight) (l : StrikeLeg) (b : Nat) (a : State × List TileOuts) (x : Nat × Nat × Bundle) : State × List TileOuts :=
  let s := a.1
  let dk := x.2.1 * 4 + l.deck.val
  let d := sweptDeck s dk
  match slotFault (getTile s x.2.1) d l b with
  | some c => (modTile (flightFault s f c) x.2.1 fun t => { t with strikes := t.strikes.filter fun y => y.1 != b }, a.2)
  | none =>
    let n := awPlanes l.aw
    let sl := deckSealed d
    let ds := strikeDrives d x.2.2 n l.slot.toNat
    let rs := (deckOutputs d).map (strikeOutput d x.2.2 n ds sl (outsideOn s dk) s.free)
    let d1 := if sl then d else ds.zipIdx.foldl (checkPlane (s.free + 4096) d) d
    let s1 := modDeck (modTile s x.2.1 fun t =>
      { t with bankB := t.bankB != decide (n % 2 = 1)
               ovf := satAdd t.ovf (ds.filter Drive.half).length, dense := satAdd t.dense (ds.filter Drive.dense).length
               limit := satAdd t.limit (rs.map fun r => r.2.2).sum }) dk fun _ => d1
    let s2 := modCore { s1 with free := s1.free + 8192 } f.core fun c => { c with cvtSat := satAdd c.cvtSat (rs.filter fun r => r.2.1).length }
    let lg := deckNum f.ctx.core l.string.toNat x.1 l.deck
    let s3 := if sl then logViolation s2 { addr := BitVec.ofNat 32 lg, req := 0, src := 7, write := false, cid := 0x1F } else s2
    (s3, a.2 ++ [{ tile := x.1, key := dk, outs := rs.map Prod.fst }])

/-- Beats from a strike's first slot beat to its outputs (R82, R83): n × S + m + 3. -/
def strikeSpan (s : State) (l : StrikeLeg) (outs : List TileOuts) : Nat :=
  awPlanes l.aw * l.slot.toNat + (outs.map fun o => fmtFloor (getDeck s o.key).reg.fmt).foldl max 1 + 3

/-- The first slot beat of a strike leg. -/
def beginStrike (s : State) (f : Flight) (l : StrikeLeg) (tiles : List (Nat × Nat × Bundle)) : State :=
  let r := tiles.foldl (beginTile f l (f.due / 8)) (s, [])
  if r.2.isEmpty then r.1 else follow r.1 f (f.due + 8 * strikeSpan r.1 l r.2) (.outputs l r.2)

/-- Bytes of an output in a format, with its poison mark. -/
def outBytes (f : BitVec 4) (v : PVal) : List MByte := markAll v.poison (leBytes (fmtBits f / 8) (convTo f (fp v.val)).1)

/-- Convert outputs to a format: saturations set CLIP and count (R191, R192). -/
def convOuts (s : State) (p : Nat) (f : BitVec 4) (outs : List PVal) : State × List PVal :=
  let r := outs.map fun v => ({ v with clip := v.clip || (convTo f (fp v.val)).2 }, (convTo f (fp v.val)).2)
  (modCore s p fun c => { c with cvtSat := satAdd c.cvtSat (r.filter Prod.snd).length }, r.map Prod.fst)

/-- Flags that outputs give a consignment (R88). -/
def flagOuts (outs : List PVal) (q : QEntry) : QEntry := { q with ovf := q.ovf || outs.any PVal.ovf, clip := q.clip || outs.any PVal.clip }

/-- Whether the string bus is idle at a beat (R282). -/
def busIdle (s : State) (p string b : Nat) : Bool := decide (vget 0 (getCore s p).busFree string ≤ b)

/-- A string bus is taken until a beat. -/
def takeBus (s : State) (p string b : Nat) : State := modCore s p fun c => { c with busFree := vmod c.busFree string fun _ => b }

/-- A strike's outputs are available (R81, R83): partials go to the reduction group; converted ones are drained over the string bus, whose
bytes take 2 + ceil(bytes / 1,024) beats (R287, R298, R583). -/
def landOutputs (s : State) (f : Flight) (l : StrikeLeg) (rs : List TileOuts) : State :=
  if l.part then
    let s1 := flightCons s f fun q => { q with ovf := q.ovf || rs.any fun o => o.outs.any PVal.ovf }
    modCore s1 f.core fun c =>
      { c with groups := c.groups ++ rs.map fun o =>
          { rgrp := l.rgrp, level := false, eng := f.ctx.eng, circuit := f.ctx.circuit, string := l.string.toNat, tile := o.tile, deck := o.key,
            twin := (getDeck s o.key).twin, outs := o.outs } }
  else
    let c := convOuts s f.core l.ofmt (rs.flatMap TileOuts.outs)
    let bs := c.2.flatMap (outBytes l.ofmt)
    let use := drainUse (l.oaddr.toNat * 64) bs.length (f.due / 8)
    if !busIdle s f.core l.string.toNat (f.due / 8) || !banksFree (getCore s f.core) use then flightFault s f 1
    else
      let fin := f.due / 8 + 2 + cdiv bs.length 1024
      follow (flightCons (takeBus (takeBanks c.1 f.core use) f.core l.string.toNat fin) f (flagOuts c.2)) f (8 * fin)
        (.write [(f.core, l.oaddr.toNat * 64, bs)] {} [])

/-- A reduction ends (R585): its result goes to OADDR, in the Waystation or in the core's Roads stop buffer, and a string-bus result is also
a partial set of the core stage (log 53). -/
def landReduced (s : State) (f : Flight) (l : ReduceLeg) (string : Nat) (outs : List PVal) : State :=
  let c := convOuts s f.core l.ofmt outs
  let s1 := flightCons c.1 f (flagOuts c.2)
  let s2 := if l.level then s1 else
    modCore s1 f.core fun c =>
      { c with groups := c.groups ++ [{ rgrp := l.rgrp, level := true, eng := f.ctx.eng, circuit := f.ctx.circuit, string := string, tile := 0,
                                        deck := 0, twin := none, outs := outs }] }
  let bs := c.2.flatMap (outBytes l.ofmt)
  if l.dest then stopWrite s2 f.core (l.oaddr.toNat * 64) bs else wsWrite s2 f.core (l.oaddr.toNat * 64) bs

/-! ## Results on the digital path (R197, R207–R223, R257, R296) -/

/-- Whether a PHYSICAL core has no live stop (R22, R305). -/
def stopDeadAt (s : State) (p : Nat) : Bool := (getCore s p).dead

/-- Bytes reach a Waystation: what was known of code tensors that they overwrite is forgotten (R197). Bytes for a dead stop are discarded (R305). -/
def landBytes (from_ : Nat) (s : State) (w : Nat × Nat × List MByte) : State :=
  if w.1 ≠ from_ ∧ stopDeadAt s w.1 then s
  else wsWrite (modCore s w.1 fun c => { c with quant := c.quant.filter fun k => !(decide (w.2.1 ≤ k.1) && decide (k.1 < w.2.1 + w.2.2.length)) })
    w.1 w.2.1 w.2.2

/-- Add what a leg counted to its core's counters (R192, R209, R257). -/
def addTally (k : Tally) (c : Core) : Core :=
  { c with cvtNan := satAdd c.cvtNan k.cvtNan, cvtSat := satAdd c.cvtSat k.cvtSat, meSat := satAdd c.meSat k.meSat
           meNan := satAdd c.meNan k.meNan, xOvf := satAdd c.xOvf k.xOvf, xCrc := satAdd c.xCrc k.xCrc }

/-- The result of a leg is written: its bytes, what it counted, its flags and the code tensors among its results. -/
def landResult (s : State) (f : Flight) (ws : List (Nat × Nat × List MByte)) (k : Tally) (qs : Quants) : State :=
  let s1 := modCore (forEach ws s (landBytes f.core)) f.core (addTally k)
  let s2 := forEach qs s1 fun s q => modCore s (q.1 / wsSize) fun c => { c with quant := sput c.quant (q.1 % wsSize) q.2 }
  flightCons s2 f fun q => { q with clip := q.clip || k.clip, shadow := q.shadow || k.shadow }

/-- Output tile `t` of a matrix leg streams through the array, and the next tile follows (R211). -/
def landTile (s : State) (f : Flight) (d : MatrixDesc) (t : Nat) : State :=
  let r := matrixTile s f.core f.ctx.eng d t
  let s1 := follow s f (f.due + tileLatency d) (.write (r.1.map fun x => (f.core, x.1, x.2)) r.2 [])
  if t + 1 < d.t then follow s1 f (f.due + 64 * d.kt) (.matrix d (t + 1)) else s1

/-- The deadline of block `j` of an attention leg (R221): the block as it stands, its summary, or nothing of it; after the newest block the
results follow (R220, R223). -/
def landBlock (s : State) (f : Flight) (d : AttnDesc) (cyc j : Nat) (run : AttnRun) : State :=
  let b := takeBlock s f.core f.ctx d j
  let run1 := match b.1 with | some x => useBlock s f.core d run x | none => run
  let s1 := match b.2 with
    | .resident => s
    | .summary => modCore s f.core fun c => { c with attSubst := satAdd c.attSubst 1 }
    | .skipped => modCore s f.core fun c => { c with attSkip := satAdd c.attSkip 1 }
  let s2 := if b.2 = .resident then s1 else flightCons s1 f fun q => { q with approx := true, acount := min 0xFFFF (q.acount + 1) }
  if j + 1 < d.nblk then follow s2 f (max f.due (attnDeadline d cyc (j + 1))) (.attend d cyc (j + 1) run1)
  else
    let r := attnEnd s2 f.core d run1
    follow s2 f (cyc + attnLatency d) (.write [(f.core, d.oAddr.toNat, r.1)] r.2 [])

/-! ## Posts and link slots (R304, R311, R407) -/

/-- A region's table has been built (R244). -/
def tableBuilt (s : State) (n : Nat) : State :=
  match sfind s.regions n with
  | some r => { s with regions := sput s.regions n { r with tblValid := true } }
  | none => s

/-- A write is posted (R311): the forms of its blocks stand, and the record of a circuit's end goes to the older replay buffer (R407). -/
def landPost (s : State) (f : Flight) (w : PostRec) : State :=
  let s1 := noteStaging { s with prt := { s.prt with writes := s.prt.writes ++ w.ws } }
  let s2 := match w.table with | some n => tableBuilt s1 n | none => s1
  let s3 := forEach w.blocks s2 fun s b => noteOvf s b.1 b.2.1 b.2.2
  match w.replay with
  | none => s3
  | some b => modEng s3 f.ctx.eng fun g => if g.buf1Newer then { g with buf0 := b, buf1Newer := false } else { g with buf1 := b, buf1Newer := true }

/-- Clear the poison bits of the units that a range covers whole: a convoy writes them in full (R296). -/
def clearUnits (s : State) (phys addr n : Nat) : State :=
  let lo := cdiv (wsKey phys addr) 64
  let hi := (wsKey phys addr + n) / 64
  memMod s fun m => { m with wsPoison := m.wsPoison.filter fun u => decide (u.1 < lo) || decide (hi ≤ u.1) }

/-- The bytes of a link slot land at their place in a payload (R426), unless the stop is dead or the engagement does not hold the place (R305). -/
def landLinkSlot (s : State) (f : Flight) (addr n off : Nat) (bs : List MByte) : State :=
  if stopDeadAt s f.core || !wsOwned s f.core f.ctx.eng addr n then s
  else landBytes f.core (if off = 0 then clearUnits s f.core addr n else s) (f.core, addr + off, bs)

/-- Give an owned frame's payload to a port that is UP (R304, R421). -/
def sendSlot (s : State) (p : Nat) (bs : List MByte) : State :=
  if (getPort s p).st = .up then modPort s p fun x => { x with slotOut := x.slotOut ++ [bs] } else s

/-! ## Effects that come about -/

/-- An effect under way comes about. -/
def landOne (s : State) (f : Flight) : State :=
  match f.what with
  | .strike l tiles => beginStrike s f l tiles
  | .outputs l outs => landOutputs s f l outs
  | .reduced l string outs => landReduced s f l string outs
  | .write ws k qs => landResult s f ws k qs
  | .bundle ts buf b => forEach ts s fun s t => modTile s t fun x => if buf = 0 then { x with buf0 := b } else { x with buf1 := b }
  | .matrix d t => landTile s f d t
  | .attend d cyc j run => landBlock s f d cyc j run
  | .post w => landPost s f w
  | .slot addr n off bs => landLinkSlot s f addr n off bs
  | .send port payload => sendSlot s port payload
  | .arrive id n errs => landArrival s f.core id n errs

/-- The effects that one leads to, itself among them: a bound. -/
def landSteps (w : Land) : Nat :=
  match w with
  | .strike .. => 3
  | .outputs .. => 2
  | .matrix d t => 2 * (d.t - t) + 2
  | .attend d _ j _ => d.nblk - j + 2
  | .reduced .. | .write .. | .bundle .. | .post .. | .slot .. | .send .. | .arrive .. => 1

/-- The earliest of the effects due by core cycle `cc`; of those due together, the one whose leg issued first. -/
def nextDue (cc : Nat) (fs : List Flight) : Option Flight :=
  fs.foldl (fun a f => if cc < f.due then a else match a with | some g => if f.due < g.due then some f else a | none => some f) none

/-- Let the effects due by core cycle `cc` come about, at most `n` of them. -/
def landFuel : Nat → Nat → State → State
  | 0, _, s => s
  | n + 1, cc, s =>
    match nextDue cc s.flights with
    | none => s
    | some f => landFuel n cc (landOne { s with flights := s.flights.erase f } f)

/-- Let every effect due by core cycle `cc` come about. -/
def landDue (s : State) (cc : Nat) : State := landFuel (s.flights.map fun f => landSteps f.what).sum cc s

/-- The effects of legs that a stopped core's Drover issued are abandoned (R86, R230, R315). -/
def dropFlights (s : State) (p : Nat) : State :=
  modCore { s with flights := s.flights.filter fun f => f.core != p } p fun c => { c with banks := [] }

/-! ## The beat (R263, R264) -/

/-- The count becomes `b`: the effects due by then come about. Crossing a multiple of 200 beats takes the counters as they stand there
(R458), and EPOCH_OUT is high for the 4 beats from an epoch boundary (R268). -/
def setBeat (s : State) (b : Beat) : State :=
  let s1 := landDue (if b.toNat / 200 = s.alm.beat.toNat / 200 then s else takeSnap (landDue s (1600 * (b.toNat / 200)))) (8 * b.toNat)
  { s1 with alm := { s1.alm with beat := b, epochOut := s1.alm.epoutEn && decide (b.toNat % epochBeats < 4) } }

/-- Advance the beat count by one (R264): it counts only while the phase-locked loop is locked (R263). -/
def tickBeat (s : State) : State :=
  if s.alm.pllLock then setBeat s (s.alm.beat + 1) else s

/-- Time passes until the count is `b`; no change where it is there or past it. -/
def advanceTo (s : State) (b : Nat) : State :=
  if s.alm.beat.toNat < b then setBeat s (BitVec.ofNat 64 b) else s

end Sys2Proof.Machine
end

