-- ==== Sys2Proof/Machine/Almanac.lean ====
section
/-! DEFINITION. The Almanac: lock, epochs, alignment and its loss, and the reference (R262–R270, R290–R293). -/

namespace Sys2Proof.Machine

def almMod (s : State) (f : Alm → Alm) : State := { s with alm := f s.alm }

/-- The PLL locks once option loading has ended (R262); a device outside a formed Route is its own beat master and is
aligned from the lock on (R291, R429). -/
def pllLocks (s : State) : State :=
  if s.alm.pllLock || inReset s || s.pwr.st == 3 then s
  else
    let m := !s.hzl.formed || s.hzl.root
    almMod s fun a => { a with pllLock := true, refOk := true, master := m, aligned := a.aligned || m, devnum := s.hzl.devnum
                               epochOut := a.epoutEn && decide (a.beat.toNat % epochBeats < 4) }

def execPllLock (s : State) : Host.Outcome State Fault Refusal := .next (pllLocks s)

/-! ## Epochs -/

/-- A port derives the next link key, sets its nonces to 0 and sends REKEY (R423, R447). -/
def rekeyPort (s : State) (p : Nat) : State :=
  let s1 := modPort s p fun x => { x with gen := x.gen + 1, txFrom := s.alm.beat }
  sendCtrl s1 p 1 (ctrlWord 5 (getPort s1 p).gen.toNat)

/-- An engagement whose re-placement has not been found by the epoch boundary stays SUSPENDED, and its consignments
complete with FENCED (R403, R408). -/
def endReplacing (s : State) (e : Nat) : State :=
  let g := getEng s e
  if g.replacing ∧ g.swapAt = none then
    endAll (modEng s e fun g => { g with replacing := false }) (fun q => q.eng.val == e && q.st == .queued) stFenced
  else s

/-- Every 2,048 epochs the ports that are up change their keys (R423). -/
def rekeyPorts (s : State) : State := if epochOf s % 2048 = 0 then forEach (upPorts s) s rekeyPort else s

/-- The tag failures of the epoch that ends are forgotten (R424), and the tree is recomputed where ports were lost in it (R430). -/
def endPortEpochs (s : State) : State :=
  recomputeTree (forEach (List.range 8) s fun s p => modPort s p fun x => { x with tagFailEpoch := 0 })

/-- The engagements whose re-placement ends (R264). -/
def endReplacings (s : State) : State := forEach (List.range 64) s endReplacing

/-- The epochs since the power state last was Trek (R516). -/
def countEpoch (s : State) : State := { s with pwr := { s.pwr with epochsPassed := if s.pwr.st = 0 then 0 else s.pwr.epochsPassed + 1 } }

/-- The count reaches its next epoch boundary (R264): EPOCH_OUT is driven, every 2,048th epoch rekeys the links
(R423), the tree drops LOST ports (R430), and the epoch timer of a device
outside Trek counts, in Deep Camp by an epoch's periods of BEAT_REF (R516). -/
def epochBoundary (s : State) : State :=
  if s.alm.pllLock then
    countEpoch (endReplacings (endPortEpochs (rekeyPorts (advanceTo s (nextEpoch s)))))
  else if s.pwr.st = 3 then { s with pwr := { s.pwr with epochsPassed := s.pwr.epochsPassed + 1 } }
  else s

def execEpochBoundary (s : State) : Host.Outcome State Fault Refusal := .next (epochBoundary s)

/-! ## Alignment -/

/-- Beats between ALIGN frames (R267). -/
def alignBeats : Nat := 2 ^ 20

/-- The beat master sends ALIGN on every tree port at the next beat whose count has bits [19:0] equal to 0, in three
frames (R267, R422). -/
def alignSend (s : State) : State :=
  if s.alm.pllLock && s.alm.master then
    let s1 := advanceTo s (cdiv s.alm.beat.toNat alignBeats * alignBeats)
    let w := ctrlWord 1 (packNat [(s1.alm.beat.toNat / alignBeats, 0, 44)])
    forEach (treePorts s1) s1 fun s p => sendCtrl s p 3 w
  else s

def execAlignSend (s : State) : Host.Outcome State Fault Refusal := .next (alignSend s)

/-- Whether an engagement spans devices and runs here. -/
def spanningEng (s : State) (e : Nat) : Bool := (getEng s e).route && decide ((getEng s e).st ≠ .free)

/-- An aligned device leaves alignment (R270): spanning engagements stop, and the consignments in their circuits
complete with STALE_EPOCH at the next circuit boundary. -/
def leaveAlignment (s : State) : State :=
  if s.alm.aligned then
    let s1 := almMod s fun a => { a with aligned := false, misalign := satAdd a.misalign 1 }
    let s2 := { s1 with engs := s1.engs.map fun g => if g.route ∧ g.st ≠ .free then { g with staleStop := true } else g }
    forEach (consWhere s2 fun q => spanningEng s2 q.eng.val && q.st == .started) s2 fun s x => condemn s x.1 x.2 stStale
  else s

/-- Own count minus the master's, saturating at ±127 (R293). -/
def skewOf (own sent : Nat) : Int := clampI (-127) 127 ((own : Int) - sent)

/-- A beat, or a core cycle, moved by a step of the count. -/
def moved (d : Int) (x : Nat) : Nat := ((x : Int) + d).toNat

/-- A beat moved by a step of the count. -/
def movedBeat (d : Int) (x : Beat) : Beat := BitVec.ofNat 64 (moved d x.toNat)

/-- What a tile does goes on through a step of the count. -/
def moveTile (d : Int) (t : Tile) : Tile :=
  { t with switchBeat := movedBeat d t.switchBeat, strikes := t.strikes.map (fun x => (moved d x.1, moved d x.2)), workEnd := moved d t.workEnd }

/-- What a core does goes on through a step of the count. -/
def moveCore (d : Int) (c : Core) : Core :=
  { c with
    busFree := c.busFree.map (moved d), stageFree := moved d c.stageFree, meFree := moved (8 * d) c.meFree, vecFree := moved (8 * d) c.vecFree
    chanFree := c.chanFree.map (moved (8 * d)), laneFree := c.laneFree.map (moved d), holdUntil := movedBeat d c.holdUntil
    banks := c.banks.map fun b => { b with start := moved (8 * d) b.start }
    reads := c.reads.map fun r => { r with issue := movedBeat d r.issue, dl := movedBeat d r.dl, judged := r.judged.map (moved d) }
    oldImage := c.oldImage.map fun x => (x.1, x.2.1, moved d x.2.2)
    pageOld := c.pageOld.map fun x => (x.1, x.2.1, moved d x.2.2) }

/-- A circuit under way goes on through a step of the count. -/
def moveCirc (d : Int) (c : Circ) : Circ :=
  if c.started then { c with start := moved d c.start, endBeat := moved d c.endBeat, held := c.held.map (moved d) } else c

/-- A circuit that has not started loses its start to a step of the count: its token goes to the next circuit of its consignment (R270). -/
def loseCirc (e : Nat) (s : State) (c : Circ) : State :=
  let same (x : Circ) : Bool := x.live && !x.started && x.consignor == c.consignor && x.qslot == c.qslot && decide (c.token.toNat < x.token.toNat)
  let s1 := modEng s e fun g => { g with circuits := (g.circuits.filter fun x => x.k != c.k).map fun x => if same x then { x with token := x.token - 1 } else x }
  if c.live then modQ s1 c.consignor c.qslot.toNat fun q => { q with next := q.next - 1 } else s1

/-- An engagement through a step of the count to `b` (R270): one that spans devices resumes at its first circuit start after the step; one
confined to the device keeps running, and loses the circuits whose start the step skips. -/
def moveEng (d : Int) (b : Nat) (s : State) (e : Nat) : State :=
  if (getEng s e).route then modEng s e fun g => { g with staleStop := false, circuits := [] }
  else
    let s1 := modEng s e fun g => { g with circuits := g.circuits.map (moveCirc d), movedAt := g.movedAt.map (movedBeat d), holds := g.holds.map (movedBeat d) }
    forEach (((getEng s1 e).circuits.filter fun c => !c.started && decide (c.start < b)).reverse) s1 (loseCirc e)

/-- The device steps its count to the master's (R269, R270). -/
def realign (s : State) (b : Nat) : State :=
  let d : Int := (b : Int) - s.alm.beat.toNat
  let s1 := { s with
    cores := s.cores.map (moveCore d)
    prt := { s.prt with rdHeld := s.prt.rdHeld.map fun h => { h with last := movedBeat d h.last } }
    tiles := s.tiles.map fun x => (x.1, moveTile d x.2)
    flights := s.flights.map fun f => { f with due := moved (8 * d) f.due, what := (match f.what with
      | .attend k cyc j run => .attend k (moved (8 * d) cyc) j run
      | w => w) } }
  let s2 := forEach (List.range 64) s1 (moveEng d b)
  almMod (setBeat s2 (BitVec.ofNat 64 b)) fun a => { a with aligned := true }

/-- The count that an ALIGN word brings (R267): the master's, with the delays of the links it has crossed, this one's included (log 50). -/
def alignCount (s : State) (port body : Nat) : Nat := bitsOf body 0 44 * alignBeats + bitsOf body 50 10 + (getPort s port).d.toNat

/-- The word that goes on downstream (R267, R422): the master's count, one hop more, and this link's delay added. -/
def alignOnward (s : State) (port body : Nat) : BitVec 64 :=
  ctrlWord 1 (packNat [(bitsOf body 0 44, 0, 44), (bitsOf body 44 6 + 1, 44, 6), (bitsOf body 50 10 + (getPort s port).d.toNat, 50, 10)])

/-- A received ALIGN word (R267, R269, R270): compared with the count, acted on, and forwarded downstream. Words from
any port but the upstream one, and at the beat master, have no effect. -/
def alignWord (s : State) (port : Nat) (body : Nat) : State :=
  if s.alm.pllLock && !s.alm.master && (getPort s port).upstream then
    let sent := alignCount s port body
    let own := s.alm.beat.toNat
    let s1 := almMod s fun a => { a with skewDiff := BitVec.ofNat 8 (unsign 8 (skewOf own sent)), skewDelay := BitVec.ofNat 8 (getPort s port).d.toNat }
    let s2 := if !s1.alm.aligned then realign s1 sent
      else if own ≤ sent + 1 ∧ sent ≤ own + 1 then s1
      else leaveAlignment s1
    forEach ((treePorts s2).filter (· ≠ port)) s2 fun s p => sendCtrl s p 3 (alignOnward s port body)
  else s

def execAlign (port : Fin 8) (body : BitVec 60) (s : State) : Host.Outcome State Fault Refusal := .next (alignWord s port body.toNat)

/-- Whether an EPOCH_IN edge in beat `edge`, delayed by EPIN_DLY, falls more than one beat from an epoch boundary (R268). -/
def edgeOff (a : Alm) (edge : Nat) : Bool :=
  let x := (edge + a.epinDly.toNat) % epochBeats
  decide (1 < x) && decide (x < epochBeats - 1)

/-- An EPOCH_IN edge (R264, R268, R270): the beat runs once the loop has locked; an edge off the boundary makes the device leave alignment. -/
def epochInEdge (s : State) (edge : Nat) : State :=
  if s.alm.pllLock then
    let s1 := advanceTo s edge
    if s1.alm.epinEn && edgeOff s1.alm edge then leaveAlignment s1 else s1
  else s

def execEpochInEdge (edgeBeat : Beat) (s : State) : Host.Outcome State Fault Refusal := .next (epochInEdge s edgeBeat.toNat)

/-! ## The reference (R265) -/

/-- The reference in use is declared lost (R265): the fallback source takes over where it is configured and valid, holdover otherwise. -/
def referenceLost (s : State) (fallbackValid : Bool) : State :=
  if s.alm.pllLock then
    almMod s fun a =>
      let fb := a.src == 2 && fallbackValid
      { a with refOk := fb, refloss := satAdd a.refloss 1, fallback := fb, holdover := !fb }
  else s

def execReferenceLost (fallbackValid : Bool) (s : State) : Host.Outcome State Fault Refusal := .next (referenceLost s fallbackValid)

/-- The selected reference has been valid for 4,096 periods: the Almanac runs on it again (R265, log 51). -/
def relockRef (s : State) : State :=
  if s.alm.pllLock then almMod s fun a => { a with refOk := true, holdover := false, fallback := false } else s

def execRelock (s : State) : Host.Outcome State Fault Refusal := .next (relockRef s)

/-- Holdover without fallback across one ALIGN interval: a device that is not the beat master leaves alignment. -/
def holdoverTimeout (s : State) : State :=
  if s.alm.holdover && !s.alm.fallback && !s.alm.master then leaveAlignment s else s

def execHoldoverTimeout (s : State) : Host.Outcome State Fault Refusal := .next (holdoverTimeout s)

end Sys2Proof.Machine
end

