-- ==== Sys2Proof/Machine/Factor.lean ====
section
/-! DEFINITION. Mailbox messages of consignors and the privileged view that need neither placement nor keys
(R358–R362, R390, R404–R405, R408, R452–R453, R457, R515). -/

namespace Sys2Proof.Machine

/-- A word as a number field of a reply. -/
def wordOf (n : Nat) : Word := BitVec.ofNat 32 n

/-! ## HELLO -/

/-- Free entries of a page's queue; the privileged mailbox has none (log 19). -/
def freeEntries (s : State) (mb : Nat) : Nat := if mb = 16 then 0 else 256 - (getMb s mb).queue.length

def helloReply (s : State) (mb : Nat) : List Word :=
  [ s.fac.ver, s.fac.build,
    packWord [(s.hzl.devnum.toNat, 0, 6), (s.hzl.ndev.toNat, 6, 7), (b2n s.cus.conf, 13, 1), (b2n (decide (mb = 16)), 14, 1)],
    packWord [((getMb s mb).qepoch.toNat, 0, 8), (freeEntries s mb, 8, 9)] ]

def hello (s : State) (mb : Mb) : State :=
  takeMsg s mb 0x01 fun s w => finishMsg s mb w stOk (helloReply s mb)

def execHello (mb : Mb) (s : State) : Host.Outcome State Fault Refusal := .next (hello s mb)

/-! ## RELEASE and RESET_ENGAGEMENT -/

/-- Programming of an engagement's decks stops as for a reset (R175), and its waybill programs no more (R166). -/
def stopEngProgramming (s : State) (e : Nat) : State :=
  modEng (forEach (engDeckKeys s e) s fun s k => modDeck s k (stopDeck false s.alm.beat.toNat)) e fun g =>
    { g with waybill := g.waybill.map fun w => { w with stopped := true } }

/-- A PROGRAM_WAYBILL whose engagement goes replies ABORTED_RESET (R166). -/
def abortWaybill (s : State) (e : Nat) : State :=
  match (getEng s e).waybill with
  | some w =>
    finishRecs (modEng s e fun g => { g with waybill := none }) (fun r => r.opcode == 0x10 && r.eng == e)
      (if w.status = stOk then stAborted else w.status) [packWord [(s.hzl.devnum.toNat, 0, 6), (1, 6, 1)], wordOf w.done, wordOf w.skipped]
  | none => s

/-- An ADMIT whose engagement goes before its placement ends replies NOT_OWNER, as the engagement is FREE (R385, log 150). -/
def abortAdmit (s : State) (e : Nat) : State := finishRecs (tidyPlacing s) (fun r => r.opcode == 0x02 && r.eng == e) stNotOwner []

/-- The last steps of a release: reservations return and the engagement is FREE (R390). -/
def finishRelease (s : State) (e : Nat) : State :=
  let s1 := abortAdmit (modEng (dropReservations (abortWaybill s e) e) e fun _ => {}) e
  finishRecs s1 (fun r => r.opcode == 0x03 && r.eng == e) stOk []

/-- Whether the engagement has itineraries that a swap must remove. -/
def hasItins (s : State) (e : Nat) : Bool := s.cores.toList.any fun c => c.itins.any fun i => i.eng.val == e

/-- RELEASE (R390): queued consignments abort, the itineraries leave at the next swap beat, then everything returns. -/
def release (s : State) (mb : Mb) : State :=
  takeMsg s mb 0x03 fun s w =>
    let e := engField w
    let s1 := pushRec (stopEngProgramming (abortCons s e) e) mb w { opcode := 0, seq := 0, eng := e, grans := [] }
    let s2 := modEng s1 e fun g => { g with bound := 0 }
    if hasItins s2 e then
      nameSwap (modEng { s2 with cores := s2.cores.map fun c =>
        { c with itins := c.itins.map fun i => if i.eng.val = e then { i with remove := true } else i } } e fun g =>
          { g with nextSt := some .free }) e (swapBeat s2 (getEng s2 e).route)
    else finishRelease s2 e

def execRelease (mb : Mb) (s : State) : Host.Outcome State Fault Refusal := .next (release s mb)

/-- RESET_ENGAGEMENT (R201, R256, R408): consignments abort, trackers and the tables of packed regions clear, the next circuit carries no work. -/
def resetEngagement (s : State) (mb : Mb) : State :=
  takeMsg s mb 0x7F fun s w =>
    let e := engField w
    let s1 := stopEngProgramming (clearTables (clearTrackers (abortCons s e) e) e) e
    finishMsg (modEng s1 e fun g => { g with skipNext := true, buf0 := {}, buf1 := {} }) mb w stOk []

def execResetEngagement (mb : Mb) (s : State) : Host.Outcome State Fault Refusal := .next (resetEngagement s mb)

/-! ## VERIFY_DECKS -/

/-- Whether a deck carries an open or waiting finding (R141, R171). -/
def deckHasFinding (d : Deck) : Bool := d.slots.any fun f => !f.retired && !f.adjusted

def verifyDecks (s : State) (mb : Mb) : State :=
  takeMsg s mb 0x11 fun s w =>
    let e := engField w
    let ds := (engDeckKeys s e).map (getDeck s)
    if ds.any deckSealed then finishMsg s mb w stSealed []
    else finishMsg s mb w stOk
      [ wordOf (ds.filter fun d => deckDone d && !d.uncal).length, wordOf (ds.filter deckPartial).length,
        wordOf (ds.filter deckHasFinding).length ]

def execVerifyDecks (mb : Mb) (s : State) : Host.Outcome State Fault Refusal := .next (verifyDecks s mb)

/-! ## SEAL, UNSEAL, ERASE_DECKS -/

/-- A journal pulse sets a deck's next seal mark (R451). -/
def addMark (d : Deck) : Deck := { journalMark d (colSeal d.marks) with marks := d.marks + 1 }

/-- Set the next seal mark of each listed deck. -/
def markDecks (s : State) (ks : List Nat) : State := forEach ks s fun s k => modDeck s k addMark

def sealDecks (s : State) (mb : Mb) : State :=
  takeMsg s mb 0x12 fun s w =>
    let ks := engDeckKeys s (engField w)
    if ks.any fun k => deckBusy (getDeck s k) then finishMsg s mb w stBusy []
    else
      let pub := ks.filter fun k => deckDone (getDeck s k) && deckPublic (getDeck s k)
      let s1 := forEach pub s fun s k => modDeck s k fun d => { d with opened := true }
      finishMsg (markDecks s1 pub) mb w stOk [wordOf pub.length]

def execSeal (mb : Mb) (s : State) : Host.Outcome State Fault Refusal := .next (sealDecks s mb)

def unsealDecks (s : State) (mb : Mb) : State :=
  takeMsg s mb 0x13 fun s w =>
    let ks := engDeckKeys s (engField w)
    let priv := ks.filter fun k => deckDone (getDeck s k) && !deckPublic (getDeck s k)
    if ks.any fun k => !deckOpen (getDeck s k) then finishMsg s mb w stSealed []
    else if priv.any fun k => 32 ≤ (getDeck s k).marks then finishMsg s mb w stPolicy []
    else finishMsg (markDecks s priv) mb w stOk [wordOf priv.length]

def execUnseal (mb : Mb) (s : State) : Host.Outcome State Fault Refusal := .next (unsealDecks s mb)

/-- Queue a deck for erase; the pump begins with DECK_ERASE. -/
def queueErase (s : State) (k : Nat) : State :=
  modDeck s k fun d => { d with prog := some {}, progRunning := false, erasing := true }

/-- The tile-decks ERASE_DECKS with ALL takes: those of RESIDENT engagements and stale ones (R453). -/
def allErasable (s : State) : List Nat :=
  s.decks.filterMap fun x =>
    match x.2.header with
    | some h => if h.owned && ((getEng s h.eng.toNat).st == .resident || (getEng s h.eng.toNat).st == .free) then some x.1 else none
    | none => none

def eraseDecks (s : State) (mb : Mb) : State :=
  takeMsg s mb 0x14 fun s w =>
    let e := engField w
    let all := bitOf (wordAt w 1) 8
    let ks := if all then allErasable s else engDeckKeys s e
    if all ∧ mb.val ≠ 16 then finishMsg s mb w stPolicy []
    else if !all && ((getEng s e).st != .resident || ks.any fun k => !deckOpen (getDeck s k)) then finishMsg s mb w stPolicy []
    else if ks.any fun k => deckBusy (getDeck s k) then finishMsg s mb w stBusy []
    else if ks.isEmpty then finishMsg s mb w stOk [0, 0]
    else
      pushRec (forEach ks s queueErase) mb w { opcode := 0, seq := 0, eng := if all then 64 else e, grans := [], decks := ks }

def execEraseDecks (mb : Mb) (s : State) : Host.Outcome State Fault Refusal := .next (eraseDecks s mb)

/-! ## SUBMIT and CANCEL -/

/-- The lowest free queue entry. -/
def freeQSlot (q : Sparse QEntry) : Option Nat := (List.range 256).find? fun i => (sfind q i).isNone

/-- The answer an engagement's state gives a SUBMIT before FULL (R385). -/
def submitState (s : State) (e : Nat) : Byte :=
  let g := getEng s e
  match g.st with
  | .free => stNotOwner
  | .placing | .loading => stFenced
  | .ready | .shadow => stOk
  | .suspended => if g.takeover || g.replacing then stOk else stFenced
  | .resident => if anySealed s e then stSealed else stFenced

def queueEntry (s : State) (mb : Nat) (w : List Word) : QEntry :=
  { eng := Fin.ofNat 64 (engField w), seq := BitVec.ofNat 8 (msgSeq w), tag := wordOf (wordAt w 2),
    inAddr := wordOf (wordAt w 3), inBytes := wordOf (wordAt w 4), outAddr := wordOf (wordAt w 5), outBytes := wordOf (wordAt w 6),
    tokens := wordAt w 7, qepoch := (getMb s mb).qepoch, order := s.order, pos := (getMb s mb).queue.length,
    bounceBad := (msgGrans w).any fun k => (getGran s k).bad }

/-- SUBMIT (R361): the consignment is queued and acknowledged, or answered FULL and leaves no trace. -/
def submit (s : State) (mb : Mb) : State :=
  takeMsg s mb 0x20 fun s w =>
    let st := submitState s (engField w)
    if wordAt w 7 = 0 then finishMsg s mb w stBadFormat []
    else if st ≠ stOk then finishMsg s mb w st []
    else match freeQSlot (getMb s mb).queue with
      | none => finishMsg s mb w stFull []
      | some q =>
        let e := queueEntry s mb w
        let s1 := { modMb s mb (fun p => { p with queue := sput p.queue q e }) with order := s.order + 1 }
        reply s1 mb 0x20 e.seq stOk [packWord [(q, 0, 8), (e.qepoch.toNat, 8, 8), (e.pos, 16, 9)]]

def execSubmit (mb : Mb) (s : State) : Host.Outcome State Fault Refusal := .next (submit s mb)

/-- CANCEL (R362): a consignment that no circuit carries yet completes with 0 tokens; one in progress stops at its next
token boundary. -/
def cancel (s : State) (mb : Mb) : State :=
  takeMsg s mb 0x21 fun s w =>
    let q := bitsOf (wordAt w 1) 0 8
    let s1 := match getQ s mb q with
      | some e =>
        if e.qepoch.toNat ≠ bitsOf (wordAt w 1) 8 8 ∨ e.st = .ended then s
        else if e.st = .queued then endCons s mb q stOk
        else modQ s mb q fun e => { e with cancelled := true }
      | none => s
    finishMsg s1 mb w stOk []

def execCancel (mb : Mb) (s : State) : Host.Outcome State Fault Refusal := .next (cancel s mb)

/-! ## QUERY_HEALTH -/

/-- Whether LDG_MAP reads FENCED for a logical core (R411). -/
def mapFenced (m : LdgEntry) : Bool := m.fenced || !m.failed.isEmpty

/-- Findings in state `st`, in the ring and waiting outside it (R141). -/
def findingsIn (s : State) (st : Nat) : Nat := ((s.asy.ring ++ s.asy.outside).filter fun f => f.st.toNat == st).length

def openFindings (s : State) : Nat := findingsIn s 0

/-- The hottest tile reading, coarsened to 2 °C in confidential mode (R458). -/
def tempView (s : State) : Nat := if coarse s then s.tol.tmax.toNat / 2 * 2 else s.tol.tmax.toNat

def healthReply (s : State) : List Word :=
  let ue := fun (p : Ptl) => (p.stack.toList.map fun k => k.ue.toNat).sum
  [ wordOf (packNat ((List.range 32).map fun c => (b2n (mapFenced (vget {} s.ldg.map c)), c, 1))),
    packWord [(s.ldg.spares.length, 0, 2), ((s.hzl.ports.toList.filter fun p => decide (p.st = .lost)).length, 2, 8),
              (countView s (openFindings s) (openFindings s), 10, 16)],
    wordOf (countView s (ue s.ptl) (ue s.snap.ptl)),
    wordOf (tempView s) ]

def queryHealth (s : State) (mb : Mb) : State :=
  takeMsg s mb 0x31 fun s w => finishMsg s mb w stOk (healthReply s)

def execQueryHealth (mb : Mb) (s : State) : Host.Outcome State Fault Refusal := .next (queryHealth s mb)

/-! ## FENCE_CORE and UNFENCE_CORE -/

/-- FENCE_CORE (R404): the fence itself is CORE_FENCE, which writes the reply. -/
def fenceCore (s : State) (mb : Mb) : State :=
  takeMsg s mb 0x40 fun s w =>
    let c := bitsOf (wordAt w 1) 0 5
    if isFenced s c then finishMsg s mb w stOk []
    else if fenceBusy s then finishMsg s mb w stBusy []
    else pushRec s mb w { opcode := 0, seq := 0, eng := c, grans := [] }

def execFenceCore (mb : Mb) (s : State) : Host.Outcome State Fault Refusal := .next (fenceCore s mb)

/-- Whether Customs opens a deck for the tenant in force (R450). -/
def deckOpensFor (s : State) (k : Nat) : Bool :=
  match (getDeck s k).header with
  | some h =>
    let addr := match logicalOfPhys s k with | some n => n | none => k
    deckDone (getDeck s k) && s.cus.tenancy == .held && h.tenant == s.cus.tenantId.extractLsb' 0 128 &&
      h.kcv == Config.sealKcv s.cus.kSeal ("DECK-SEAL".toList.map (fun c => BitVec.ofNat 8 c.toNat) ++ leBytes 4 addr ++
        leBytes 4 h.cycles ++ leBytes 16 h.salt.toNat)
  | none => false

/-- Whether a deck carries the tenant's name but fails its seal check (R450). -/
def deckSealFails (s : State) (k : Nat) : Bool :=
  match (getDeck s k).header with
  | some h => deckDone (getDeck s k) && s.cus.tenancy == .held && h.tenant == s.cus.tenantId.extractLsb' 0 128 && !deckOpensFor s k
  | none => false

/-- Open every deck among the keys that meets R450; a deck that was not open becomes uncalibrated; a failing seal is logged. -/
def openDecks (s : State) (ks : List Nat) : State :=
  forEach ks s fun s k =>
    if deckOpensFor s k then modDeck s k fun d => { d with opened := true, uncal := d.uncal || !deckOpen d }
    else if deckSealFails s k then
      logViolation s { addr := BitVec.ofNat 32 ((logicalOfPhys s k).getD k), req := 0, src := 7, write := false, cid := 0x1F }
    else s

/-- Physical keys of the decks that exist on a physical core. -/
def coreDeckKeys (s : State) (p : Nat) : List Nat := (s.decks.map Prod.fst).filter fun k => k / 768 == p

/-- Engagements that wait in SHADOW or SUSPENDED with decks or legs on a logical core. -/
def strandedEngs (s : State) (c : Nat) : List Nat :=
  (List.range 64).filter fun e =>
    let g := getEng s e
    (g.st == .shadow || g.st == .suspended) &&
      match g.plan with | some p => p.itins.any fun i => i.core.val == c | none => false

/-! ## POWER_HINT and DEBUG_CONSENT -/

/-- POWER_HINT (R515): a later hint replaces an earlier one; hint 2 leaves Halt at once. -/
def powerHint (s : State) (mb : Mb) : State :=
  takeMsg s mb 0x60 fun s w =>
    let h := bitsOf (wordAt w 1) 0 2
    if h = 3 then finishMsg s mb w stBadFormat []
    else
      let s1 := { s with pwr := { s.pwr with hint := BitVec.ofNat 2 h, hintMs := if h = 0 then 0 else wordOf (wordAt w 2) } }
      finishMsg (if h = 2 then leaveHalt (retarget s1) 6 else retarget s1) mb w stOk []

def execPowerHint (mb : Mb) (s : State) : Host.Outcome State Fault Refusal := .next (powerHint s mb)

/-- The beat count as measurement block 6 holds it (R442). -/
def beat200 (s : State) : Beat := BitVec.ofNat 64 (s.alm.beat.toNat / 200 * 200)

/-- DEBUG_CONSENT (R457). -/
def debugConsent (s : State) (mb : Mb) : State :=
  takeMsg s mb 0x70 fun s w =>
    if !tenantRights s mb || decide (16 ≤ wordAt w 1) then finishMsg s mb w stPolicy []
    else
      let m := BitVec.ofNat 4 (wordAt w 1)
      let grant := bitOf (wordAt w 2) 0
      let s1 := { s with cus := { s.cus with scopes := if grant then s.cus.scopes ||| m else s.cus.scopes &&& ~~~m
                                             grants := if grant then s.cus.grants + 1 else s.cus.grants
                                             consentBeat := beat200 s } }
      finishMsg s1 mb w stOk [6]

def execDebugConsent (mb : Mb) (s : State) : Host.Outcome State Fault Refusal := .next (debugConsent s mb)

/-! ## Undefined opcodes -/

/-- A message with an undefined opcode is answered BAD_FORMAT with the opcode echoed and LEN 0 (R358, log 22). -/
def undefinedMsg (s : State) (mb : Mb) : State :=
  let w := msgAt s mb
  if msgPosted s mb && (opMasks (msgOpcode w)).isNone then
    sendOut (commitMsg s mb) mb
      [packWord [(msgOpcode w, 0, 8), (msgSeq w, 8, 8), (mb.val, 16, 5), (0, 21, 4), (1, 25, 1)], statusWord stBadFormat 0 0]
  else s

def execUndefinedOpcode (mb : Mb) (s : State) : Host.Outcome State Fault Refusal := .next (undefinedMsg s mb)

end Sys2Proof.Machine
end

