-- ==== Sys2Proof/Machine/Image.lean ====
section
/-! DEFINITION. Itinerary images: the bits of legs, descriptors and headers, and the leg that a Drover fetches from an image
(R272, R273, R307). -/

namespace Sys2Proof.Machine

/-! ## Descriptors and legs as bits (R273, R307) -/

/-- The 64 bytes of a descriptor made of fields (value, byte, bytes). -/
def descBytes (l : List (Nat × Nat × Nat)) : List Byte := leBytes 64 (packNat (l.map fun x => (x.1, 8 * x.2.1, 8 * x.2.2)))

def matrixBytes (d : MatrixDesc) : List Byte :=
  descBytes [(d.aAddr.toNat, 0, 4), (d.bAddr.toNat, 4, 4), (d.cAddr.toNat, 8, 4), (d.scaleAddr.toNat, 12, 4), (d.kt, 16, 2), (d.t, 18, 4),
    (packNat [(d.fmtA.toNat, 0, 4), (d.fmtB.toNat, 4, 4)], 22, 1), (packNat [(d.out.toNat, 0, 4), (b2n d.cast, 4, 1), (b2n d.shadow, 5, 1)], 23, 1),
    (d.zW.toNat, 24, 1), (d.sAct.toNat, 28, 4)]

def attnBytes (d : AttnDesc) : List Byte :=
  descBytes [(d.qAddr.toNat, 0, 4), (d.kvAddr.toNat, 4, 4), (d.sumAddr.toNat, 8, 4), (d.newAddr.toNat, 12, 4), (d.oAddr.toNat, 16, 4),
    (d.nblk, 20, 2), (d.last, 22, 1), (d.g, 23, 1), (d.d, 24, 1), (packNat [(d.fmt.toNat, 0, 4), (d.out.toNat, 4, 4)], 25, 1), (d.sumb, 26, 2),
    (d.sigma.toNat, 28, 4)]

def vectorBytes (d : VecDesc) : List Byte :=
  descBytes [(d.src0.toNat, 0, 4), (d.src1.toNat, 4, 4), (d.dst.toNat, 8, 4), (d.param0.toNat, 12, 4), (d.param1.toNat, 16, 4),
    (packNat [(d.fmtIn.toNat, 0, 4), (d.fmtOut.toNat, 4, 4)], 20, 1), (d.mode.toNat, 21, 1), (d.win.toNat, 22, 1)]

def porterBytes (d : PorterDesc) : List Byte :=
  descBytes [(d.op.toNat, 0, 1), (packNat [(b2n d.strip, 0, 1), (b2n d.packed, 1, 1), (b2n d.summary, 2, 1)], 1, 1), (d.lane.val, 2, 1),
    (d.string.toNat, 3, 1), (d.tmask.toNat, 4, 2), (d.buf.val, 6, 1), (d.src, 8, 8), (d.dst, 16, 8), (d.len, 24, 4), (d.rows, 28, 4),
    (d.sstride, 32, 4), (d.dstride, 36, 4), (d.region, 40, 2), (d.sumb, 42, 2), (d.blk, 44, 4), (d.stripAddr, 48, 4), (d.sumAddr, 52, 4),
    (d.tdev.val, 56, 1), (d.tcore.toNat, 57, 1), (d.d, 58, 1), (d.sstrip, 59, 5)]

/-- The descriptor a leg names, if its class has one. -/
def legDesc (b : LegBody) : Option (List Byte) :=
  match b with
  | .strike _ | .select _ | .reduce _ => none
  | .porter l => some (porterBytes l.desc)
  | .matrix d => some (matrixBytes d)
  | .attend d => some (attnBytes d)
  | .vector _ d => some (vectorBytes d)
  | .convoy l => some (porterBytes l.desc)

/-- CLASS and BODY of a leg whose descriptor has index `i` (R273). -/
def bodyBits (i : Nat) (b : LegBody) : Nat × Nat :=
  match b with
  | .strike l => (1, packNat [(l.string.toNat, 92, 4), (l.tmask.toNat, 76, 16), (l.deck.val, 74, 2), (l.aw.toNat, 72, 2), (l.slot.toNat, 67, 5),
      (l.buf.val, 66, 1), (l.ofmt.toNat, 62, 4), (b2n l.part, 61, 1), (l.oaddr.toNat, 45, 16), (l.rgrp.toNat, 37, 8)])
  | .select l => (2, packNat [(l.string.toNat, 92, 4), (l.tmask.toNat, 76, 16), (l.deck.val, 74, 2)])
  | .reduce l => (3, packNat [(l.rgrp.toNat, 88, 8), (b2n l.level, 87, 1), (b2n l.twin, 86, 1), (l.nin.toNat, 80, 6), (l.ofmt.toNat, 76, 4),
      (b2n l.dest, 75, 1), (l.oaddr.toNat, 59, 16), (l.nout.toNat, 49, 10), (b2n l.acc, 48, 1), (l.iaddr.toNat, 32, 16)])
  | .porter l => (4, packNat [(l.chan.val, 94, 2), (i, 78, 16), (l.dl, 54, 24), (l.late.toNat, 52, 2)])
  | .matrix _ => (5, packNat [(i, 80, 16)])
  | .attend _ => (6, packNat [(i, 80, 16)])
  | .vector vop d => (7, packNat [(vop.toNat, 88, 8), (d.n - 1, 72, 16), (i, 56, 16)])
  | .convoy l => (8, packNat [(l.net.toNat, 94, 2), (l.way.toNat, 90, 4), (i, 74, 16), (l.nslot, 58, 16)])

/-- The descriptor index in a leg's BODY bits. -/
def bodyDesc (b : LegBody) (bits : Nat) : Nat :=
  match b with
  | .strike _ | .select _ | .reduce _ => 0
  | .porter _ => bitsOf bits 78 16
  | .matrix _ | .attend _ => bitsOf bits 80 16
  | .vector .. => bitsOf bits 56 16
  | .convoy _ => bitsOf bits 74 16

/-- ISSUE of a leg's bits. -/
def issueOf (bits : Nat) : Nat := bitsOf bits 97 27

/-- The 128 bits of a leg. -/
def legBits (i : Nat) (l : Leg) : Nat :=
  let x := bodyBits i l.body
  packNat [(x.1, 124, 4), (l.issue, 97, 27), (x.2, 0, 96)]

/-- Legs with the index of the descriptor each names. -/
def numberLegs : Nat → List Leg → List (Nat × Leg)
  | _, [] => []
  | i, l :: r => (i, l) :: numberLegs (if (legDesc l.body).isSome then i + 1 else i) r

/-- The legs and descriptors of an image: the bytes its CRC covers. -/
def imageBody (legs : List Leg) : List Byte :=
  (numberLegs 0 legs).flatMap (fun x => leBytes 16 (legBits x.1 x.2)) ++ (legs.filterMap fun l => legDesc l.body).flatten

/-- An itinerary image: its 64-byte header and its body (R272). -/
def imageBytes (e period : Nat) (legs : List Leg) : List Byte :=
  let body := imageBody legs
  descBytes [(e, 0, 1), (1, 1, 1), (period, 2, 2), (legs.length, 4, 4), (64 + 16 * legs.length, 8, 4), ((legs.filterMap fun l => legDesc l.body).length, 12, 4),
    ((crc32 body).toNat, 16, 4)] ++ body

/-- The bits of leg `i` of the image at a Waystation address; none past NLEG. -/
def fetchLeg (s : State) (p base i : Nat) : Option Nat :=
  if i < (wsWord s p (base + 4)).toNat then some (leNat (wsBytes s p (base + 64 + 16 * i) 16)) else none

/-- The 64 bytes of descriptor `i` of the image at a Waystation address. -/
def fetchDesc (s : State) (p base i : Nat) : List Byte := wsBytes s p (base + (wsWord s p (base + 8)).toNat + 64 * i) 64

/-- Whether fetched bits spell a leg body, with its descriptor in the image (R273). -/
def legSpelt (s : State) (p base bits : Nat) (b : LegBody) : Bool :=
  let i := bodyDesc b bits
  legBits i { issue := issueOf bits, body := b } == bits &&
    match legDesc b with
    | some d => fetchDesc s p base i == d
    | none => true

/-! ## Reserved fields (R273, R274, R307) -/

/-- The number of reserved low bits of BODY for each class; none for a reserved class. -/
def bodyReserved (cls : Nat) : Option Nat :=
  match cls with
  | 1 => some 37 | 2 => some 74 | 3 => some 32 | 4 => some 52 | 5 => some 80 | 6 => some 80 | 7 => some 56 | 8 => some 58
  | _ => none

/-- VOP codes that the table of R273 gives. -/
def vopGiven (vop : Nat) : Bool :=
  decide (1 ≤ vop ∧ vop ≤ 9) || vop == 0x10 || vop == 0x11 || decide (0x20 ≤ vop ∧ vop ≤ 0x2A) || vop == 0x30 || decide (0x40 ≤ vop ∧ vop ≤ 0x44) ||
    vop == 0x50 || decide (0x60 ≤ vop ∧ vop ≤ 0x62) || vop == 0x70 || vop == 0x71

/-- The descriptor index of a leg of a class, where the class names one. -/
def classDesc (cls bits : Nat) : Option Nat :=
  match cls with
  | 4 => some (bitsOf bits 78 16) | 5 => some (bitsOf bits 80 16) | 6 => some (bitsOf bits 80 16) | 7 => some (bitsOf bits 56 16)
  | 8 => some (bitsOf bits 74 16)
  | _ => none

/-- The reserved bits of a descriptor of a class: first bit and width. -/
def descReserved (cls : Nat) : List (Nat × Nat) :=
  match cls with
  | 5 => [(190, 2), (200, 24), (256, 256)]
  | 6 => [(256, 256)]
  | 7 => [(184, 328)]
  | 4 | 8 => [(11, 5), (19, 5), (28, 4), (49, 15), (454, 2)]
  | _ => []

/-- Whether fetched bits are no leg that R273 gives: a reserved class or VOP, or a reserved field that is not 0, in the leg or in its descriptor. -/
def legMalformed (s : State) (p base bits : Nat) : Bool :=
  let cls := bitsOf bits 124 4
  match bodyReserved cls with
  | none => true
  | some n =>
    bitOf bits 96 || bitsOf bits 0 n != 0 || (cls == 7 && !vopGiven (bitsOf bits 88 8)) ||
      match classDesc cls bits with
      | none => false
      | some i => (descReserved cls).any fun f => bitsOf (leNat (fetchDesc s p base i)) f.1 f.2 != 0

end Sys2Proof.Machine
end

