-- ==== Sys2Proof/Machine/Drover.lean ====
section
/-! DEFINITION. Circuits, itinerary banks, holds and the Drover watchdog (R272–R279, R285–R286). -/

namespace Sys2Proof.Machine

/-! ## Commit (R276, R395) -/

/-- The consignment the dispatcher takes: the earliest committed of the engagement still holding tokens (R395). -/
def pickToken (s : State) (e : Nat) : Option (Nat × Nat × QEntry) :=
  match consWhere s fun q => q.eng.val == e && decide (q.st ≠ .ended) && !q.cancelled && decide (q.next < q.tokens) with
  | (c, q) :: _ => (getQ s c q).map fun x => (c, q, x)
  | [] => none

/-- Whether the engagement's circuits may carry work. -/
def engLive (g : Eng) : Bool :=
  (g.st == .ready || g.st == .shadow) && !g.live0 && !g.skipNext && !g.staleStop

/-- The dispatcher's circuit: live with the next token, or LIVE 0. -/
def formCircuit (s : State) (e k b : Nat) : Circ :=
  let g := getEng s e
  let fin := b + 2 * engPeriod g
  match engLive g, pickToken s e with
  | true, some (c, q, x) =>
    { k := k, live := true, consignor := Fin.ofNat 16 c, qslot := BitVec.ofNat 8 q, token := BitVec.ofNat 16 x.next,
      epoch := BitVec.ofNat 16 (epochStamp b), replay := x.replayed, start := b, endBeat := fin }
  | _, _ =>
    { k := k, live := false, consignor := 0, qslot := 0, token := 0, epoch := BitVec.ofNat 16 (epochStamp b), replay := false, start := b, endBeat := fin }

/-- The queue entry a live circuit carries a token of. -/
def takeToken (s : State) (e : Nat) (c : Circ) : State :=
  if c.live then
    let sh := (getEng s e).st == .shadow
    modQ s c.consignor c.qslot.toNat fun x => { x with next := x.next + 1, st := .started, shadow := x.shadow || sh }
  else s

/-- Whether circuit `k` can still be committed: its commit beat has not passed, and no later circuit is committed. -/
def canCommit (s : State) (e k b : Nat) : Bool :=
  let g := getEng s e
  s.alm.pllLock && (g.st == .ready || g.st == .shadow || g.st == .suspended) && decide (0 < engPeriod g) &&
    decide (s.alm.beat.toNat + 1024 ≤ b) && g.circuits.all fun c => decide (c.start < b) && c.k != k

/-- The bytes of a control slot's frame: the circuit word, and zeros. -/
def wordPayload (w : BitVec 64) : List MByte := markAll false (leBytes 500 w.toNat)

/-- The circuit word of an engagement that spans devices goes out in its control slot of every tree link, but for the port
it came from (R276, R421). -/
def sendWord (s : State) (e : Nat) (c : Circ) (from_ : Option Nat) : State :=
  if (getEng s e).route then
    forEach ((treePorts s).filter fun p => from_ != some p) s fun s p => sendSlot s p (wordPayload (circuitWord e c))
  else s

/-- COMMIT (R276): at beat A + k × P − 1,024 the dispatcher forms the circuit word for circuit k. A live one leaves
Halt (R511). -/
def commitCircuit (s : State) (e k : Nat) : State :=
  let b := circuitBeat (getEng s e) k
  if canCommit s e k b then
    let s1 := retireCircuits (advanceTo s (b - 1024)) e
    let c := formCircuit s1 e k b
    let s2 := modEng (takeToken s1 e c) e fun g => { g with circuits := g.circuits ++ [c], skipNext := false }
    let s3 := sendWord s2 e c none
    if c.live then leaveHalt s3 5 else s3
  else s

def execCommit (eng : Fin 64) (circuit : Nat) (s : State) : Host.Outcome State Fault Refusal := .next (commitCircuit s eng circuit)

/-! ## Circuit start (R277, R279) -/

/-- A circuit as its word spells it. -/
def circOfWord (k b fin w : Nat) : Circ :=
  { k := k, live := bitOf w 0, consignor := Fin.ofNat 16 (bitsOf w 1 4), qslot := BitVec.ofNat 8 (bitsOf w 5 8),
    token := BitVec.ofNat 16 (bitsOf w 13 16), epoch := BitVec.ofNat 16 (bitsOf w 35 16), replay := bitOf w 51, start := b, endBeat := fin }

/-- End the consignment a circuit carries at the next circuit boundary. -/
def condemnCirc (s : State) (e : Nat) (c : Circ) (st : Byte) : State :=
  let own : Bool := match getQ s c.consignor c.qslot.toNat with | some q => q.eng.val == e | none => false
  if c.live && own then
    condemn s c.consignor c.qslot.toNat st
  else s

/-- The Drover runs the circuit and acknowledges its start. -/
def runCircuit (s : State) (p e : Nat) (c : Circ) : State :=
  let s1 := modEng s e fun g =>
    { g with circuits := if g.circuits.any fun x => x.k == c.k then g.circuits.map fun x => if x.k = c.k then { x with started := true } else x
                         else g.circuits ++ [{ c with started := true }] }
  modCore s1 p fun x =>
    { x with
      groups := x.groups.filter (fun g => g.eng.val != e || decide (c.k < g.circuit + 2))
      acks := (x.acks.filter fun a => a.1 != e || decide (c.k < a.2 + 2)) ++ [(e, c.k)]
      issued := x.issued.filter fun a => a.1 != e || decide (c.k < a.2.1 + 2)
      reads := x.reads.filter fun r => r.eng.val != e || !r.sampled || decide (c.k < r.circuit + 2)
      kvLate := x.kvLate.filter fun v => v.1 != e || decide (c.k < v.2.1 + 2) }

/-- The start that a circuit's word was formed for: holds that began between its commit and its start `b` have moved it since (R276, R286). -/
def wordStart (g : Eng) (b : Nat) : Nat := g.movedAt.foldr (fun h x => if x ≤ h.toNat + 1280 then x - 256 else x) b

/-- Whether a word's EPOCH is the count's own (R277, R289): that of the circuit's start, or of the start it was formed for where a hold has moved
it across an epoch boundary since (log 149). -/
def epochFits (g : Eng) (b w : Nat) : Bool := bitsOf w 35 16 == epochStamp b || bitsOf w 35 16 == epochStamp (wordStart g b)

/-- Circuit k starts at a Drover (R277): it runs when a live word with the count's own epoch stamp has arrived, and is
fallow otherwise. -/
def circuitStarts (s : State) (core e k : Nat) (word : Option (BitVec 64)) : State :=
  let g := getEng s e
  let p := physOf s core
  let b := circuitBeat g k
  if coreRuns s core && ((getCore s p).itins.any fun i => i.eng.val == e && decide (0 < i.len)) && decide (s.alm.beat.toNat ≤ b) then
    let s1 := advanceTo s b
    let s2 := endCondemned (retireCircuits s1 e) e
    match word with
    | some w =>
      let c := circOfWord k b (b + 2 * engPeriod g) w.toNat
      if !c.live then s2
      else if !epochFits g b w.toNat || g.staleStop then condemnCirc s2 e c stStale
      else runCircuit s2 p e c
    | none =>
      match g.circuits.find? fun c => c.k == k with
      | some c => condemnCirc s2 e c stFenced
      | none => s2
  else s

def execCircuitStart (core : Fin 32) (eng : Fin 64) (circuit : Nat) (word : Option (BitVec 64)) (s : State) :
    Host.Outcome State Fault Refusal := .next (circuitStarts s core eng circuit word)

/-! ## Legs -/

/-- Whether a Drover issues legs of a circuit now (R269, R270, R277): its core runs, the circuit is live and has started on it, and where the
engagement spans devices the device is aligned. -/
def legIssues (s : State) (ctx : LegCtx) : Bool :=
  let g := getEng s ctx.eng
  coreRuns s ctx.core && (getCore s (physOf s ctx.core)).acks.contains (ctx.eng.val, ctx.circuit) && !g.staleStop && (!g.route || s.alm.aligned) &&
    g.circuits.any fun x => x.k == ctx.circuit && x.live && x.started

/-- The image a circuit's legs issue from (R278): the active one, or the one before the last switch for circuits that started before it. -/
def legBase (s : State) (ctx : LegCtx) (start : Nat) : Option Nat :=
  let c := getCore s (physOf s ctx.core)
  let active := (c.itins.find? fun i => i.eng == ctx.eng && decide (0 < i.len)).map Itin.base
  match sfind c.oldImage ctx.eng.val with
  | some o => if start < o.2 then some o.1 else active
  | none => active

/-- What holds make of a core cycle of a circuit (R226): from the start of each hold on, 256 beats later. -/
def heldCycle (held : List Nat) (cyc : Nat) : Nat := held.foldl (fun c h => if 8 * h ≤ c then c + 2048 else c) cyc

/-- A leg as the Drover fetches it. -/
structure Fetched where
  bits : Nat
  /-- the core cycle it issues in -/
  cyc : Nat
  /-- the Waystation address of its image -/
  base : Nat
  deriving DecidableEq, Repr

/-- The leg that the Drover fetches for a context (R272, R273, R278): ISSUE counts from its circuit's start, and holds move it. -/
def legFetched (s : State) (ctx : LegCtx) : Option Fetched :=
  (legCirc s ctx).bind fun c => (legBase s ctx c.start).bind fun base =>
    (fetchLeg s (physOf s ctx.core) base ctx.leg.toNat).map fun bits =>
      { bits := bits, cyc := heldCycle c.held (8 * c.start + issueOf bits), base := base }

/-- The state at a core cycle: its beat has come, and every effect due by the cycle has come about. -/
def atCycle (s : State) (cyc : Nat) : State := landDue (advanceTo s (cyc / 8)) cyc

/-- Whether the Drover has issued the leg (R279). -/
def legDone (s : State) (ctx : LegCtx) : Bool := (getCore s (physOf s ctx.core)).issued.contains (ctx.eng.val, ctx.circuit, ctx.leg.toNat)

/-- The state in which a leg acts: its issue cycle has come, and the Drover has noted it. -/
def atLeg (s : State) (ctx : LegCtx) (cyc : Nat) : State :=
  modCore (atCycle s cyc) (physOf s ctx.core) fun c => { c with issued := c.issued ++ [(ctx.eng.val, ctx.circuit, ctx.leg.toNat)] }

/-- Act on a leg at its issue cycle, if the Drover issues it: the image holds it, and its beat has not passed (log 36). A fetched leg that R273
does not give is a schedule fault (R274). -/
def onLeg (s : State) (ctx : LegCtx) (b : LegBody) (act : State → Nat → State) : State :=
  match legFetched s ctx with
  | none => s
  | some f =>
    if s.alm.beat.toNat ≤ f.cyc / 8 ∧ legIssues (atCycle s f.cyc) ctx ∧ legDone s ctx = false then
      if legMalformed s (physOf s ctx.core) f.base f.bits then legFault (atLeg s ctx f.cyc) ctx 2
      else if legSpelt s (physOf s ctx.core) f.base f.bits b then act (atLeg s ctx f.cyc) f.cyc
      else s
    else s

/-- Change the consignment a leg works for. -/
def modCons (s : State) (ctx : LegCtx) (f : QEntry → QEntry) : State :=
  match legCirc s ctx with
  | some c => modQ s c.consignor c.qslot.toNat f
  | none => s

/-- The consignment that consumed poison completes with INTEGRITY (R331); a stronger status stands (R543). -/
def consPoison (s : State) (ctx : LegCtx) : State :=
  modCons s ctx fun q => if q.st = .ended then q else { q with status := worse q.status stIntegrity }

/-! ## Itinerary banks (R272, R278) -/

/-- Whether the image at a Waystation address has the CRC its header gives (R272). -/
def imageCrcOk (s : State) (p base len : Nat) : Bool :=
  decide (64 ≤ len) && crc32 (wsBytes s p (base + 64) (len - 64)) == wsWord s p (base + 16)

/-- Write a plan's images into the standby banks; cores it leaves lose their itinerary at the swap. -/
def loadStandby (s : State) (e : Fin 64) (pl : Plan) : State :=
  let s1 := { s with cores := s.cores.map fun c =>
    { c with itins := c.itins.map fun i => if i.eng = e then { i with remove := true } else i } }
  forEach pl.itins s1 fun s it =>
    modCore s (physOf s it.core) fun c =>
      if c.itins.any fun i => i.eng == e then
        { c with itins := c.itins.map fun i => if i.eng = e then { i with remove := false, standby := some (it.base, it.len) } else i }
      else { c with running := !c.dead, itins := c.itins ++ [{ eng := e, base := 0, len := 0, standby := some (it.base, it.len) }] }

/-- Keep an engagement's active image for the circuits that started before now (R278). -/
def keepOld (now e : Nat) (i : Itin) (c : Core) : Core := if 0 < i.len then { c with oldImage := sput c.oldImage e (i.base, now) } else c

/-- One core switches an engagement's banks: the standby image becomes active, its CRC checked, or the core loses its itinerary. -/
def swapCore (e : Nat) (s : State) (p : Nat) : State :=
  match (getCore s p).itins.find? fun i => i.eng.val == e with
  | some i =>
    let s0 := modCore s p (keepOld s.alm.beat.toNat e i)
    if i.remove then modCore s0 p fun c => { c with itins := c.itins.filter fun i => i.eng.val != e }
    else match i.standby with
      | some (b, n) =>
        let s1 := modCore s0 p fun c => { c with itins := c.itins.map fun i => if i.eng.val = e then { i with base := b, len := n, standby := none } else i }
        if imageCrcOk s1 p b n then s1 else recordFault s1 p 8 e 0
      | none => s
  | none => s

/-- SWAPPEND of every core after a swap. -/
def recomputePend (s : State) : State :=
  { s with cores := s.cores.map fun c => { c with swapPend := c.itins.any fun i => (getEng s i.eng).swapAt.isSome } }

/-- The pages a plan names on a physical core. -/
def planPages (s : State) (pl : Plan) (p : Nat) : List Nat :=
  pl.wsPages.flatMap fun w => if physOf s w.1 = p then (List.range w.2.2).map (w.2.1 + ·) else []

/-- The beat by which the legs of an engagement's circuits under way are done. -/
def lastLegBeat (s : State) (e : Nat) : Nat := ((getEng s e).circuits.map Circ.endBeat).foldl max 0

/-- The Waystation pages of a plan become the engagement's; the others it held return, once the legs of its older circuits are done (R278,
R297, R396). -/
def takePages (s : State) (e : Nat) (pl : Plan) : State :=
  forEach (List.range 34) s fun s p =>
    modCore s p fun c =>
      { c with pageOwner := (planPages s pl p).foldl (fun m a => sput m a e) (c.pageOwner.filter fun x => x.2 != e)
               pageOld := (c.pageOwner.filter fun x => x.2 == e && !(planPages s pl p).contains x.1).foldl
                 (fun m x => sput m x.1 (e, lastLegBeat s e)) c.pageOld }

/-- The tracker histories go with a switch of plans (R201). -/
def carryTrackers (s : State) (e : Nat) (p : Plan) : State :=
  match curPlan (getEng s e) with | some q => moveTrackers s e q p | none => s

/-- The engagement's next plan becomes its plan: the shadow plan beside the original one, any other in its place. -/
def takePlan (s0 : State) (e : Nat) : State :=
  match (getEng s0 e).nextPlan with
  | none => s0
  | some p =>
    let s := carryTrackers s0 e p
    let g := getEng s e
    if g.st = .shadow ∧ g.nextSt = none then
      modEng s e fun g =>
        { g with nextPlan := none, oldPlan := g.plan.map fun q => (q, s.alm.beat.toNat), shadowPlan := some p, pShadow := p.period * 256, anchorSh := p.anchor }
    else
      modEng (takePages s e p) e fun g =>
        { g with nextPlan := none, oldPlan := (curPlan g).map fun q => (q, s.alm.beat.toNat), plan := some p, shadowPlan := none, pShadow := 0, period := p.period * 256, anchor := p.anchor }

/-- The state the swap brings (R386); a takeover ends with the last engagement it returns. -/
def takeState (s : State) (e : Nat) : State :=
  match (getEng s e).nextSt with
  | none => s
  | some .free => s
  | some .resident => retireEng s e
  | some st =>
    let s1 := modEng s e fun g =>
      { g with st := st, nextSt := none, takeover := false, replacing := false, pShadow := if st = .ready then 0 else g.pShadow,
               shadowPlan := if st = .ready then none else g.shadowPlan }
    tidyTakeover s1

/-- UNFENCE_CORE replies after the swap beat of the last engagement that returns to the core (R405). -/
def finishUnfence (s : State) : State :=
  forEach (recsWhere s fun r => r.opcode == 0x41 && (strandedEngs s r.eng).all fun e => (getEng s e).swapAt.isNone) s fun s x => finishRec s x.1 x.2 stOk []

/-- Whether a swap that returns an engagement to its circuits waits: no circuit starts on an uncalibrated deck (R122, R499). -/
def swapWaits (s : State) (e : Nat) : Bool := (getEng s e).nextSt == some .ready && !decksReady s e

/-- The first circuit start at or after a beat. -/
def startAfter (g : Eng) (x : Nat) : Nat :=
  if engPeriod g = 0 ∨ x ≤ engAnchor g then max x (engAnchor g) else engAnchor g + cdiv (x - engAnchor g) (engPeriod g) * engPeriod g

/-- BANK_SWAP (R278): at the first circuit start at or after the swap beat every Drover of the engagement switches. -/
def swapBanks (s : State) (e : Nat) : State :=
  let g := getEng s e
  match g.swapAt with
  | none => s
  | some x =>
    let s1 := retireCircuits (advanceTo s (if g.st = .resident then x.toNat else startAfter g x.toNat)) e
    if swapWaits s1 e then nameSwap s1 e (nextEpoch s1) else
    let s2 := forEach (List.range 34) s1 (swapCore e)
    let s3 := modEng s2 e fun g => { g with swapAt := none, live0 := false, bound := g.nextBound.getD g.bound, nextBound := none, swapWith := none }
    if g.nextSt = some .free then recomputePend (finishRelease s3 e)
    else finishUnfence (recomputePend (takeState (takePlan s3 e) e))

def execBankSwap (eng : Fin 64) (s : State) : Host.Outcome State Fault Refusal := .next (swapBanks s eng)

/-! ## The watchdog (R279, R295) -/

/-- Whether a Drover owes an acknowledgement: a live circuit of an engagement it holds started 64 beats ago, and it has not acknowledged it. -/
def ackMissing (s : State) (core e : Nat) : Bool :=
  let c := getCore s (physOf s core)
  (c.itins.any fun i => i.eng.val == e) &&
    (getEng s e).circuits.any fun x => x.live && decide (x.start + 64 ≤ s.alm.beat.toNat) && !c.acks.contains (e, x.k)

/-- Whether a leg of a circuit that the Drover acknowledged has not issued two periods after the circuit's start. -/
def legMissing (s : State) (core e leg : Nat) : Bool :=
  let p := physOf s core
  let c := getCore s p
  let g := getEng s e
  c.acks.any fun a => a.1 == e && decide (circuitBeat g a.2 + 2 * engPeriod g ≤ s.alm.beat.toNat) && !c.issued.contains (e, a.2, leg) &&
    c.itins.any fun i => i.eng.val == e && decide (0 < i.len) && (fetchLeg s p i.base leg).isSome

/-- The Almanac fires the watchdog of a core (R279): cause 4, with the engagement and leg it names. -/
def watchdog (s : State) (core : Nat) (e : Nat) (leg : BitVec 16) : State :=
  if coreRuns s core && (ackMissing s core e || legMissing s core e leg.toNat) then recordFault s (physOf s core) 4 e leg else s

def execDroverWatchdog (core : Fin 32) (eng : Fin 64) (leg : BitVec 16) (s : State) : Host.Outcome State Fault Refusal :=
  .next (watchdog s core eng leg)

/-! ## Holds (R226, R285, R286) -/

/-- The beat nearest to the count whose bits [23:0] are `h`. -/
def nearBeat (b h : Nat) : Nat :=
  let base := b / epochBeats * epochBeats + h
  if b + 2 ^ 23 < base ∧ epochBeats ≤ base then base - epochBeats else if base + 2 ^ 23 < b then base + epochBeats else base

/-- A HOLD notice: its first copy is forwarded on every other tree port and scheduled for its beat H; notices with the same H are one hold
(R286), and one whose H has passed starts none. -/
def holdNotice (s : State) (from_ : Option (Fin 8)) (body : Nat) : State :=
  let e := bitsOf body 0 6
  let h := nearBeat s.alm.beat.toNat (bitsOf body 6 24)
  let g := getEng s e
  if g.holds.contains (BitVec.ofNat 64 h) ∨ h < s.alm.beat.toNat ∨ (g.circuits.any fun c => c.held.contains h) then s
  else
    let s1 := modEng s e fun g => { g with holds := insertBy BitVec.toNat (BitVec.ofNat 64 h) g.holds }
    forEach ((treePorts s1).filter fun p => from_.all fun q => q.val != p) s1 fun s p => sendCtrl s p 3 (ctrlWord 2 (bitsOf body 0 30))

def execHold (port : Option (Fin 8)) (body : BitVec 60) (s : State) : Host.Outcome State Fault Refusal :=
  .next (holdNotice s port body.toNat)

/-- A hold of beat `h` meets a circuit (R226): one that has not started starts 256 beats later, and the legs still to issue of one under way
issue 256 beats later. -/
def holdCirc (h : Nat) (c : Circ) : Circ :=
  if h ≤ c.start then { c with start := c.start + 256, endBeat := c.endBeat + 256 }
  else if h < c.endBeat then { c with held := c.held ++ [h], endBeat := c.endBeat + 256 } else c

/-- A hold moves the blocks still to come of an attention leg under way (R229, log 126). -/
def holdFlight (e h : Nat) (f : Flight) : Flight :=
  match f.what with
  | .attend d cyc j run =>
    if f.ctx.eng.val = e ∧ 8 * h ≤ f.due then { f with due := f.due + 2048, what := .attend d (cyc + 2048) j run } else f
  | _ => f

/-- Whether a core runs an attention leg of an engagement. -/
def attending (s : State) (e p : Nat) : Bool :=
  s.flights.any fun f => f.core == p && f.ctx.eng.val == e && (match f.what with | .attend .. => true | _ => false)

/-- A hold on one core: HOLDING, the deadlines of the engagement's fetches, and the engines its attention leg keeps. -/
def holdCore (s : State) (e h p : Nat) : State :=
  let a := attending s e p
  modCore s p fun c =>
    { c with holdUntil := if c.itins.any fun i => i.eng.val == e then BitVec.ofNat 64 (h + 256) else c.holdUntil
             reads := c.reads.map fun r => if r.eng.val = e ∧ !r.sampled then { r with dl := r.dl + 256 } else r
             meFree := if a then c.meFree + 2048 else c.meFree
             vecFree := if a then c.vecFree + 2048 else c.vecFree }

/-- A hold moves the read windows of the engagement's fetches, and their staging space with them (R310, R315). -/
def holdReads (s : State) (e : Nat) : State :=
  let ids := s.cores.toList.flatMap fun c => (c.reads.filter fun r => r.eng.val == e && !r.sampled).map fun r => r.id
  { s with prt := { s.prt with rdHeld := s.prt.rdHeld.map fun h => if ids.contains h.id then { h with last := h.last + 256 } else h } }

/-- A hold begins (R226, R229, R285, R286): the anchor, the circuits, the deadlines and every later H move by 256 beats. -/
def startHold (s : State) (e : Nat) : State :=
  match (getEng s e).holds with
  | [] => s
  | h :: r =>
    let s1 := advanceTo s h.toNat
    if (getEng s1 e).st = .free then modEng s1 e fun g => { g with holds := r }
    else
      let s2 := modEng s1 e fun g =>
        { g with holds := r.map (· + 256), anchor := g.anchor + 256, anchorSh := g.anchorSh + 256,
                   movedAt := (g.movedAt.filter fun x => decide (h.toNat ≤ x.toNat + 4096)) ++ [h], circuits := g.circuits.map (holdCirc h.toNat) }
      let s3 := forEach (List.range 34) (holdReads s2 e) fun s p => holdCore s e h.toNat p
      { s3 with flights := s3.flights.map (holdFlight e h.toNat) }

def execHoldStart (eng : Fin 64) (s : State) : Host.Outcome State Fault Refusal := .next (startHold s eng)

end Sys2Proof.Machine
end

