-- ==== Sys2Proof/Machine/Toll.lean ====
section
/-! DEFINITION. Toll units: the tiles that admitted itineraries have striking in a beat (R21, R108, R110, R538). -/

namespace Sys2Proof.Machine

/-- The engagements whose itineraries are admitted, but for those named. -/
def admitted (s : State) (but : List Nat) : List Nat :=
  (List.range 64).filter fun e =>
    let g := getEng s e
    !but.contains e && (g.st == .loading || g.st == .ready || g.st == .shadow || g.st == .suspended) && (curPlan g).isSome

/-- A number of uses of something, repeated every `per` from `start` on, each for `len`. -/
structure Load where
  start : Nat
  len : Nat
  count : Nat
  per : Nat
  deriving DecidableEq, Repr

/-- The tiles that a plan's legs have striking, in beats (R63). -/
def strikeLoads (pl : Plan) (anchor period : Nat) : List Load :=
  pl.itins.flatMap fun it => it.legs.filterMap fun l =>
    match l.body with
    | .strike k => some { start := anchor + l.issue / 8 + 2, len := awPlanes k.aw * k.slot.toNat, count := (maskTiles k.tmask).length, per := period }
    | _ => none

/-- What loads come to at `b`, in circuits that repeat for ever over the hyperperiod `h`; a load longer than its period meets itself. -/
def loadAt (h b : Nat) (us : List Load) : Nat :=
  (us.map fun u =>
    let x := (b + h * u.per - u.start % max 1 u.per) % max 1 u.per
    u.count * if x < u.len then 1 + (u.len - 1 - x) / max 1 u.per else 0).sum

def loadHyper (us : List Load) : Nat := us.foldl (fun m u => Nat.lcm m (max 1 u.per)) 1

/-- The points of a hyperperiod at which loads begin. -/
def loadStarts (h : Nat) (us : List Load) : List Nat :=
  us.flatMap fun u => (List.range (h / max 1 u.per)).map fun i => (u.start + i * u.per) % h

/-- What an engagement may have to find room for: one list of loads for its present plan, and one for each plan that a swap or a return can bring. -/
abbrev Loads := List (List Load)

/-- What engagements come to at `b`, each with the plan that takes most. -/
def claimAt (h b : Nat) (gs : List Loads) : Nat := (gs.map fun g => (g.map (loadAt h b)).foldl max 0).sum

/-- The most that engagements come to. -/
def claimPeak (gs : List Loads) : Nat :=
  let all := gs.flatMap List.flatten
  let h := loadHyper all
  ((loadStarts h all).map fun b => claimAt h b gs).foldl max 0

/-- The plans an engagement can run: its present one, the next one that is named, and the original one beside a shadow plan (R21, R278, R402), with
their periods and anchors. -/
def engPlans (g : Eng) : List (Nat × Nat × Plan) :=
  (match curPlan g with | some p => [(engPeriod g, engAnchor g, p)] | none => []) ++
    (match g.nextPlan with | some p => [(p.period * 256, p.anchor.toNat, p)] | none => []) ++
    (if g.st = .shadow then (match g.plan with | some p => [(g.period, g.anchor.toNat, p)] | none => []) else [])

def engLoads (s : State) (e : Nat) : Loads := (engPlans (getEng s e)).map fun x => strikeLoads x.2.2 x.2.1 x.1

/-- The tiles that admitted itineraries have striking in a beat (R110). -/
def tollAt (s : State) (b : Nat) : Nat :=
  let gs := (admitted s []).map (engLoads s)
  claimAt (loadHyper (gs.flatMap List.flatten)) b gs

/-- The largest number of Toll units that admitted itineraries reserve in any beat (R538). -/
def tollPeak (s : State) : Nat := claimPeak ((admitted s []).map (engLoads s))

end Sys2Proof.Machine
end

