-- ==== Sys2Proof/Machine/Fallow.lean ====
section
/-! DEFINITION. Fallow time: the beats that itineraries take of a tile, by the schedule that admission sees and by the circuits that carry
work now (R108–R112, R131, R277, R393). -/

namespace Sys2Proof.Machine

/-! ## Runs of beats -/

/-- A run of beats: the first, and the one after the last. -/
abbrev Run := Nat × Nat

/-- Runs in ascending order of their first beats, those that touch joined. -/
def mergeRuns : Option Run → List Run → List Run
  | none, [] => []
  | some x, [] => [x]
  | none, y :: r => mergeRuns (some y) r
  | some x, y :: r => if y.1 ≤ x.2 then mergeRuns (some (x.1, max x.2 y.2)) r else x :: mergeRuns (some y) r

def joinRuns (l : List Run) : List Run := mergeRuns none (sortBy (fun (x : Run) => x.1) (l.filter fun x => decide (x.1 < x.2)))

/-- What joined runs leave of the beats from `a` to before `b`. -/
def gapsIn : Nat → Nat → List Run → List Run
  | a, b, [] => if a < b then [(a, b)] else []
  | a, b, x :: r => (if a < min x.1 b then [(a, min x.1 b)] else []) ++ gapsIn (max a x.2) b r

/-- What runs `vs` leave of runs `us`. -/
def cutRuns (us vs : List Run) : List Run := us.flatMap fun u => gapsIn u.1 u.2 (joinRuns vs)

/-- The beats of runs that lie from `a` to before `b`. -/
def beatsIn (a b : Nat) (us : List Run) : Nat := (us.map fun u => min b u.2 - max a u.1).sum

/-- The runs of beats that legs of one circuit take, in every circuit of the first `n` hyperperiods `h`; circuits repeat for ever (R108). -/
def everyCircuit (n h per anchor : Nat) (bs : List (Nat × Nat)) : List Run :=
  bs.flatMap fun b => (List.range ((n + 2) * h / per)).map fun i =>
    let x := (anchor + b.1) % per + i * per
    (x - 2 * h, min (n * h) (x + b.2 - 2 * h))

/-! ## What legs take of a tile (R82, R108, R109) -/

/-- The outputs each ADC converts per plane on a planned deck, m (R62). -/
def planFloor (pl : Plan) (core string tile deck : Nat) : Nat :=
  match pl.decks.find? fun d => logicalDeck d.addr == deckNum core string tile deck with
  | some d => fmtFloor d.fmt
  | none => 1

def strikesTile (string tile : Nat) (k : StrikeLeg) : Bool := k.string.toNat == string && bitOf k.tmask.toNat tile
def selectsTile (string tile : Nat) (k : SelectLeg) : Bool := k.string.toNat == string && bitOf k.tmask.toNat tile

/-- The input-stage, slot and deck-switch beats of a leg on a tile, from its circuit's start: first beat and count. -/
def legTileBeats (string tile : Nat) (l : Leg) : List (Nat × Nat) :=
  match l.body with
  | .strike k => if strikesTile string tile k then [(l.issue / 8, 2 + awPlanes k.aw * k.slot.toNat)] else []
  | .select k => if selectsTile string tile k then [(l.issue / 8, 4)] else []
  | _ => []

/-- The share and conversion beats of a leg on a tile: after the slot of each plane (R82). -/
def legConvBeats (pl : Plan) (core string tile : Nat) (l : Leg) : List (Nat × Nat) :=
  match l.body with
  | .strike k => if strikesTile string tile k then
      (List.range (awPlanes k.aw)).map fun i => (l.issue / 8 + 2 + (i + 1) * k.slot.toNat, 1 + planFloor pl core string tile k.deck)
    else []
  | _ => []

/-- The legs of a plan on a core. -/
def coreLegs (pl : Plan) (core : Nat) : List Leg := pl.itins.flatMap fun it => if it.core.val = core then it.legs else []

/-- Circuits of an engagement as they repeat: period, anchor and plan. -/
structure Sched where
  per : Nat
  anchor : Nat
  plan : Plan
  deriving DecidableEq, Repr

/-- The hyperperiod (R281). -/
def hyperOf (ps : List Sched) : Nat := ps.foldl (fun m x => Nat.lcm m (max 1 x.per)) 1

def schedTile (ps : List Sched) (n : Nat) (f : Plan → Leg → List (Nat × Nat)) (core : Nat) : List Run :=
  ps.flatMap fun x => everyCircuit n (hyperOf ps) (max 1 x.per) x.anchor ((coreLegs x.plan core).flatMap (f x.plan))

/-- The beats of a tile that are not fallow, in `n` hyperperiods. -/
def busyRuns (ps : List Sched) (n core string tile : Nat) : List Run := joinRuns (schedTile ps n (fun _ => legTileBeats string tile) core)

/-- The beats of a tile with a share or a conversion. -/
def convRuns (ps : List Sched) (n core string tile : Nat) : List Run := joinRuns (schedTile ps n (fun p => legConvBeats p core string tile) core)

/-- The schedule of an engagement's present plan. -/
def engSched (s : State) (e : Nat) : List Sched :=
  let g := getEng s e
  match curPlan g with
  | some p => [{ per := engPeriod g, anchor := engAnchor g, plan := p }]
  | none => []

/-- The longest run of fallow beats of a logical tile over the hyperperiod; 0xFFFF where nothing takes a beat of it (R131, R393). -/
def fallowRun (s : State) (core string tile : Nat) : Nat :=
  let ps := ((admitted s []).flatMap (engSched s)).filter fun x => decide (0 < x.per)
  match busyRuns ps 3 core string tile with
  | [] => 65535
  | us => min 65535 (((gapsIn 0 (3 * hyperOf ps) us).map fun g => g.2 - g.1).foldl max 0)

/-- Whether a tile's itineraries leave a run for a program loop (R131): 804 fallow beats. -/
def hasProgramRun (s : State) (core string tile : Nat) : Bool := decide (804 ≤ fallowRun s core string tile)

/-! ## Fallow beats at run time (R53, R109, R112, R277) -/

/-- What holds make of a beat of a circuit (R226). -/
def heldBeat (held : List Nat) (b : Nat) : Nat := held.foldl (fun x h => if h ≤ x then x + 256 else x) b

/-- The plan whose legs a circuit runs: a circuit that started before the last switch keeps the plan before it (R278). -/
def circPlan (g : Eng) (start : Nat) : Option Plan :=
  match g.oldPlan with
  | some o => if start < o.2 then some o.1 else curPlan g
  | none => curPlan g

/-- The circuits of an engagement that take beats of a core's tiles up to beat `b`: the live ones committed, whose start the Drover acknowledges if
it has come, and those not yet committed that will be live (R276, R277). -/
def busyCircs (s : State) (core e b : Nat) : List Circ :=
  let g := getEng s e
  let now := s.alm.beat.toNat
  let known := g.circuits.filter fun c =>
    c.live && decide (now < c.endBeat) && (decide (now < c.start) || (!g.staleStop && (getCore s (physOf s core)).acks.contains (e, c.k)))
  let next := match g.swapAt with | some x => g.nextSt == some .ready && decide (x.toNat < b) | none => false
  let coming := if (engLive g || next) && decide (0 < engPeriod g) && decide (now + 1024 < b) then
      (List.range (cdiv (b - engAnchor g) (engPeriod g))).filterMap fun k =>
        if now + 1024 ≤ circuitBeat g k ∧ circuitBeat g k < b ∧ (g.circuits.all fun c => c.k != k) then
          some { k := k, live := true, consignor := 0, qslot := 0, token := 0, epoch := 0, replay := false, start := circuitBeat g k }
        else none
    else []
  known ++ coming

/-- The runs that circuits carrying work take of a tile, as `f` counts a leg's beats, up to beat `b`; a plan that a named swap brings counts from its
swap beat on (R112). -/
def liveRuns (s : State) (f : Plan → Leg → List (Nat × Nat)) (core b : Nat) : List Run :=
  (List.range 64).flatMap fun e =>
    let g := getEng s e
    (busyCircs s core e b).flatMap fun c =>
      let next := match g.swapAt with | some x => if x.toNat ≤ c.start then g.nextPlan else none | none => none
      match (match next with | some p => some p | none => circPlan g c.start) with
      | some p => (coreLegs p core).flatMap fun l => (f p l).map fun r => (heldBeat c.held (c.start + r.1), heldBeat c.held (c.start + r.1) + r.2)
      | none => []

/-- Whether runs meet the beats from `a` to before `b`. -/
def runsMeet (us : List Run) (a b : Nat) : Bool := us.any fun u => decide (u.1 < b) && decide (a < u.2)

/-- The beats from now to before `b` that the tile's circuits or its own work take. -/
def takenRuns (s : State) (a : TileAddr) (b : Nat) : List Run :=
  let t := getTile s (tileKey s a)
  let now := s.alm.beat.toNat
  joinRuns ([(now, max t.workEnd t.assayEnd)] ++ t.strikes ++ (if switchingAt t now && t.switchBeat.toNat != t.workEnd then [(now, t.switchBeat.toNat + 4)] else []) ++
    liveRuns s (fun _ => legTileBeats a.string a.tile) a.core b)

/-- Whether the next `n` beats of a tile are fallow: no leg takes one of them, and no switch, strike or work of the Assayer's is under way. -/
def tileFallow (s : State) (a : TileAddr) (n : Nat) : Bool :=
  !runsMeet (takenRuns s a (s.alm.beat.toNat + n)) s.alm.beat.toNat (s.alm.beat.toNat + n)

/-- Whether a fallow beat `b` is clear for a deck that converts m outputs per ADC: beats b + 1 to b + 1 + m hold no share and no conversion (R109). -/
def tileClear (s : State) (a : TileAddr) (b m : Nat) : Bool :=
  !runsMeet (liveRuns s (fun p => legConvBeats p a.core a.string a.tile) a.core (b + 2 + m)) (b + 1) (b + 2 + m)

/-- Whether the Toll leaves a unit free in a beat (R110). -/
def tollFree (s : State) (b : Nat) : Bool := decide (tollAt s b < s.tol.units.toNat)

end Sys2Proof.Machine
end

