-- ==== Sys2Proof/Machine/Digital.lean ====
section
/-! DEFINITION. The legs of the matrix engine: MATRIX and ATTEND (R206–R215, R219–R223, R225, R282). -/

namespace Sys2Proof.Machine

/-- The matrix engine takes a leg until a core cycle, with its accesses to the Waystation. -/
def takeEngine (s : State) (p free : Nat) (use : List BankUse) : State :=
  takeBanks (modCore s p fun c => { c with meFree := free }) p use

/-- MATRIX (R211, R212): the leg is checked, then its output tiles follow one another through the array. -/
def matrixRun (s : State) (ctx : LegCtx) (d : MatrixDesc) : State :=
  onLeg s ctx (.matrix d) fun s cyc =>
    let p := physOf s ctx.core
    if !matrixOk d then legFault s ctx 2
    else if cyc < (getCore s p).meFree ∨ banksFree (getCore s p) (matrixUse d cyc) = false then legFault s ctx 1
    else match foreignRange s p ctx.eng (matrixRanges d) with
      | some r => foreignPage s ctx r.1 r.2
      | none => landDue (launch (takeEngine s p (cyc + 64 * d.kt * d.t) (matrixUse d cyc)) ctx cyc (.matrix d 0)) cyc

def execMatrix (ctx : LegCtx) (d : MatrixDesc) (s : State) : Host.Outcome State Fault Refusal := .next (matrixRun s ctx d)

/-- ATTEND (R219, R220): the leg has the matrix engine and the vector unit to itself; its blocks are taken one by one at their deadlines. -/
def attendRun (s : State) (ctx : LegCtx) (d : AttnDesc) : State :=
  onLeg s ctx (.attend d) fun s cyc =>
    let p := physOf s ctx.core
    let c := getCore s p
    if !attnOk d then legFault s ctx 2
    else if cyc < c.meFree ∨ cyc < c.vecFree ∨ banksFree c (attnUse d cyc) = false then legFault s ctx 1
    else match foreignRange s p ctx.eng (attnRanges d) with
      | some r => foreignPage s ctx r.1 r.2
      | none =>
        let fin := cyc + attnLatency d
        let s1 := modCore (takeEngine s p fin (attnUse d cyc)) p fun c => { c with vecFree := fin }
        landDue (launch s1 ctx cyc (.attend d cyc 0 (attnStart d))) cyc

def execAttend (ctx : LegCtx) (d : AttnDesc) (s : State) : Host.Outcome State Fault Refusal := .next (attendRun s ctx d)

end Sys2Proof.Machine
end

