-- ==== Sys2Proof/Machine/HostPort.lean ====
section
/-! DEFINITION. What the host does through its BARs to mailbox pages and the shared window, and PCIe events
(R352–R381, R412–R418). -/

namespace Sys2Proof.Machine

/-! ## Requests -/

/-- Whether memory requests are answered with Unsupported Request: from a cold or PERST_N reset until option loading
ends (R414, log 23), and with the device off. -/
def hostBlocked (s : State) : Bool := (inReset s && (s.rst.stCold || s.rst.perstSeen)) || s.pwr.st == 3

/-- Any TLP is a wake in Halt and Camp and aborts an entry (R514, R516). -/
def hostTouch (s : State) : State := if s.pwr.st = 3 then s else wake s 1 0

/-- A request that does not arrive on an IDE stream while the TDI is in RUN: Completer Abort, logged (R415). -/
def ideAbort (s : State) (addr : Nat) (src : Nat) (write : Bool) (req : BitVec 16) (cid : Nat) : State :=
  setResp (logViolation s { addr := BitVec.ofNat 32 addr, req := req, src := BitVec.ofNat 3 src, write := write, cid := BitVec.ofNat 5 cid })
    .completerAbort

/-- Whether a mailbox page is reachable that way: BAR2 holds the consignor pages only (R551). -/
def pageReachable (via : PageAccess) (page : Mb) : Bool :=
  match via with | .bar0 => true | .bar2 _ => decide (page.val < 16)

/-- The BAR offset of a page offset (R546, R551). -/
def pageOffset (via : PageAccess) (page : Mb) (off : Nat) : Nat :=
  match via with
  | .bar0 => if page.val = 16 then 0x100000 + off else 0x200000 + page.val * 0x10000 + off
  | .bar2 _ => page.val * 0x10000 + off

def pageSrc (via : PageAccess) : BitVec 3 := match via with | .bar0 => 0 | .bar2 _ => 1

/-- A violation through a mailbox page (R370, R550). -/
def pageViolation (s : State) (via : PageAccess) (page : Mb) (off : Nat) : State :=
  logViolation s { addr := BitVec.ofNat 32 (pageOffset via page off), req := Config.hostRequester, src := pageSrc via,
                   write := true, cid := BitVec.ofNat 5 page.val }

/-- A write to a mailbox page: refused during a reset, aborted outside IDE in RUN, ignored with ERR while CRST_BUSY
is 1 (R370), else carried out. -/
def pageWrite (s : State) (via : PageAccess) (page : Mb) (off : Nat) (act : State → State) : State :=
  if !pageReachable via page then s
  else if hostBlocked s then setResp s .unsupported
  else
    let s1 := hostTouch s
    if s1.cus.tdi = .run ∧ via = .bar2 false then ideAbort s1 (pageOffset via page off) 1 true Config.hostRequester page.val
    else if (getMb s1 page).crstBusy then setMbErr (pageViolation s1 via page off) page
    else act (setResp s1 .ok)

/-! ## Mailbox page registers -/

/-- MBX_IN_DB (R370, R376): PI advances up to WMARK + 64 and never moves backwards. -/
def mbxInDb (s : State) (via : PageAccess) (page : Mb) (value : Word) : State :=
  pageWrite s via page 0 fun s =>
    let p := getMb s page
    let new := fieldOf value 0 7
    let cur := (p.pi.toNat + 128 - p.wmark.toNat) % 128
    let d := (new + 128 - p.wmark.toNat) % 128
    if cur ≤ d ∧ d ≤ 64 then modMb s page fun p => { p with pi := BitVec.ofNat 7 new }
    else setMbErr (pageViolation s via page 0) page

def execMbxInDb (via : PageAccess) (page : Mb) (value : Word) (s : State) : Host.Outcome State Fault Refusal :=
  .next (mbxInDb s via page value)

/-- MBX_OUT_ACK (R353, R377): slots are freed for what is held. -/
def mbxOutAck (s : State) (via : PageAccess) (page : Mb) (value : Word) : State :=
  pageWrite s via page 4 fun s =>
    flushCompletions (modMb s page fun p => { p with ci := BitVec.ofNat 7 (fieldOf value 0 7) }) page

def execMbxOutAck (via : PageAccess) (page : Mb) (value : Word) (s : State) : Host.Outcome State Fault Refusal :=
  .next (mbxOutAck s via page value)

/-- Whether an inbound slot is posted (R356). -/
def slotPosted (p : MbPage) (slot : Nat) : Bool :=
  decide ((slot + 64 - p.wmark.toNat % 64) % 64 < (p.pi.toNat + 128 - p.wmark.toNat) % 128)

/-- A write into a ring: stored in a free inbound slot; a posted slot and the outbound ring are violations (R370). -/
def ringWrite (s : State) (via : PageAccess) (page : Mb) (outbound : Bool) (slot : Fin 64) (word : Fin 16) (value : Word) : State :=
  let off := (if outbound then 0x2000 else 0x1000) + slot.val * 64 + word.val * 4
  pageWrite s via page off fun s =>
    if outbound || slotPosted (getMb s page) slot then pageViolation s via page off
    else modMb s page fun p => { p with inRing := sset 0 p.inRing (slot.val * 16 + word.val) value }

def execInboundSlotWrite (via : PageAccess) (page : Mb) (outbound : Bool) (slot : Fin 64) (word : Fin 16) (value : Word)
    (s : State) : Host.Outcome State Fault Refusal := .next (ringWrite s via page outbound slot word value)

/-- CRST of MBX_CTL (R373, R379). -/
def mbxCrst (s : State) (via : PageAccess) (page : Mb) : State := pageWrite s via page 0xC fun s => startCrst s page

def execCrst (via : PageAccess) (page : Mb) (s : State) : Host.Outcome State Fault Refusal := .next (mbxCrst s via page)

/-- CLR_ERR of MBX_CTL (R379). -/
def mbxClrErr (s : State) (via : PageAccess) (page : Mb) : State :=
  pageWrite s via page 0xC fun s => modMb s page fun p => { p with err := false }

def execMbxClrErr (via : PageAccess) (page : Mb) (s : State) : Host.Outcome State Fault Refusal := .next (mbxClrErr s via page)

/-- Hand one granule to the device; in bounce mode Customs pulls its record (R365, R418). -/
def handOver (s : State) (k : Nat) : State :=
  let s1 := modGran s k fun g => { g with flag := granDevice, bad := false }
  if s1.cus.bounce then
    let r := bouncePull s1 k
    modGran r.1 k fun g => { g with bad := !r.2 }
  else s1

/-- MBX_GRAN_REQ (R370, R380): the whole run is HOST and assigned to the page, or the request is ignored whole. From
the privileged page any HOST granule may be handed over (log 11). -/
def mbxGranReq (s : State) (via : PageAccess) (page : Mb) (value : Word) : State :=
  pageWrite s via page 0x10 fun s =>
    let first := fieldOf value 0 16
    let n := fieldOf value 16 16 + 1
    let ks := (List.range n).map (first + ·)
    let ok (k : Nat) : Bool := decide (k < 65536) && (getGran s k).flag == granHost &&
      (page.val == 16 || (getGran s k).cid.toNat == page.val)
    if ks.all ok then forEach ks s handOver else setMbErr (pageViolation s via page 0x10) page

def execMbxGranReq (via : PageAccess) (page : Mb) (value : Word) (s : State) : Host.Outcome State Fault Refusal :=
  .next (mbxGranReq s via page value)

/-- The lowest free page of stacked memory. -/
def freePage (s : State) : Option Nat := match freePages s 1 with | some [p] => some p | _ => none

/-- MBX_GRAN (R364–R366, R381): NONE to HOST with a consignor, HOST to NONE, HOST to DEVICE; anything else is ignored. -/
def mbxGranWrite (s : State) (k : Nat) (value : Word) : State :=
  if hostBlocked s then setResp s .unsupported
  else
    let s := setResp (hostTouch s) .ok
    let flag := fieldOf value 0 2
    let cid := fieldOf value 2 5
    let g := getGran s k
    let j := k / 32
    if g.flag = granNone ∧ flag = 1 ∧ cid < 16 then
      match sfind s.granPage j, freePage s with
      | some _, _ => modGran s k fun _ => { flag := granHost, cid := BitVec.ofNat 5 cid }
      | none, some p => modGran { s with granPage := sput s.granPage j p } k fun _ => { flag := granHost, cid := BitVec.ofNat 5 cid }
      | none, none => setMbErr s 16
    else if g.flag = granHost ∧ flag = 0 then granTidy (modGran s k fun _ => {}) j
    else if g.flag = granHost ∧ flag = 2 then handOver s k
    else s

def execMbxGranWrite (granule : Fin 65536) (value : Word) (s : State) : Host.Outcome State Fault Refusal :=
  .next (mbxGranWrite s granule value)

/-- The end of a page's coalescing time (R363). -/
def coalesceExpiry (s : State) (page : Mb) : State :=
  let p := getMb s page
  if !p.coalRunning then s
  else if p.coalPending then fireVector (modMb s page fun p => { p with coalPending := false, coalRunning := decide (p.coal ≠ 0) }) page
  else modMb s page fun p => { p with coalRunning := false }

def execMsixCoalesceExpiry (page : Mb) (s : State) : Host.Outcome State Fault Refusal := .next (coalesceExpiry s page)

/-! ## BAR4 (R367, R370, R415–R417) -/

/-- Whether every granule of a range is HOST. -/
def rangeHost (s : State) (addr n : Nat) : Bool := (granulesOf addr n).all fun k => decide (k < 65536) && (getGran s k).flag == granHost

def bar4Violation (s : State) (addr : Nat) (write : Bool) (req : BitVec 16) : State :=
  logViolation s { addr := BitVec.ofNat 32 addr, req := req, src := 2, write := write, cid := 0x1F }

/-- A host read of the shared window: data, with EP set where it is poisoned (R331, R416); zeros in bounce mode. -/
def bar4Read (s : State) (addr : Word) (len : Nat) (ide : Bool) (req : BitVec 16) : State :=
  if hostBlocked s then setResp s .unsupported
  else
    let s := hostTouch s
    if s.cus.tdi = .run ∧ ide = false then ideAbort s addr.toNat 2 false req 0x1F
    else if !rangeHost s addr.toNat len then setResp (bar4Violation s addr.toNat false req) .completerAbort
    else if s.cus.bounce then setResp s (.data (List.replicate len 0))
    else
      let d := winRead s addr.toNat len
      if anyMark d then setResp (aerNonFatal s) (.poisoned (plainOf d)) else setResp s (.data (plainOf d))

def execBar4Read (addr : Word) (len : Nat) (ide : Bool) (req : BitVec 16) (s : State) : Host.Outcome State Fault Refusal :=
  .next (bar4Read s addr len ide req)

/-- A host write to the shared window (R367): stored in HOST granules; a poisoned TLP is discarded and reported (R416);
in bounce mode every write is discarded and logged (R417). -/
def bar4Write (s : State) (addr : Word) (data : List Byte) (ide poisoned : Bool) (req : BitVec 16) : State :=
  if hostBlocked s then setResp s .unsupported
  else
    let s := hostTouch s
    if s.cus.tdi = .run ∧ ide = false then ideAbort s addr.toNat 2 true req 0x1F
    else if poisoned then aerNonFatal (setResp s .discarded)
    else if !rangeHost s addr.toNat data.length then aerNonFatal (setResp (bar4Violation s addr.toNat true req) .discarded)
    else if s.cus.bounce then setResp (bar4Violation s addr.toNat true req) .discarded
    else winWrite (setResp s .ok) addr.toNat (markAll false data)

def execBar4Write (addr : Word) (data : List Byte) (ide poisoned : Bool) (req : BitVec 16) (s : State) :
    Host.Outcome State Fault Refusal := .next (bar4Write s addr data ide poisoned req)

/-! ## Unprivileged access and configuration -/

/-- An access from BAR2 to a -P register: Completer Abort for a read, a write discarded (R370). -/
def unprivileged (s : State) (offset : BitVec 26) (write : Bool) (req : BitVec 16) : State :=
  if hostBlocked s then setResp s .unsupported
  else
    setResp (logViolation (hostTouch s) { addr := BitVec.ofNat 32 offset.toNat, req := req, src := 1, write := write, cid := 0x1F })
      (if write then .discarded else .completerAbort)

def execUnprivilegedAccess (offset : BitVec 26) (write : Bool) (req : BitVec 16) (s : State) : Host.Outcome State Fault Refusal :=
  .next (unprivileged s offset write req)

/-- A configuration request: retried until option loading ends, then served; a write of the power state enters D0 or
D3hot (R412, R414). -/
def configAccess (s : State) (power : Option Bool) : State :=
  if s.pwr.st = 3 then setResp s .none
  else if hostBlocked s then setResp s .crs
  else
    let s1 := setResp (hostTouch s) .ok
    match power with
    | some d3 => { s1 with pcie := { s1.pcie with d3hot := d3 } }
    | none => s1

def execConfigRequest (power : Option Bool) (s : State) : Host.Outcome State Fault Refusal := .next (configAccess s power)

/-! ## FLR, hot reset, fatal error, TDI and IDE -/

/-- A Function Level Reset (R374, R496): during option loading it waits for the Factor with the consignor resets. -/
def flr (s : State) : State := resetConsignors (hostTouch s)

def execFlr (s : State) : Host.Outcome State Fault Refusal := .next (flr s)

/-- A hot reset acts on mailboxes and granules as an FLR does (R374, R489). -/
def hotReset (s : State) : State := resetConsignors (hostTouch s)

def execHotReset (s : State) : Host.Outcome State Fault Refusal := .next (hotReset s)

/-- A fatal error is reported through AER and acts as a hot reset; no engagement is reset (R416). -/
def fatalError (s : State) : State :=
  resetConsignors { s with pcie := { s.pcie with aerFatal := s.pcie.aerFatal + 1 } }

def execPcieFatalError (s : State) : Host.Outcome State Fault Refusal := .next (fatalError s)

/-- The TDI goes to ERROR: the tenant's session ends by a tenant switch (R415, R454). -/
def tdiError (s : State) : State := beginSwitch (wake { s with cus := { s.cus with tdi := .error } } 1 0)

def execTdiError (s : State) : Host.Outcome State Fault Refusal := .next (tdiError s)

/-- An IDE check fails: reported through AER, and a tenant switch begins (R415, R416). -/
def ideFailure (s : State) : State := beginSwitch (wake (aerNonFatal s) 1 0)

def execIdeFailure (s : State) : Host.Outcome State Fault Refusal := .next (ideFailure s)

end Sys2Proof.Machine
end

