-- ==== Sys2Proof/Machine/Registers.lean ====
section
/-! DEFINITION. The register map: what each register of the privileged view reads, what a write to it does, and the
clearing and locking registers (R545–R557 and each register's own rule). -/

namespace Sys2Proof.Machine

/-! ## Presented values -/

/-- The beat count as a reader sees it (R458). -/
def beatView (s : State) : Nat := if coarse s then s.alm.beat.toNat / 200 * 200 else s.alm.beat.toNat

/-- Whether registers from the core map and deck records still read 0 (R549). -/
def mapUnread (s : State) : Bool := inReset s && s.rst.stCold

def almCfgWord (s : State) : Word :=
  packWord [(s.alm.src.toNat, 0, 2), (s.alm.uport.toNat, 2, 3), (b2n s.alm.epinEn, 5, 1), (s.alm.epinDly.toNat, 6, 4),
    (b2n s.alm.epoutEn, 10, 1), (b2n s.alm.lock, 31, 1)]

def almStatWord (s : State) : Word :=
  packWord [(b2n s.alm.pllLock, 0, 1), (b2n s.alm.refOk, 1, 1), (b2n s.alm.holdover, 2, 1), (b2n s.alm.fallback, 3, 1),
    (b2n s.alm.aligned, 4, 1), (b2n s.alm.master, 5, 1), (s.alm.devnum.toNat, 6, 6), (s.alm.misalign.toNat, 16, 8),
    (s.alm.refloss.toNat, 24, 8)]

def rstCauseWord (s : State) : Word :=
  packWord [(s.rst.first.toNat, 0, 4), (b2n s.rst.cls, 4, 1), (b2n s.rst.olrestart, 5, 1), (b2n s.rst.vsbLost, 6, 1), (s.rst.seen.toNat, 16, 8)]

def rstCfgWord (s : State) : Word := packWord [(b2n s.rst.rstnCold, 0, 1), (b2n s.rst.routeEn, 1, 1), (b2n s.rst.lock, 31, 1)]

def pwrModeWord (s : State) : Word := packWord [(s.pwr.target.toNat, 0, 2), (b2n s.pwr.hzlWake, 2, 1), (s.pwr.epochs.toNat, 16, 16)]

def pwrStatWord (s : State) : Word :=
  packWord [(s.pwr.st.toNat, 0, 2), (b2n s.pwr.entering, 2, 1), (b2n s.pwr.exiting, 3, 1), (s.pwr.wake.toNat, 4, 3), (s.pwr.wakePort.toNat, 7, 3)]

def pwrRefuserWord (s : State) : Word :=
  packWord [(s.pwr.refUnit.toNat, 0, 4), (s.pwr.refTarget.toNat, 4, 2), (s.pwr.refEng.toNat, 6, 6), (b2n s.pwr.refEngValid, 12, 1)]

def pwrLockoutWord (s : State) : Word :=
  packWord [(s.pwr.lockPhys.toNat, 0, 6), (s.pwr.lockString.toNat, 6, 4), (s.pwr.lockCount.toNat, 16, 8)]

def tolCfgWord (s : State) : Word := packWord [(s.tol.units.toNat, 0, 12), (s.tol.limit.toNat, 12, 9), (b2n s.tol.lock, 31, 1)]

def tolStatWord (s : State) : Word :=
  packWord [(tempView s, 0, 8), (b2n s.tol.tempHi, 8, 1), (b2n s.tol.hot, 9, 1), (b2n s.tol.overLimit, 10, 1), (tollPeak s, 11, 12)]

/-- TOL_PWR; in confidential mode both fields are the 100 ms average rounded down to 5 W (R458, R539). -/
def tolPwrWord (s : State) : Word :=
  if coarse s then packWord [(s.tol.avg100.toNat / 20 * 20, 0, 12), (s.tol.avg100.toNat / 20 * 20, 12, 12)]
  else packWord [(s.tol.avg1.toNat, 0, 12), (s.tol.avg100.toNat, 12, 12)]

def smcStatWord (s : State) : Word := packWord [(s.smc.addr.toNat, 0, 7), (b2n s.smc.ready, 7, 1), (s.smc.eid.toNat, 8, 8)]
def smcCntWord (s : State) : Word := packWord [(s.smc.nackMap.toNat, 0, 16), (s.smc.pecErr.toNat, 16, 16)]

def facStatWord (s : State) : Word := packWord [(b2n s.fac.running, 0, 1), (b2n s.fac.pendingImg, 1, 1), (b2n s.cus.conf, 2, 1)]

def tenancyCode (t : Tenancy) : Nat := match t with | .none => 0 | .held => 1 | .switching => 2

def tenantStatWord (s : State) : Word :=
  packWord [(tenancyCode s.cus.tenancy, 0, 2), (b2n s.cus.conf, 2, 1), (b2n s.cus.bounce, 3, 1), (b2n (decide (s.cus.tdi = .run)), 4, 1),
    (b2n s.cus.swRec.isSome, 5, 1), (s.cus.scopes.toNat, 8, 4), (s.cus.switches.toNat, 16, 16)]

/-- The tile-deck a selector names (R143, R463); none where it names string 12–15. -/
def selectedDeck (v : Nat) : Option DeckAddr :=
  if bitsOf v 5 4 < 12 then
    some { core := Fin.ofNat 32 (bitsOf v 0 5), string := Fin.ofNat 12 (bitsOf v 5 4), tile := Fin.ofNat 16 (bitsOf v 9 4), deck := Fin.ofNat 4 (bitsOf v 13 2) }
  else none

def sealStatWord (s : State) : Word :=
  match selectedDeck s.cus.sealSel.toNat with
  | some a =>
    let d := getDeck s (deckKey s a)
    if mapUnread s then 0
    else packWord [(d.marks, 0, 6), (b2n (deckPublic d), 6, 1), (b2n (deckDone d && deckOpen d), 7, 1),
      (b2n (match d.header with | some h => s.cus.tenancy == .held && h.tenant == s.cus.tenantId.extractLsb' 0 128 | none => false), 8, 1)]
  | none => 0

def violLog0Word (s : State) : Word := match s.cus.viol with | v :: _ => v.addr | [] => 0

def violLog1Word (s : State) : Word :=
  match s.cus.viol with
  | v :: _ => packWord [(v.req.toNat, 0, 16), (v.src.toNat, 16, 3), (b2n v.write, 19, 1), (v.cid.toNat, 20, 5), (s.cus.viol.length, 25, 5),
      (b2n s.cus.violLost, 30, 1), (1, 31, 1)]
  | [] => packWord [(b2n s.cus.violLost, 30, 1)]

def bncLoWord (s : State) : Word := packWord [(b2n s.cus.bncEn, 0, 1), (s.cus.bncLo.toNat, 12, 20)]

def engStateIs (s : State) (p : EngState → Bool) : Nat := (s.engs.toList.filter fun g => p g.st).length

def ldgStatWord (s : State) : Word :=
  if mapUnread s then 0
  else packWord [(engStateIs s (fun t => t != .free && t != .resident), 0, 7), (engStateIs s (· == .resident), 7, 7),
    (s.ldg.spares.length, 14, 2), ((s.ldg.map.toList.filter mapFenced).length, 16, 6), (b2n s.ldg.placing, 22, 1), (b2n s.ldg.takeover, 23, 1)]

def ldgMapWord (s : State) (c : Nat) : Word :=
  let m := vget {} s.ldg.map c
  if mapUnread s then 0
  else packWord [(m.phys, 0, 6), (b2n (mapFenced m), 6, 1), (b2n m.out, 7, 1), (m.cause.toNat, 8, 4), (min m.unrep 255, 12, 8)]

/-- ASY_STAT (R141). The spec does not say what OPEN and WAITING read when more findings are held than 12 bits count: the model's choice is 4,095
(log 139). -/
def asyStatWord (s : State) : Word :=
  packWord [(min (findingsIn s 0) 4095, 0, 12), (min (findingsIn s 1) 4095, 12, 12), (b2n (!s.asy.outside.isEmpty), 24, 1)]

def asyCntWord (s : State) : Word := packWord [(s.asy.findings.toNat, 0, 16), (s.asy.unrep.toNat, 16, 8), (s.asy.late.toNat, 24, 8)]

/-- The deck and local output the coefficient selector names, if both exist (R143). An unused deck has no output count that a
selection could exceed: it reads what R501 and R549 give for a deck that was never calibrated (log 33). -/
def selectedOutput (s : State) : Option (Nat × Nat) :=
  match selectedDeck s.asy.coefSel.toNat with
  | some a =>
    let k := deckKey s a
    let o := bitsOf s.asy.coefSel.toNat 15 9
    if (getDeck s k).reg.fmt = .unused ∨ o < fmtOutputs (getDeck s k).reg.fmt then some (k, o) else none
  | none => none

def coefLoWord (s : State) : Word :=
  match selectedOutput s with
  | some (k, o) => packWord [((sget 0 (getDeck s k).beta o).toNat, 0, 12), ((sget 0 (getDeck s k).gamma o).toNat, 12, 16)]
  | none => 0

def coefHiWord (s : State) : Word :=
  match selectedOutput s with | some (k, o) => packWord [(unsign 20 (sget 0 (getDeck s k).colsum o), 0, 20)] | none => 0

/-- Beats in 62.5 ms (R145). -/
def ageUnit : Nat := 12500000

def deckCalWord (s : State) : Word :=
  match selectedOutput s with
  | some (k, _) =>
    let d := getDeck s k
    packWord [(d.tCal.toNat, 0, 9), (d.gtc.toNat, 9, 16), (b2n d.uncal, 25, 1),
      (if d.everCal then min 63 ((s.alm.beat.toNat - d.lastCal.toNat) / ageUnit) else 63, 26, 6)]
  | none => 0

def pgmStatWord (s : State) : Word :=
  packWord [((s.decks.filter fun d => deckActs s d.2).length, 0, 9), (b2n s.asy.thermInh, 9, 1),
    (min 65535 (s.decks.filter fun d => d.2.prog.isSome && !deckActs s d.2).length, 16, 16)]

def pgmCntWord (s : State) : Word := packWord [(s.asy.resumed.toNat, 0, 16), (s.asy.failRows.toNat, 16, 8), (s.asy.eraseFail.toNat, 24, 8)]

def rgnStatWord (s : State) : Word :=
  match sfind s.regions s.rgnSel.toNat with
  | some r => packWord [(r.fmt.toNat, 0, 4), (r.slot.toNat, 4, 2), (b2n r.kv, 6, 1), (b2n r.tblValid, 7, 1), (r.eng.toNat, 8, 6)]
  | none => 0

def rgnOvfWord (s : State) : Word :=
  match sfind s.regions s.rgnSel.toNat with
  | some r => BitVec.ofNat 32 (countView s r.ovfBlocks.length r.ovfBlocks.length)
  | none => 0

def prtStgWord (s : State) : Word :=
  packWord [(countView s (cdiv s.prt.rdMax 4096) (cdiv s.snap.prt.rdMax 4096), 0, 15), (countView s (cdiv s.prt.wrMax 4096) (cdiv s.snap.prt.wrMax 4096), 16, 15)]

def ptlStatWord (s : State) : Word :=
  packWord [(b2n s.ptl.stDone, 0, 1), (b2n (getStack s 0).stFail, 1, 1), (b2n (getStack s 1).stFail, 2, 1), (b2n s.ptl.inservice, 3, 1),
    ((getStack s 0).dgfail.toNat, 4, 10), ((getStack s 1).dgfail.toNat, 14, 10)]

/-- The oldest uncorrectable-error entry; PA[20:0] reads 0 in confidential mode (R458). -/
def ueLog0Word (s : State) : Word :=
  match s.ptl.ueLog with | u :: _ => BitVec.ofNat 32 (if coarse s then u.pa / 2 ^ 21 * 2 ^ 21 else u.pa) | [] => 0

def ueLog1Word (s : State) : Word :=
  match s.ptl.ueLog with
  | u :: _ => packWord [(u.pa / 2 ^ 32, 0, 4), (paStack u.pa, 4, 1), (bitsOf u.pa 9 4, 5, 4), (u.kind.toNat, 9, 2), (u.eng.toNat, 11, 6),
      (b2n u.owned, 17, 1), (s.ptl.ueLog.length, 18, 5), (b2n s.ptl.ueLost, 23, 1), (1, 31, 1)]
  | [] => packWord [(b2n s.ptl.ueLost, 23, 1)]

def ptlInjWord (s : State) : Word := packWord [(b2n s.ptl.injArm, 0, 1), (s.ptl.injStack.val, 1, 1), (s.ptl.injMask.toNat, 2, 10)]

/-- Page-data codewords of a stack (R319). -/
def stackWords : Nat := 322109440

/-- PTL_LAP; PROGRESS is rounded down to a multiple of 656 in confidential mode (R343, R458). -/
def lapWord (s : State) (i : Nat) : Word :=
  let k := getStack s i
  let prog := k.pos * 65536 / stackWords
  packWord [(countView s k.lapLast.toNat (vget {} s.snap.ptl.stack i).lapLast.toNat, 0, 16), (if coarse s then prog / 656 * 656 else prog, 16, 16)]

def bktCfgWord (s : State) (i : Nat) : Word :=
  let k := getStack s i
  packWord [(k.fill.toNat, 0, 4), (k.leak.toNat, 4, 8), (k.size.toNat, 12, 16)]

def bktStatWord (s : State) (i : Nat) : Word :=
  let k := getStack s i
  packWord [(countView s k.level (vget {} s.snap.ptl.stack i).level, 0, 16), (b2n k.ovf, 16, 1),
    (countView s k.ovfCnt.toNat (vget {} s.snap.ptl.stack i).ovfCnt.toNat, 24, 8)]

def ceWord (s : State) (i : Nat) : Word := BitVec.ofNat 32 (countView s (getStack s i).ce.toNat (vget {} s.snap.ptl.stack i).ce.toNat)

def ueWord (s : State) (i : Nat) : Word :=
  let k := getStack s i
  let z := vget {} s.snap.ptl.stack i
  packWord [(countView s k.ue.toNat z.ue.toNat, 0, 16), (countView s k.psn.toNat z.psn.toNat, 16, 16)]

def bstStatWord (s : State) : Word :=
  packWord [(b2n s.bst.busy, 0, 1), (b2n s.bst.susp, 1, 1), (b2n s.bst.opErase, 2, 1), (b2n s.bst.cmdErr, 3, 1), (b2n s.bst.opErr, 4, 1), (s.bst.sector.toNat, 16, 10)]

def bstEccStatWord (s : State) : Word :=
  packWord [(s.bst.lastCbc.toNat, 0, 3), (b2n s.bst.warn, 3, 1), (b2n s.bst.ue, 4, 1), (s.bst.ueCnt.toNat, 16, 16)]

def hzlRouteWord (s : State) : Word :=
  packWord [(s.hzl.devnum.toNat, 0, 6), (s.hzl.ndev.toNat, 6, 7), (s.hzl.parent.toNat, 13, 3), (b2n s.hzl.root, 16, 1), (s.hzl.children.toNat, 17, 8), (b2n s.hzl.lock, 31, 1)]

def portCode (p : PortState) : Nat := match p with | .down => 0 | .training => 1 | .up => 2 | .lost => 3 | .sleep => 4

def portStatWord (s : State) (i : Nat) : Word :=
  let p := getPort s i
  packWord [(portCode p.st, 0, 3), (b2n p.tree, 3, 1), (b2n p.upstream, 4, 1), (p.peer.toNat, 5, 6), (p.peerPort.toNat, 11, 3), (p.f.toNat, 14, 4), (p.d.toNat, 18, 5)]

def portErrWord (s : State) (i : Nat) : Word :=
  let p := getPort s i
  let z := vget {} s.snap.hzl.ports i
  packWord [(countView s p.ue.toNat z.ue.toNat, 0, 16), (countView s p.tagFail.toNat z.tagFail.toNat, 16, 8), (countView s p.lostCnt.toNat z.lostCnt.toNat, 24, 8)]

def portRtyWord (s : State) (i : Nat) : Word :=
  let p := getPort s i
  let z := vget {} s.snap.hzl.ports i
  packWord [(countView s p.nakCnt.toNat z.nakCnt.toNat, 0, 16), (countView s p.replay.toNat z.replay.toNat, 16, 16)]

/-! ## Core and tile windows -/

/-- A pair of counters of a core, low and high, as they read. -/
def corePair (s : State) (p : Nat) (lo hi : Core → Nat) (n : Nat) : Word :=
  let c := getCore s p
  let z := vget {} s.snap.cores p
  packWord [(countView s (lo c) (lo z), 0, 16), (countView s (hi c) (hi z), 16, n)]

/-- DRV_STAT of a core (R294). -/
def drvStatWord (s : State) (c : Core) : Word :=
  packWord [(c.itins.length, 0, 5), (b2n (decide (s.alm.beat.toNat < c.holdUntil.toNat)), 5, 1), (b2n c.swapPend, 6, 1), (b2n c.fValid, 7, 1)]

def drvFaultWord (c : Core) : Word := packWord [(c.fCause.toNat, 0, 4), (c.fEng.toNat, 4, 6), (b2n c.fValid, 10, 1), (c.fLeg.toNat, 11, 16)]

/-- Register `off` of the window of logical core `c`; 0 while the core is out of service, but for DRV_ registers
(R548). -/
def coreReg (s : State) (c off : Nat) : Word :=
  let p := physOf s c
  if isOut s c ∧ off ≠ 0x40 ∧ off ≠ 0x44 then 0
  else if off = 0x00 then corePair s p (·.cvtNan.toNat) (·.cvtSat.toNat) 16
  else if off = 0x08 then corePair s p (·.meSat.toNat) (·.meNan.toNat) 16
  else if off = 0x0C then corePair s p (·.attSubst.toNat) (·.attSkip.toNat) 16
  else if off = 0x10 then corePair s p (·.stallHolds.toNat) (·.stallGiveup.toNat) 8
  else if off = 0x20 then corePair s p (·.xOvf.toNat) (·.xCrc.toNat) 16
  else if off = 0x30 then corePair s p (·.prtLate.toNat) (·.prtTail.toNat) 16
  else if off = 0x40 then drvStatWord s (getCore s p)
  else if off = 0x44 then drvFaultWord (getCore s p)
  else 0

/-- The deck that is active at the present beat (R47, R48). -/
def activeDeck (s : State) (t : Tile) : Option (Fin 4) := activeAt t s.alm.beat.toNat

/-- Whether the tile is in beats b to b + 3 of a switch to the deck (R55). -/
def switchingTo (s : State) (t : Tile) (d : Nat) : Bool :=
  switchingAt t s.alm.beat.toNat && t.switchTo == some (Fin.ofNat 4 d)

/-- PROG (R55, R131): a program loop or a verify read of the deck is running. -/
def deckWorks (s : State) (t : Tile) (d : Nat) (k : Deck) : Bool :=
  !k.erasing && t.workDeck == some (Fin.ofNat 4 d) && decide (s.alm.beat.toNat < t.workEnd)

def deckStatWord (s : State) (t : Tile) (d : Nat) (k : Deck) : Word :=
  packWord [(fmtCode k.reg.fmt, 0, 2), (b2n (k.reg.programmed && !deckOpen k), 2, 1), (b2n (deckWorks s t d k), 3, 1),
    (b2n (activeDeck s t == some (Fin.ofNat 4 d)), 4, 1), (b2n (switchingTo s t d), 5, 1), (k.reg.eng.toNat, 6, 6), (b2n k.reg.owned, 12, 1),
    (k.reg.sparesUsed, 16, 7)]

def deckCycWord (s : State) (k z : Deck) : Word :=
  packWord [(countView s (min k.reg.cycles 0x3FFF) (min z.reg.cycles 0x3FFF), 0, 14), (b2n (decide (10000 ≤ k.reg.cycles)), 14, 1), (b2n k.reg.part, 15, 1)]

/-- Register `off` of the window of logical tile `t` (R547, R549). -/
def tileReg (s : State) (t off : Nat) : Word :=
  let c := t / 192
  let n := physOf s c * 192 + t % 192
  let d := off / 256
  let k := getDeck s (n * 4 + d)
  if isOut s c then 0
  else if off = 0x400 then BitVec.ofNat 32 (countView s (getTile s n).ovf.toNat (sget {} s.snap.tiles n).ovf.toNat)
  else if off = 0x404 then
    packWord [(countView s (getTile s n).dense.toNat (sget {} s.snap.tiles n).dense.toNat, 0, 16),
      (countView s (getTile s n).limit.toNat (sget {} s.snap.tiles n).limit.toNat, 16, 16)]
  else if 4 ≤ d then 0
  else if off % 256 = 0 then deckStatWord s (getTile s n) d k
  else if off % 256 = 4 then packWord [(k.reg.pmode.toNat, 0, 2)]
  else if off % 256 = 8 then deckCycWord s k (sget {} s.snap.decks (n * 4 + d))
  else if 0x80 ≤ off % 256 then sget 0 k.reg.spareMap ((off % 256 - 0x80) / 4)
  else 0

/-- Register `off` of a mailbox page (R352, R376–R379). -/
def pageReg (s : State) (mb off : Nat) : Word :=
  let p := getMb s mb
  if off = 0 then packWord [(p.pi.toNat, 0, 7)]
  else if off = 4 then packWord [(p.ci.toNat, 0, 7)]
  else if off = 8 then packWord [(p.wmark.toNat, 0, 7), (b2n s.fac.up, 7, 1), (p.outPi.toNat, 8, 7), (b2n p.crstBusy, 15, 1), (b2n p.err, 23, 1), (p.qepoch.toNat, 24, 8)]
  else if off = 0xC then packWord [(b2n p.crstBusy, 0, 1), (b2n p.irqEn, 1, 1), (p.coal.toNat, 8, 8)]
  else if 0x1000 ≤ off ∧ off < 0x2000 then sget 0 p.inRing ((off - 0x1000) / 4)
  else if 0x2000 ≤ off ∧ off < 0x3000 then sget 0 p.outRing ((off - 0x2000) / 4)
  else 0

/-- A device-wide register (R549). -/
def deviceReg (s : State) (off : Nat) : Word :=
  match off with
  | 0x0000 => almCfgWord s
  | 0x0004 => almStatWord s
  | 0x0008 => BitVec.ofNat 32 (beatView s)
  | 0x000C => s.alm.beatHi
  | 0x0010 => packWord [(s.alm.skewDiff.toNat, 0, 8), (s.alm.skewDelay.toNat, 8, 8)]
  | 0x1000 => s.rst.count
  | 0x1004 => rstCauseWord s
  | 0x100C => rstCfgWord s
  | 0x2000 => pwrModeWord s
  | 0x2004 => pwrStatWord s
  | 0x2008 => packWord [(s.pwr.refused.toNat, 0, 16), (s.pwr.aborted.toNat, 16, 16)]
  | 0x200C => pwrRefuserWord s
  | 0x2010 => pwrLockoutWord s
  | 0x3000 => tolCfgWord s
  | 0x3004 => tolStatWord s
  | 0x3008 => tolPwrWord s
  | 0x4000 => smcStatWord s
  | 0x4004 => smcCntWord s
  | 0x5000 => s.fac.ver
  | 0x5004 => s.fac.build
  | 0x5008 => facStatWord s
  | 0x6000 => tenantStatWord s
  | 0x6004 => packWord [(b2n s.cus.evict, 0, 1)]
  | 0x6008 => packWord [(s.cus.sealSel.toNat, 0, 15)]
  | 0x600C => sealStatWord s
  | 0x6010 => violLog0Word s
  | 0x6014 => violLog1Word s
  | 0x6018 => bncLoWord s
  | 0x601C => s.cus.bncHi
  | 0x7000 => packWord [(s.ldg.thr.toNat, 0, 4), (b2n s.ldg.lock, 31, 1)]
  | 0x7004 => ldgStatWord s
  | 0x8000 => packWord [(s.asy.interval.toNat, 0, 5), (b2n s.asy.lock, 31, 1)]
  | 0x8004 => asyStatWord s
  | 0x8008 => asyCntWord s
  | 0x800C => packWord [(s.asy.coefSel.toNat, 0, 24)]
  | 0x8010 => coefLoWord s
  | 0x8014 => coefHiWord s
  | 0x8018 => deckCalWord s
  | 0x801C => pgmStatWord s
  | 0x8020 => pgmCntWord s
  | 0x9000 => packWord [(s.rgnSel.toNat, 0, 12)]
  | 0x9004 => rgnStatWord s
  | 0x9008 => rgnOvfWord s
  | 0xA000 => prtStgWord s
  | 0xB000 => packWord [(s.ptl.rate.toNat, 0, 8)]
  | 0xB004 => ptlStatWord s
  | 0xB008 => ueLog0Word s
  | 0xB00C => ueLog1Word s
  | 0xB010 => ptlInjWord s
  | 0xC000 => bstStatWord s
  | 0xC004 => packWord [(s.bst.suspCnt.toNat, 0, 16), (s.bst.seg.toNat, 16, 16)]
  | 0xC008 => packWord [(s.bst.thr.toNat, 0, 3), (b2n s.bst.lock, 31, 1)]
  | 0xC00C => bstEccStatWord s
  | 0xC010 => packWord [(s.bst.eccWord.toNat, 5, 21)]
  | 0xD000 => hzlRouteWord s
  | _ => 0

/-- A per-stack register at offset `o` from its base (R549). -/
def stackReg (s : State) (i o : Nat) : Word :=
  if o = 0 then lapWord s i else if o = 4 then bktCfgWord s i else if o = 8 then bktStatWord s i
  else if o = 0xC then ceWord s i else if o = 0x10 then ueWord s i else 0

/-- A per-port register at offset `o` from its base. -/
def portReg (s : State) (i o : Nat) : Word :=
  if o = 0 then portStatWord s i else if o = 4 then portErrWord s i else if o = 8 then portRtyWord s i else 0

/-- What the register at a BAR0 offset reads; an offset that is not assigned reads 0 (R546). -/
def regRead (s : State) (off : Nat) : Word :=
  if 0x7100 ≤ off ∧ off < 0x7180 then ldgMapWord s ((off - 0x7100) / 4)
  else if 0xB100 ≤ off ∧ off < 0xB180 then stackReg s ((off - 0xB100) / 0x40) ((off - 0xB100) % 0x40)
  else if 0xD100 ≤ off ∧ off < 0xD200 then portReg s ((off - 0xD100) / 0x20) ((off - 0xD100) % 0x20)
  else if off < 0x10000 then deviceReg s off
  else if off < 0x10400 then msixWord s ((off - 0x10000) / 4)
  else if 0x11000 ≤ off ∧ off < 0x11008 then BitVec.ofNat 32 (bitsOf s.pcie.msixPba.toNat ((off - 0x11000) * 8) 32)
  else if 0x100000 ≤ off ∧ off < 0x110000 then pageReg s 16 (off - 0x100000)
  else if 0x200000 ≤ off ∧ off < 0x300000 then pageReg s ((off - 0x200000) / 0x10000) (off % 0x10000)
  else if 0x400000 ≤ off ∧ off < 0x440000 then
    let g := getGran s ((off - 0x400000) / 4)
    packWord [(g.flag.toNat, 0, 2), (g.cid.toNat, 2, 5)]
  else if 0x800000 ≤ off ∧ off < 0x820000 then coreReg s ((off - 0x800000) / 0x1000) (off % 0x1000)
  else if 0x1000000 ≤ off ∧ off < 0x1C00000 then tileReg s ((off - 0x1000000) / 0x800) (off % 0x800)
  else 0

/-! ## Locked fields (R553) -/

def writeAlmCfg (s : State) (v : Word) : State :=
  if s.alm.lock then s
  else { s with alm := { s.alm with src := if fieldOf v 0 2 = 3 then s.alm.src else BitVec.ofNat 2 (fieldOf v 0 2)
                                    uport := BitVec.ofNat 3 (fieldOf v 2 3), epinEn := flagOf v 5
                                    epinDly := BitVec.ofNat 4 (fieldOf v 6 4), epoutEn := flagOf v 10 } }

/-- HZL_ROUTE (R16, R433). The spec is silent on a write of NDEV 0 or above 64: the model's choice stores it (log 139). -/
def writeHzlRoute (s : State) (v : Word) : State :=
  if s.hzl.lock then s
  else { s with hzl := { s.hzl with devnum := BitVec.ofNat 6 (fieldOf v 0 6), ndev := BitVec.ofNat 7 (fieldOf v 6 7) } }

def writeCalCfg (s : State) (v : Word) : State :=
  let i := fieldOf v 0 5
  if s.asy.lock ∨ i = 0 ∨ 16 < i then s else { s with asy := { s.asy with interval := BitVec.ofNat 5 i } }

def writeLdgCfg (s : State) (v : Word) : State :=
  if s.ldg.lock then s else { s with ldg := { s.ldg with thr := BitVec.ofNat 4 (fieldOf v 0 4) } }

def writeEccCfg (s : State) (v : Word) : State :=
  let t := fieldOf v 0 3
  if s.bst.lock ∨ t = 0 ∨ 4 < t then s else bstMod s fun b => { b with thr := BitVec.ofNat 3 t }

def writeRstCfg (s : State) (v : Word) : State :=
  if s.rst.lock then s else { s with rst := { s.rst with rstnCold := flagOf v 0, routeEn := flagOf v 1 } }

def writeTolCfg (s : State) (v : Word) : State :=
  if s.tol.lock then s
  else
    let u := fieldOf v 0 12
    let l := fieldOf v 12 9
    { s with tol := { s.tol with units := if u = 0 ∨ 3072 < u then s.tol.units else BitVec.ofNat 12 u
                                 limit := if l = 0 ∨ 450 < l then s.tol.limit else BitVec.ofNat 9 l } }

/-- Write the lockable fields of a register. -/
def writeLockable (s : State) (r : LockReg) (v : Word) : State :=
  match r with
  | .almCfg => writeAlmCfg s v
  | .hzlRoute => writeHzlRoute s v
  | .asyCalCfg => writeCalCfg s v
  | .ldgCfg => writeLdgCfg s v
  | .bstEccCfg => writeEccCfg s v
  | .rstCfg => writeRstCfg s v
  | .tolCfg => writeTolCfg s v

/-- Set a register's LOCK. -/
def setLock (s : State) (r : LockReg) : State :=
  match r with
  | .almCfg => { s with alm := { s.alm with lock := true } }
  | .hzlRoute => { s with hzl := { s.hzl with lock := true } }
  | .asyCalCfg => { s with asy := { s.asy with lock := true } }
  | .ldgCfg => { s with ldg := { s.ldg with lock := true } }
  | .bstEccCfg => { s with bst := { s.bst with lock := true } }
  | .rstCfg => { s with rst := { s.rst with lock := true } }
  | .tolCfg => { s with tol := { s.tol with lock := true } }

/-- A write with bit 31 set loads the fields and then locks them; with bit 31 clear it only loads them. -/
def lockWrite (s : State) (r : LockReg) (v : Word) : State :=
  let s1 := writeLockable s r v
  if flagOf v 31 then setLock s1 r else s1

def lockSet (s : State) (r : LockReg) (v : Word) : State :=
  if hostBlocked s then setResp s .unsupported else lockWrite (setResp (hostTouch s) .ok) r v

def execLockSet (reg : LockReg) (value : Word) (s : State) : Host.Outcome State Fault Refusal := .next (lockSet s reg value)

/-! ## Other writes -/

def writeBktCfg (s : State) (i : Nat) (v : Word) : State :=
  modStack s i fun k =>
    { k with fill := if fieldOf v 0 4 = 0 then k.fill else BitVec.ofNat 4 (fieldOf v 0 4)
             leak := if fieldOf v 4 8 = 0 then k.leak else BitVec.ofNat 8 (fieldOf v 4 8)
             size := if fieldOf v 12 16 = 0 then k.size else BitVec.ofNat 16 (fieldOf v 12 16) }

/-- Remove the presented violation (R371, R384). -/
def removeViolation (s : State) : State :=
  match s.cus.viol with
  | _ :: r => { s with cus := { s.cus with viol := r, violLost := s.cus.violLost && !r.isEmpty } }
  | [] => s

/-- Remove the presented uncorrectable-error entry (R347). -/
def removeUe (s : State) : State :=
  match s.ptl.ueLog with
  | _ :: r => { s with ptl := { s.ptl with ueLog := r, ueLost := s.ptl.ueLost && !r.isEmpty } }
  | [] => s

/-- Re-arm a bucket's interrupt (R337). -/
def clearBucket (s : State) (i : Nat) : State := modStack s i fun k => { k with ovf := false }

/-- Arm an injection; ignored in confidential mode and while one is armed (R348). -/
def writeInj (s : State) (v : Word) : State :=
  if s.cus.conf || s.ptl.injArm then s
  else { s with ptl := { s.ptl with injArm := flagOf v 0, injStack := Fin.ofNat 2 (fieldOf v 1 1), injMask := BitVec.ofNat 10 (fieldOf v 2 10) } }

/-- EVICT begins a tenant switch and reads 1 until STATE is NONE (R462); with no tenant it does nothing (log 17). -/
def writeEvict (s : State) (v : Word) : State :=
  if flagOf v 0 && decide (s.cus.tenancy ≠ .none) then beginSwitch (wake { s with cus := { s.cus with evict := true } } 1 0) else s

/-- A keyed write starts a device reset, source 5; COLD takes precedence (R508). -/
def writeRstCtl (s : State) (v : Word) : State :=
  if fieldOf v 8 8 ≠ 0xC3 then s
  else if flagOf v 1 then beginReset s 5 true false false
  else if flagOf v 0 then beginReset s 5 false false false
  else s

/-- A counter clear whose increment of the same beat or cycle comes after it. -/
def clearCore (s : State) (c : Nat) (f : Core → Core) : State :=
  if isOut s c then s else modCore s (physOf s c) f

def clearTile (s : State) (t : TileAddr) (f : Tile → Tile) : State :=
  if isOut s t.core then s else modTile s (tileKey s t) f

/-- The clearing registers of a core window (R205, R235, R258, R317). -/
def writeCoreReg (s : State) (c off : Nat) (v : Word) : State :=
  clearCore s c fun k =>
    if off = 0x04 then { k with cvtNan := if flagOf v 0 then 0 else k.cvtNan, cvtSat := if flagOf v 1 then 0 else k.cvtSat }
    else if off = 0x14 then
      { k with meSat := if flagOf v 0 then 0 else k.meSat, meNan := if flagOf v 0 then 0 else k.meNan
               attSubst := if flagOf v 1 then 0 else k.attSubst, attSkip := if flagOf v 1 then 0 else k.attSkip
               stallHolds := if flagOf v 2 then 0 else k.stallHolds, stallGiveup := if flagOf v 2 then 0 else k.stallGiveup }
    else if off = 0x24 then { k with xOvf := if flagOf v 0 then 0 else k.xOvf, xCrc := if flagOf v 1 then 0 else k.xCrc }
    else if off = 0x34 then { k with prtLate := if flagOf v 0 then 0 else k.prtLate, prtTail := if flagOf v 1 then 0 else k.prtTail }
    else k

/-- Clear the recorded fault of a logical core (R295); allowed while the core is out of service (R548). -/
def clearDrvFault (s : State) (c : Nat) : State :=
  modCore s (physOf s c) fun k => { k with fValid := false, fCause := 0, fEng := 0, fLeg := 0 }

def writeTileReg (s : State) (t off : Nat) (v : Word) : State :=
  if off = 0x408 then
    if isOut s (t / 192) then s
    else modTile s (physOf s (t / 192) * 192 + t % 192) fun k =>
      { k with ovf := if flagOf v 0 then 0 else k.ovf, dense := if flagOf v 1 then 0 else k.dense, limit := if flagOf v 1 then 0 else k.limit }
  else s

/-- MBX_CTL (R379). -/
def writeMbxCtl (s : State) (page : Mb) (v : Word) : State :=
  let s1 := modMb s page fun p => { p with irqEn := flagOf v 1, coal := BitVec.ofNat 8 (fieldOf v 8 8), err := p.err && !flagOf v 2 }
  if flagOf v 0 then startCrst s1 page else s1

/-- A write to a mailbox page through BAR0. -/
def writePageReg (s : State) (page : Mb) (off : Nat) (v : Word) : State :=
  if off = 0 then mbxInDb s .bar0 page v
  else if off = 4 then mbxOutAck s .bar0 page v
  else if off = 0xC then pageWrite s .bar0 page 0xC fun s => writeMbxCtl s page v
  else if off = 0x10 then mbxGranReq s .bar0 page v
  else if 0x1000 ≤ off ∧ off < 0x3000 then
    ringWrite s .bar0 page (decide (0x2000 ≤ off)) (Fin.ofNat 64 (off / 64)) (Fin.ofNat 16 (off / 4)) v
  else s

/-- A device-wide register's write; read-only registers ignore it. -/
def writeDeviceReg (s : State) (off : Nat) (v : Word) : State :=
  match off with
  | 0x0000 => lockWrite s .almCfg v
  | 0x1008 => writeRstCtl s v
  | 0x100C => lockWrite s .rstCfg v
  | 0x3000 => lockWrite s .tolCfg v
  | 0x3004 => { s with tol := { s.tol with hot := s.tol.hot && !flagOf v 9, overLimit := s.tol.overLimit && !flagOf v 10 } }
  | 0x6004 => writeEvict s v
  | 0x6008 => { s with cus := { s.cus with sealSel := BitVec.ofNat 15 (fieldOf v 0 15) } }
  | 0x6014 => if flagOf v 31 then removeViolation s else s
  | 0x6018 => { s with cus := { s.cus with bncEn := flagOf v 0, bncLo := BitVec.ofNat 20 (fieldOf v 12 20) } }
  | 0x601C => { s with cus := { s.cus with bncHi := v } }
  | 0x7000 => lockWrite s .ldgCfg v
  | 0x8000 => lockWrite s .asyCalCfg v
  | 0x800C => { s with asy := { s.asy with coefSel := BitVec.ofNat 24 (fieldOf v 0 24) } }
  | 0x9000 => { s with rgnSel := BitVec.ofNat 12 (fieldOf v 0 12) }
  | 0xA000 => if flagOf v 15 then { s with prt := { s.prt with rdMax := heldBytes s, wrMax := s.prt.wrNow } } else s
  | 0xB000 => { s with ptl := { s.ptl with rate := BitVec.ofNat 8 (fieldOf v 0 8) } }
  | 0xB00C => if flagOf v 31 then removeUe s else s
  | 0xB010 => writeInj s v
  | 0xC000 => bstMod s fun b => { b with cmdErr := b.cmdErr && !flagOf v 3, opErr := b.opErr && !flagOf v 4 }
  | 0xC008 => lockWrite s .bstEccCfg v
  | 0xC00C => bstMod (if flagOf v 3 then bstClearWarn s else s) fun b => { b with ue := b.ue && !flagOf v 4 }
  | 0xD000 => lockWrite s .hzlRoute v
  | _ => s

/-- Clear the counters of a port (R435). -/
def clearPort (s : State) (i : Nat) (v : Word) : State :=
  modPort s i fun p =>
    { p with ue := if flagOf v 0 then 0 else p.ue, tagFail := if flagOf v 0 then 0 else p.tagFail
             lostCnt := if flagOf v 0 then 0 else p.lostCnt, nakCnt := if flagOf v 1 then 0 else p.nakCnt
             replay := if flagOf v 1 then 0 else p.replay }

/-- A 32-bit write to the register at a BAR0 offset. -/
def regWrite (s : State) (off : Nat) (v : Word) : State :=
  if 0xB100 ≤ off ∧ off < 0xB180 then
    if (off - 0xB100) % 0x40 = 4 then writeBktCfg s ((off - 0xB100) / 0x40) v
    else if (off - 0xB100) % 0x40 = 8 ∧ flagOf v 16 then clearBucket s ((off - 0xB100) / 0x40)
    else s
  else if 0xD100 ≤ off ∧ off < 0xD200 then
    if (off - 0xD100) % 0x20 = 0xC then clearPort s ((off - 0xD100) / 0x20) v else s
  else if off < 0x10000 then writeDeviceReg s off v
  else if off < 0x10400 then msixWrite s ((off - 0x10000) / 4) v
  else if 0x100000 ≤ off ∧ off < 0x110000 then writePageReg s 16 (off - 0x100000) v
  else if 0x200000 ≤ off ∧ off < 0x300000 then writePageReg s (Fin.ofNat 17 ((off - 0x200000) / 0x10000)) (off % 0x10000) v
  else if 0x400000 ≤ off ∧ off < 0x440000 then mbxGranWrite s ((off - 0x400000) / 4) v
  else if 0x800000 ≤ off ∧ off < 0x820000 then
    if off % 0x1000 = 0x44 then (if flagOf v 10 then clearDrvFault s ((off - 0x800000) / 0x1000) else s)
    else writeCoreReg s ((off - 0x800000) / 0x1000) (off % 0x1000) v
  else if 0x1000000 ≤ off ∧ off < 0x1C00000 then writeTileReg s ((off - 0x1000000) / 0x800) (off % 0x800) v
  else s

/-- A write through BAR0 (R545): discarded unless it enables all four bytes of one register. -/
def barWrite (s : State) (offset : BitVec 26) (v : Word) (be : BitVec 4) : State :=
  if hostBlocked s then setResp s .unsupported
  else if be ≠ 0xF ∨ offset.toNat % 4 ≠ 0 then setResp (hostTouch s) .discarded
  else regWrite (setResp (hostTouch s) .ok) offset.toNat v

def execRegisterWrite (offset : BitVec 26) (value : Word) (be : BitVec 4) (s : State) : Host.Outcome State Fault Refusal :=
  .next (barWrite s offset value be)

/-! ## The clearing commands -/

/-- A write of the host to a privileged register. -/
def hostWrite (s : State) (act : State → State) : State :=
  if hostBlocked s then setResp s .unsupported else act (setResp (hostTouch s) .ok)

def execTilClrOvf (t : TileAddr) (inc : Nat) (s : State) : Host.Outcome State Fault Refusal :=
  .next (hostWrite s fun s => clearTile s t fun k => { k with ovf := satAdd 0 inc })
def execTilClrClip (t : TileAddr) (incDense incLimit : Nat) (s : State) : Host.Outcome State Fault Refusal :=
  .next (hostWrite s fun s => clearTile s t fun k => { k with dense := satAdd 0 incDense, limit := satAdd 0 incLimit })
def execCorClrNan (core : Fin 32) (inc : Nat) (s : State) : Host.Outcome State Fault Refusal :=
  .next (hostWrite s fun s => clearCore s core fun k => { k with cvtNan := satAdd 0 inc })
def execCorClrSat (core : Fin 32) (inc : Nat) (s : State) : Host.Outcome State Fault Refusal :=
  .next (hostWrite s fun s => clearCore s core fun k => { k with cvtSat := satAdd 0 inc })
def execClrMe (core : Fin 32) (incSat incNan : Nat) (s : State) : Host.Outcome State Fault Refusal :=
  .next (hostWrite s fun s => clearCore s core fun k => { k with meSat := satAdd 0 incSat, meNan := satAdd 0 incNan })
def execClrAtt (core : Fin 32) (incSubst incSkip : Nat) (s : State) : Host.Outcome State Fault Refusal :=
  .next (hostWrite s fun s => clearCore s core fun k => { k with attSubst := satAdd 0 incSubst, attSkip := satAdd 0 incSkip })
def execClrStall (core : Fin 32) (incHolds incGiveup : Nat) (s : State) : Host.Outcome State Fault Refusal :=
  .next (hostWrite s fun s => clearCore s core fun k => { k with stallHolds := satAdd 0 incHolds, stallGiveup := satAdd 0 incGiveup })
def execXpkClrOvf (core : Fin 32) (inc : Nat) (s : State) : Host.Outcome State Fault Refusal :=
  .next (hostWrite s fun s => clearCore s core fun k => { k with xOvf := satAdd 0 inc })
def execXpkClrCrc (core : Fin 32) (inc : Nat) (s : State) : Host.Outcome State Fault Refusal :=
  .next (hostWrite s fun s => clearCore s core fun k => { k with xCrc := satAdd 0 inc })
def execClrLate (core : Fin 32) (inc : Nat) (s : State) : Host.Outcome State Fault Refusal :=
  .next (hostWrite s fun s => clearCore s core fun k => { k with prtLate := satAdd 0 inc })
def execClrTail (core : Fin 32) (inc : Nat) (s : State) : Host.Outcome State Fault Refusal :=
  .next (hostWrite s fun s => clearCore s core fun k => { k with prtTail := satAdd 0 inc })
def execPrtStgClr (s : State) : Host.Outcome State Fault Refusal :=
  .next (hostWrite s fun s => { s with prt := { s.prt with rdMax := heldBytes s, wrMax := s.prt.wrNow } })
def execHzlClrErr (port : Fin 8) (incUe incTag incLost : Nat) (s : State) : Host.Outcome State Fault Refusal :=
  .next (hostWrite s fun s => modPort s port fun p => { p with ue := satAdd 0 incUe, tagFail := satAdd 0 incTag, lostCnt := satAdd 0 incLost })
def execHzlClrRty (port : Fin 8) (incNak incReplay : Nat) (s : State) : Host.Outcome State Fault Refusal :=
  .next (hostWrite s fun s => modPort s port fun p => { p with nakCnt := satAdd 0 incNak, replay := satAdd 0 incReplay })
def execBucketOvfClear (stack : Fin 2) (s : State) : Host.Outcome State Fault Refusal := .next (hostWrite s fun s => clearBucket s stack)
def execUeLogRemove (s : State) : Host.Outcome State Fault Refusal := .next (hostWrite s removeUe)
def execPtlInjArm (value : Word) (s : State) : Host.Outcome State Fault Refusal := .next (hostWrite s fun s => writeInj s value)
def execViolLogRemove (s : State) : Host.Outcome State Fault Refusal := .next (hostWrite s removeViolation)
def execEvict (s : State) : Host.Outcome State Fault Refusal := .next (hostWrite s fun s => writeEvict s 1)
def execRstCtlWarm (key : Byte) (s : State) : Host.Outcome State Fault Refusal :=
  .next (hostWrite s fun s => writeRstCtl s (packWord [(1, 0, 1), (key.toNat, 8, 8)]))
def execRstCtlCold (key : Byte) (s : State) : Host.Outcome State Fault Refusal :=
  .next (hostWrite s fun s => writeRstCtl s (packWord [(1, 1, 1), (key.toNat, 8, 8)]))
def execDrvFaultClear (core : Fin 32) (s : State) : Host.Outcome State Fault Refusal := .next (hostWrite s fun s => clearDrvFault s core)

/-- A read of ALM_BEAT_LO returns the low count and latches the high one (R292). -/
def beatLoRead (s : State) : State :=
  hostWrite s fun s =>
    let b := beatView s
    setResp { s with alm := { s.alm with beatHi := BitVec.ofNat 32 (b / 2 ^ 32) } } (.data (leBytes 4 b))

def execAlmBeatLoRead (s : State) : Host.Outcome State Fault Refusal := .next (beatLoRead s)

/-! ## The SMBus endpoint (R518, R555–R557) -/

/-- The register a management command code names (R555). -/
def smbusReg (cmd : Nat) : Option Nat :=
  match cmd with
  | 0x10 => some 0x5000 | 0x11 => some 0x5004 | 0x12 => some 0x5008 | 0x13 => some 0x1000 | 0x14 => some 0x1004 | 0x15 => some 0x2004
  | 0x16 => some 0x3004 | 0x17 => some 0x3008 | 0x18 => some 0x7004 | 0x19 => some 0xB004 | 0x1A => some 0x6000 | 0x1B => some 0x4000
  | _ => none

/-- One bit of the SMBus PEC, a CRC-8 with polynomial x^8 + x^2 + x + 1. -/
def pecStep (c : Nat) : Nat := if 128 ≤ c then (c * 2 % 256) ^^^ 7 else c * 2

def pecByte (c : Nat) (b : Byte) : Nat :=
  pecStep (pecStep (pecStep (pecStep (pecStep (pecStep (pecStep (pecStep (c ^^^ b.toNat))))))))

/-- The PEC of the bytes of a transfer (log 24). -/
def pecOf (bs : List Byte) : Byte := BitVec.ofNat 8 (bs.foldl pecByte 0)

def smcMod (s : State) (f : Smc → Smc) : State := { s with smc := f s.smc }

/-- Whether the endpoint ACKs an address byte: it is the device's and the endpoint is ready (R518, R556). -/
def smbusAcks (s : State) (address : BitVec 7) : Bool := s.smc.ready && address == s.smc.addr && (decide (s.pwr.st.toNat ≤ 1) || s.pwr.exiting)

/-- A block outside the register map is NACKed, counted and logged with SRC 3 (R370, R555, R557). -/
def smbusNack (s : State) (cmd : Byte) (write : Bool) : State :=
  logViolation (smcMod s fun m => { m with nackMap := satAdd m.nackMap 1, acked := false, reply := [] })
    { addr := BitVec.ofNat 32 cmd.toNat, req := BitVec.ofNat 16 s.smc.addr.toNat, src := 3, write := write, cid := 0x1F }

/-- A Block Read: count 4, the value low byte first, and the PEC over the whole transfer. -/
def smbusRead (s : State) (address : BitVec 7) (cmd : Byte) (write pecOk : Bool) : State :=
  if !smbusAcks s address then smcMod s fun m => { m with acked := false, reply := [] }
  else if !pecOk then smcMod s fun m => { m with pecErr := satAdd m.pecErr 1, acked := false, reply := [] }
  else match smbusReg cmd.toNat with
    | some off =>
      if write then smbusNack s cmd true
      else
        let a : Byte := BitVec.ofNat 8 (address.toNat * 2)
        let body : List Byte := 4 :: leBytes 4 (regRead s off).toNat
        smcMod s fun m => { m with acked := true, reply := body ++ [pecOf ([a, cmd, a + 1] ++ body)] }
    | none => smbusNack s cmd write

def execSmbusBlockRead (address : BitVec 7) (command : Byte) (write : Bool) (pecOk : Bool) (s : State) : Host.Outcome State Fault Refusal :=
  .next (smbusRead s address command write pecOk)

/-- An MCTP packet at command code 0x0F; it may assign the endpoint ID (R555, R556). -/
def smbusMctp (s : State) (address : BitVec 7) (eid : Option Byte) (pecOk : Bool) : State :=
  if !smbusAcks s address then smcMod s fun m => { m with acked := false, reply := [] }
  else if !pecOk then smcMod s fun m => { m with pecErr := satAdd m.pecErr 1, acked := false, reply := [] }
  else smcMod s fun m => { m with acked := true, reply := [], eid := eid.getD m.eid }

def execSmbusMctp (address : BitVec 7) (eid : Option Byte) (pecOk : Bool) (s : State) : Host.Outcome State Fault Refusal :=
  .next (smbusMctp s address eid pecOk)

/-- An address byte in Camp or Deep Camp: NACKed, and a wake where it matches (R518). The latched address survives the
cold start that leaving Deep Camp is only until option loading latches it again. -/
def smbusWake (s : State) (address : BitVec 7) : State :=
  if 2 ≤ s.pwr.st.toNat ∧ address = s.smc.addr then
    wake (smcMod s fun m => { m with acked := false, reply := [], ready := false }) 3 0
  else s

def execSmbusAddressWake (address : BitVec 7) (s : State) : Host.Outcome State Fault Refusal := .next (smbusWake s address)

/-- The endpoint begins to ACK its address (R518): it has one, and the device is awake or leaving Camp, and in no stretch. -/
def smbusReady (s : State) : State :=
  if s.smc.addr ≠ 0 ∧ (s.pwr.st.toNat ≤ 1 ∨ s.pwr.exiting) ∧ s.rst.stretching = false then smcMod s fun m => { m with ready := true } else s

def execSmbusEndpointReady (s : State) : Host.Outcome State Fault Refusal := .next (smbusReady s)

end Sys2Proof.Machine
end

