-- ==== Sys2Proof/Machine/Strike.lean ====
section
/-! DEFINITION. The legs of the tiles: strikes, deck selection and reduction (R47–R71, R82–R88, R135–R136, R583, R585). -/

namespace Sys2Proof.Machine

/-! ## STRIKE (R59, R62, R82) -/

/-- Why a tile does not take a strike leg in its input stage, if so (R59, R62, R282): the fault cause. -/
def inputFault (s : State) (t : Tile) (d : Deck) (l : StrikeLeg) : Option Nat :=
  match (if l.buf = 0 then t.buf0 else t.buf1) with
  | none => some 6
  | some x =>
    if x.aw.toNat ≠ awPlanes l.aw ∨ 2 ^ awPlanes l.aw ≤ x.zp.toNat then some 6
    else if d.reg.fmt ≠ .unused ∧ (l.slot.toNat < fmtFloor d.reg.fmt ∨ modeW d.reg.pmode < l.slot.toNat) then some 2
    else if t.strikes.any fun y => decide (s.alm.beat.toNat + 2 < y.2) then some 1
    else none

/-- The physical key of tile `t` of the leg's string. -/
def legTile (s : State) (ctx : LegCtx) (string : Nat) (t : Nat) : Nat := tileNum (physOf s ctx.core) string t

/-- One tile takes a strike leg and the bundle it names: its slot beats are fixed; or a schedule fault, and it drives no row. -/
def takeStrike (ctx : LegCtx) (l : StrikeLeg) (a : State × List (Nat × Nat × Bundle)) (t : Nat) : State × List (Nat × Nat × Bundle) :=
  let s := a.1
  let tk := legTile s ctx l.string.toNat t
  let x := getTile s tk
  match inputFault s x (getDeck s (tk * 4 + l.deck.val)) l, (if l.buf = 0 then x.buf0 else x.buf1) with
  | none, some b =>
    let now := s.alm.beat.toNat
    (modTile s tk fun y =>
      { y with strikes := y.strikes.filter (fun z => decide (now < z.2)) ++ [(now + 2, now + 2 + awPlanes l.aw * l.slot.toNat)] }, a.2 ++ [(t, tk, b)])
  | some c, _ => (legFault s ctx c, a.2)
  | none, none => (s, a.2)

/-- The bytes a converted strike drains. -/
def drainLen (s : State) (ctx : LegCtx) (l : StrikeLeg) : Nat :=
  ((maskTiles l.tmask).map fun t => (deckOutputs (getDeck s (legTile s ctx l.string.toNat t * 4 + l.deck.val))).length).sum * (fmtBits l.ofmt / 8)

/-- Whether a strike leg's own fields are in range (R273, R274): OFMT names a format, of the strike output formats where the strike drains. -/
def strikeLegOk (l : StrikeLeg) : Bool :=
  decide (l.string.toNat < 12) && decide (l.aw ≠ 3) && decide (1 ≤ l.slot.toNat) && decide (l.slot.toNat ≤ 16) &&
    !fmtReserved l.ofmt && (l.part || fmtStrikeOut l.ofmt)

/-- STRIKE (R82): in the input stage every tile of the mask takes its bundle; the slots begin two beats later, and the outputs go to OADDR
or to the reduction group when they are available. Where a tile of the mask meets a schedule fault, the outputs of the others follow one another
with no gap for it: the spec does not place them, and this is the model's choice (R583, log 140). -/
def strikeRun (s : State) (ctx : LegCtx) (l : StrikeLeg) : State :=
  onLeg s ctx (.strike l) fun s _ =>
  if !strikeLegOk l then legFault s ctx 2
  else if !l.part && !wsOwned s (physOf s ctx.core) ctx.eng (l.oaddr.toNat * 64) (drainLen s ctx l) then foreignPage s ctx (l.oaddr.toNat * 64) true
  else
    let r := (maskTiles l.tmask).foldl (takeStrike ctx l) (s, [])
    if r.2.isEmpty then r.1 else launch r.1 ctx (8 * (s.alm.beat.toNat + 2)) (.strike l r.2)

def execStrike (ctx : LegCtx) (leg : StrikeLeg) (s : State) : Host.Outcome State Fault Refusal := .next (strikeRun s ctx leg)

/-! ## SELECT (R48–R51) -/

/-- One tile takes a select leg: no other deck is selected during a switch or in a slot beat of a strike (R49, R51); to select the active
deck changes nothing (R50). -/
def selectTile (ctx : LegCtx) (l : SelectLeg) (s : State) (t : Nat) : State :=
  let tk := legTile s ctx l.string.toNat t
  let x := getTile s tk
  let now := s.alm.beat.toNat
  if switchingAt x now then legFault s ctx 5
  else if activeDeck s x = some l.deck then s
  else if slotBeat x now then legFault s ctx 5
  else if now < x.workEnd then legFault s ctx 1
  else modTile s tk fun x => { x with active := none, switchTo := some l.deck, switchBeat := s.alm.beat, lastSel := some l.deck }

def selectRun (s : State) (ctx : LegCtx) (l : SelectLeg) : State :=
  onLeg s ctx (.select l) fun s _ =>
  if 12 ≤ l.string.toNat then legFault s ctx 2
  else forEach (maskTiles l.tmask) s (selectTile ctx l)

def execSelect (ctx : LegCtx) (leg : SelectLeg) (s : State) : Host.Outcome State Fault Refusal := .next (selectRun s ctx leg)

/-! ## REDUCE (R135, R136, R585) -/

/-- Whether a set's output `i` is left out in favour of its healthy twin among the sets (R136). -/
def twinExcluded (sets : List PartialSet) (x : PartialSet) (i : Nat) : Bool :=
  match x.outs[i]? with
  | some v => v.sick && sets.any fun y => some y.deck == x.twin && (match y.outs[i]? with | some w => !w.sick | none => false)
  | none => false

/-- Whether a set's output stands alone for its excluded twin. -/
def twinAlone (sets : List PartialSet) (x : PartialSet) (i : Nat) : Bool :=
  sets.any fun y => some y.deck == x.twin && twinExcluded sets y i

/-- Add FP32 values in order, the sum rounded at each step; the flag says that a step saturated. -/
def sumFp : List Word → Word × Bool
  | [] => (0, false)
  | v :: r => r.foldl (fun a x => ((fadd a.1 x).1, a.2 || (fadd a.1 x).2)) (v, false)

/-- The value of output `i` before ACC: the sum, halved for twins. A pair with one copy excluded gives the other copy
alone. -/
def reduceAt (sets : List PartialSet) (twin : Bool) (i : Nat) : Word × Bool :=
  let kept := sets.filter fun x => !(twin && twinExcluded sets x i)
  let vals := kept.filterMap fun x => (x.outs[i]?).map fun v => if twin && twinAlone sets x i && decide (2 < sets.length) then (fmul v.val 0x40000000).1 else v.val
  let t := sumFp vals
  if twin && !(decide (kept.length < sets.length) && decide (sets.length ≤ 2)) then
    let h := fmul t.1 0x3F000000
    (h.1, t.2 || h.2)
  else t

/-- One reduced output: sum, TWIN, ACC and flags. With an infinite or NaN set at IADDR the sum is a free finite value: the
spec states none, and a reduction never yields an infinity or a NaN (R190, log 25). -/
def reduceOne (sets : List PartialSet) (l : ReduceLeg) (acc : List MByte) (i : Nat) : PVal × Bool :=
  let v := reduceAt sets l.twin i
  let a := (acc.drop (4 * i)).take 4
  let aw : Word := BitVec.ofNat 32 (leNat (plainOf a))
  let w := if !l.acc then (v.1, false)
    else if (fp aw).isFin then fadd v.1 aw
    else (Config.vecOpen 0x585 aw &&& 0xBFFFFFFF, false)
  let ins := (sets.filter fun x => !(l.twin && twinExcluded sets x i)).filterMap fun x => x.outs[i]?
  ({ val := w.1, ovf := ins.any PVal.ovf, clip := ins.any PVal.clip, poison := ins.any PVal.poison || (l.acc && anyMark a)
     tag := ((ins.map PVal.tag).headD 0) }, v.2 || w.2)

/-- The partial sets a reduction takes: of its group, level and circuit, oldest first, up to NIN, then in ascending order
of source. -/
def reduceSets (c : Core) (ctx : LegCtx) (l : ReduceLeg) : List PartialSet :=
  sortBy (fun x => if l.level then x.string else x.tile)
    ((c.groups.filter fun x => x.rgrp == l.rgrp && x.level == l.level && x.eng == ctx.eng && x.circuit == ctx.circuit).take l.nin.toNat)

def reduceLegOk (l : ReduceLeg) : Bool :=
  decide (1 ≤ l.nin.toNat) && decide (l.nin.toNat ≤ if l.level then 12 else 16) && fmtStrikeOut l.ofmt && decide (1 ≤ l.nout.toNat) && decide (l.nout.toNat ≤ 512)

/-- Drop the taken sets from the core's groups. -/
def dropSets (gs taken : List PartialSet) : List PartialSet := taken.foldl (fun g x => g.erase x) gs

/-- Beats of a reduction, conversion included (R287). -/
def reduceBeats (l : ReduceLeg) : Nat := 3 + cdiv (4 * l.nout.toNat) 1024

/-- Whether the string bus, or the core stage, is idle for a reduction (R282). -/
def reduceIdle (s : State) (p : Nat) (l : ReduceLeg) (string : Nat) : Bool :=
  if l.level then decide ((getCore s p).stageFree ≤ s.alm.beat.toNat) else busIdle s p string s.alm.beat.toNat

/-- REDUCE (R585): the sets of the group are summed; the result is there when the reduction's beats have passed (R287). -/
def reduceRun (s : State) (ctx : LegCtx) (l : ReduceLeg) : State :=
  onLeg s ctx (.reduce l) fun s _ =>
  let p := physOf s ctx.core
  let sets := reduceSets (getCore s p) ctx l
  let string := (sets.map PartialSet.string).headD 0
  let n := min l.nout.toNat ((sets.map fun x => x.outs.length).foldl max 0)
  if !reduceLegOk l then legFault s ctx 2
  else if !reduceIdle s p l string || !banksFree (getCore s p) (reduceUse l s.alm.beat.toNat) then legFault s ctx 1
  else if !l.dest && !wsOwned s p ctx.eng (l.oaddr.toNat * 64) (n * (fmtBits l.ofmt / 8)) then foreignPage s ctx (l.oaddr.toNat * 64) true
  else if l.acc && !wsOwned s p ctx.eng (l.iaddr.toNat * 64) (4 * n) then foreignPage s ctx (l.iaddr.toNat * 64) false
  else
    let rs := (List.range n).map (reduceOne sets l (wsRead s p (l.iaddr.toNat * 64) (4 * n)))
    let fin := s.alm.beat.toNat + reduceBeats l
    let s1 := modCore (takeBanks s p (reduceUse l s.alm.beat.toNat)) p fun c =>
      { c with cvtSat := satAdd c.cvtSat (rs.filter Prod.snd).length, groups := dropSets c.groups sets
               stageFree := if l.level then fin else c.stageFree
               busFree := if l.level then c.busFree else vmod c.busFree string fun _ => fin }
    launch s1 ctx (8 * fin) (.reduced l string (rs.map Prod.fst))

def execReduce (ctx : LegCtx) (leg : ReduceLeg) (s : State) : Host.Outcome State Fault Refusal := .next (reduceRun s ctx leg)

end Sys2Proof.Machine
end

