-- ==== Sys2Proof/Machine/Work.lean ====
section
/-! DEFINITION. The Assayer's work: when a deck's calibration or sweep is due, in which order work is served, and in which fallow beats it
finds its place (R53, R109–R113, R120, R121, R126, R131). -/

namespace Sys2Proof.Machine

/-! ## What is served (R111, R120, R122) -/

/-- The calibration interval T of a deck, in beats (R111). -/
def deckT (s : State) (d : Deck) : Nat :=
  let g := getEng s d.reg.eng.toNat
  (if d.reg.owned && g.st != .free && g.st != .resident then g.calT.toNat else s.asy.interval.toNat) * ageUnit

/-- Whether the Assayer works on a deck: programmed and not sealed (R120, R122). -/
def served (d : Deck) : Bool := deckDone d && deckOpen d && d.reg.fmt != .unused && !d.outOfService && !d.erasing

/-- A deck's tile. -/
def tileOf (a : DeckAddr) : TileAddr := { core := a.core, string := a.string, tile := a.tile }

/-- Whether the Assayer may work on a tile: its core is in service, the beat runs, and the tiles have power (R511, R517). -/
def tileServes (s : State) (a : DeckAddr) : Bool :=
  !isOut s a.core && s.alm.pllLock && (decide (s.pwr.st.toNat < 2) || s.pwr.exiting)

/-- What an operation on a deck adds to its run: the switch to it and back, unless it is the active deck (R53, R109). -/
def switchCost (s : State) (a : DeckAddr) : Nat :=
  if activeAt (getTile s (deckKey s a / 4)) s.alm.beat.toNat = some a.deck then 0 else 4

/-! ## Order (R113, R120) -/

/-- Whether a deck's calibration is due: the temperature has moved, it is uncalibrated, or half its T has passed. -/
def calibrationDue (s : State) (d : Deck) : Bool :=
  served d && d.calPend.isNone && (d.calDue || d.uncal || decide (d.lastCal.toNat + deckT s d / 2 ≤ s.alm.beat.toNat))

/-- Whether a deck's sweep is due: it is suspect, or 8 T have passed. -/
def sweepDue (s : State) (d : Deck) : Bool :=
  served d && d.sweepPend.isNone && (d.suspect || decide (d.lastSweep.toNat + 8 * deckT s d ≤ s.alm.beat.toNat))

/-- The place of a deck's due calibration, the lowest first: temperature-triggered ones, then the deck calibrated longest ago. -/
def calRank (d : Deck) : Nat := (if d.calDue then 0 else 2 ^ 64) + d.lastCal.toNat

/-- The place of a deck's due sweep: a suspect deck's, then the deck swept longest ago. -/
def sweepRank (d : Deck) : Nat := (if d.suspect then 2 ^ 65 else 2 ^ 66) + d.lastSweep.toNat

/-- The places of waybill programming and of repairs. -/
def programRank : Nat := 2 ^ 67
def repairRank : Nat := 2 ^ 68

/-- The places of what is due on a deck. -/
def dueRanks (s : State) (d : Deck) : List Nat :=
  (if calibrationDue s d then [calRank d] else []) ++ (if sweepDue s d then [sweepRank d] else [])

/-- The decks of a tile. -/
def tileMates (a : DeckAddr) : List DeckAddr := (List.range 4).map fun i => { a with deck := Fin.ofNat 4 i }

/-- Whether work of place `rank` on a deck's tile is next: no work of a lower place that the run of fallow beats would hold waits (R112, R113). -/
def isNext (s : State) (a : DeckAddr) (rank : Nat) : Bool :=
  (tileMates a).all fun b =>
    ((dueRanks s (getDeck s (deckKey s b))).all fun r => decide (rank ≤ r)) || !tileFallow s (tileOf a) (1 + 2 * switchCost s b)

/-! ## Fallow beats ahead (R109, R110, R112) -/

/-- Count down `c` over the beats of a run that are good; what is left of it, and the beat after the last one counted. -/
def countGood (ok : Nat → Bool) : Nat → Nat → Nat → Nat × Nat
  | 0, c, b => (c, b)
  | n + 1, c, b => if c = 0 then (0, b) else countGood ok n (if ok b then c - 1 else c) (b + 1)

/-- The beat after the `c`-th good beat of runs. -/
def nthGood (ok : Nat → Bool) : Nat → List Run → Option Nat
  | _, [] => none
  | c, r :: rs =>
    let w := countGood ok (r.2 - r.1) c r.1
    if w.1 = 0 then some w.2 else nthGood ok w.1 rs

/-- The beats of a tile's fallow runs up to beat `h` in which a deck can be struck. -/
def strikeRuns (s : State) (a : DeckAddr) (h : Nat) : List Run :=
  let c := switchCost s a
  ((gapsIn s.alm.beat.toNat h (takenRuns s (tileOf a) h)).map fun r => (r.1 + c, r.2 - c)).filter fun r => decide (r.1 < r.2)

/-- The beat by which `n` sub-strikes on a deck have ended that begin as early as fallow beats, clear ones where `clear`, and Toll headroom allow. -/
def subStrikesEnd (s : State) (a : DeckAddr) (clear : Bool) (n h : Nat) : Option Nat :=
  let m := fmtFloor (getDeck s (deckKey s a)).reg.fmt
  (nthGood (fun b => tollFree s b && (!clear || tileClear s (tileOf a) b m)) n (strikeRuns s a h)).map (· + switchCost s a)

/-- Units of `u` beats, each with the 4 beats that reselect the active deck in its run, `n` of them placed in runs: the beat the last one ends. -/
def placeUnits (u : Nat) : Nat → List Run → Option Nat
  | _, [] => none
  | n, r :: rs =>
    let k := (r.2 - r.1 - 4) / u
    if n ≤ k then some (r.1 + n * u + 4) else placeUnits u (n - k) rs

/-- The beat by which `n` verify reads of rows have ended. -/
def readsEnd (s : State) (a : DeckAddr) (n h : Nat) : Option Nat := placeUnits 200 n (gapsIn s.alm.beat.toNat h (takenRuns s (tileOf a) h))

/-! ## Tiles at work (R52, R53) -/

/-- Sub-strikes or verify reads occupy the tile's fallow beats until beat `b`. -/
def assayUntil (s : State) (a : DeckAddr) (b : Nat) : State := modTile s (deckKey s a / 4) fun t => { t with assayEnd := b }

/-- A program loop, an erase loop or a programming verify read of `n` beats begins on a deck: no deck is active in it, and then the deck that the
itinerary last selected is selected again (R52, R53). -/
def workFor (s : State) (a : DeckAddr) (n : Nat) : State :=
  modTile s (deckKey s a / 4) fun t =>
    { t with workEnd := s.alm.beat.toNat + n, workDeck := some a.deck, active := none, switchTo := t.lastSel,
             switchBeat := BitVec.ofNat 64 (s.alm.beat.toNat + n) }

/-- Whether a loop of `n` beats with its reselection finds its place now, after work that is ranked higher (R112, R113, R131, R151, R156). -/
def loopFits (s : State) (a : DeckAddr) (n rank : Nat) : Bool := tileFallow s (tileOf a) (n + 4) && isNext s a rank

end Sys2Proof.Machine
end

