-- ==== Sys2Proof/Machine/Findings.lean ====
section
/-! DEFINITION. Findings and the error ledger, the repair ladder's choice of a rung
(R130, R131, R134, R136–R138, R171, R399, R584). -/

namespace Sys2Proof.Machine

/-! ## Held findings (R137, R138, R584) -/

/-- State codes of RUNG_STATE. -/
def stOpen : BitVec 4 := 0
def stWaiting : BitVec 4 := 1
def stRepaired : BitVec 4 := 2
def stAdjusted : BitVec 4 := 3
def stClosed : BitVec 4 := 4

/-- Open, waiting or adjusted: held in the deck record, never overwritten. -/
def isHeld (f : Finding) : Bool := f.st == stOpen || f.st == stWaiting || f.st == stAdjusted

/-- Every finding the Factor keeps: the ring and those waiting outside it. -/
def allFindings (s : State) : List Finding := s.asy.ring ++ s.asy.outside

/-- The finding of a sequence number. -/
def findingOf (s : State) (seq : Nat) : Option Finding := (allFindings s).find? fun f => f.seq.toNat == seq

/-- The physical tile-deck a finding is on. -/
def findingDeck (s : State) (f : Finding) : Nat := deckKey s { core := f.core, string := f.string, tile := f.tile, deck := f.deck }

/-- Whether a detection is of the held finding: same tile-deck, group and class, and the same column offset or, for a
class that names an output, the same output. -/
def sameFault (a b : Finding) : Bool :=
  a.core == b.core && a.string == b.string && a.tile == b.tile && a.deck == b.deck && a.group == b.group && a.cls == b.cls &&
    (if a.cls = 5 ∨ a.cls = 7 then a.output == b.output else a.offset == b.offset)

/-- Change a finding's record; the record part of its slot is written once (R171). -/
def modFinding (s : State) (f : Finding) (h : Finding → Finding) : State :=
  let on := fun (x : Finding) => if x.seq = f.seq then h x else x
  { s with asy := { s.asy with ring := s.asy.ring.map on, outside := s.asy.outside.map on } }

/-- Records of the ring (R137). -/
def ringSize : Nat := 4096

/-- The ring without the oldest record that may be overwritten; none where no record may be. -/
def dropOverwritable : List Finding → Option (List Finding)
  | [] => none
  | f :: r => if isHeld f then (dropOverwritable r).map (f :: ·) else some r

/-- Put a record in the ring, if there is room. -/
def ringPut (ring : List Finding) (f : Finding) : Option (List Finding) :=
  if ring.length < ringSize then some (ring ++ [f]) else (dropOverwritable ring).map (· ++ [f])

/-- Findings waiting outside the ring enter it in the order in which they arose. -/
def refillRing : List Finding → List Finding → List Finding × List Finding
  | ring, [] => (ring, [])
  | ring, f :: r => match ringPut ring f with | some g => refillRing g r | none => (ring, f :: r)

def refill (s : State) : State :=
  let r := refillRing s.asy.ring s.asy.outside
  { s with asy := { s.asy with ring := r.1, outside := r.2 } }

/-- Slots of a deck record (R169). -/
def slotLimit : Nat := 15

/-- A finding slot as it is first written (R171). -/
def newSlot (f : Finding) : FSlot := { finding := f, waiting := f.st == stWaiting }

/-- The lowest-numbered slot that is not used takes a held finding, where there is one. -/
def takeSlot (f : Finding) (d : Deck) : Deck :=
  if isHeld f && decide (d.slots.length < slotLimit) then { writeSlot d d.slots.length (newSlot f) with slots := d.slots ++ [newSlot f] } else d

/-- Change the slot of a finding, its cells with it. -/
def modSlot (f : Finding) (g : FSlot → FSlot) (d : Deck) : Deck :=
  match d.slots.zipIdx.find? fun x => x.1.finding.seq == f.seq && !x.1.retired with
  | some x => { updateSlot d x.2 (g x.1) with slots := d.slots.set x.2 (g x.1) }
  | none => d

/-! ## Rung 4 (R134, R399) -/

/-- Whether a finding counts towards UNREP of its core: its deck belongs to a READY engagement. -/
def countsUnrep (s : State) (f : Finding) : Bool :=
  decide (f.eng.toNat < 64) && (getEng s f.eng.toNat).st == .ready

/-- The groups that a finding names. -/
def groupBits (g : Byte) : Word := if g = 0xFF then BitVec.allOnes 32 else BitVec.ofNat 32 (2 ^ g.toNat)

/-- A finding reaches rung 4: the group's foreground checks are masked, it is counted, vector 18 fires, and its core's
count rises; the fence that the count may bring is CORE_FENCE. -/
def unrepairable (s : State) (f : Finding) : State :=
  let s1 := modDeck s (findingDeck s f) fun d => { d with masked := d.masked ||| groupBits f.group }
  let s2 := { s1 with asy := { s1.asy with unrep := satAdd s1.asy.unrep 1 } }
  let s3 := if countsUnrep s f then mapMod s2 f.core fun m => { m with unrep := m.unrep + 1 } else s2
  fireVector s3 18

/-! ## Recording (R136, R138) -/

/-- A finding record with its place and class, everything else empty. -/
def blankFinding (a : DeckAddr) (d : Deck) (cls : Byte) (group offset : Nat) : Finding :=
  { seq := 0, beat := 0, core := a.core, string := a.string, tile := a.tile, deck := a.deck,
    fmt := BitVec.ofNat 2 (fmtCode d.reg.fmt),
    group := BitVec.ofNat 8 group, offset := BitVec.ofNat 8 offset, row := 0xFFFF, cls := cls, rung := 0, st := stOpen,
    output := 0xFFFF, hterm := 0, eng := if d.reg.owned then d.reg.eng.setWidth 8 else 0xFF, nrows := 0 }

/-- Write a new record: its SEQ, the ring or outside it, a slot of the deck record where one is free. -/
def writeRecord (s : State) (f0 : Finding) : State × Finding :=
  let f := { f0 with seq := s.asy.nextSeq, beat := s.alm.beat, nrows := BitVec.ofNat 16 (min 65535 f0.rows.length) }
  let a := { s.asy with nextSeq := s.asy.nextSeq + 1, findings := satAdd s.asy.findings 1 }
  let s1 := match ringPut a.ring f with
    | some r => if a.outside.isEmpty then { s with asy := { a with ring := r } } else { s with asy := { a with outside := a.outside ++ [f] } }
    | none => { s with asy := { a with outside := a.outside ++ [f] } }
  (modDeck s1 (findingDeck s1 f) (takeSlot f), f)

/-- The record that the healthy copy of a twinned block is used alone for the outputs a finding names (R136). -/
def twinRecord (s : State) (f : Finding) : State :=
  let d := getDeck s (findingDeck s f)
  match d.twin with
  | some t =>
    if (deckOutputs d).any fun p => namesOutput d.reg.fmt f p && !outputSick (getDeck s t) (outsideOn s t) p then
      (writeRecord s { f with cls := 7, rung := 0, st := stClosed, offset := 0xFF, row := 0xFFFF, rows := [], tried := [] }).1
    else s
  | none => s

/-- Whether a group has a free spare. -/
def freeSpare (d : Deck) (g : Nat) : Option Nat :=
  let w := sget 0 d.reg.spareMap g
  if !flagOf w 7 then some 0 else if !flagOf w 15 then some 1 else none

/-- Whether a column offset of a group is already carried by a spare. -/
def isCarried (d : Deck) (g j : Nat) : Bool := physCol d g j != 36 * g + j

/-- Whether a rung of the ladder fits a finding (R130). A column that a spare carries is not substituted again. -/
def rungFits (d : Deck) (f : Finding) (rung : Nat) : Bool :=
  let c := f.cls.toNat
  match rung with
  | 1 => c == 1 && f.below
  | 2 => decide (1 ≤ c) && decide (c ≤ 4) && decide (f.offset.toNat < 34) && decide (f.group.toNat < 32) && (freeSpare d f.group.toNat).isSome &&
      !isCarried d f.group.toNat f.offset.toNat
  | 3 => (c == 1 || c == 2) && decide (f.offset.toNat < 32) && (f.fmt == 1 || f.fmt == 2) &&
      ((freeSpare d f.group.toNat).isNone || isCarried d f.group.toNat f.offset.toNat)
  | _ => false

/-- The first rung that fits and has not been tried; 4 where none is left (R130, R131). -/
def chooseRung (d : Deck) (f : Finding) : Nat := ([1, 2, 3].find? fun r => rungFits d f r && !f.tried.contains r).getD 4

/-- A finding takes a rung: it waits where the rung needs programming and the tile has no run for it (R131). -/
def onRung (s : State) (d : Deck) (f : Finding) : Finding :=
  let r := chooseRung d f
  { f with rung := BitVec.ofNat 4 r, st := if r < 4 ∧ !hasProgramRun s f.core f.string f.tile then stWaiting else stOpen }

/-- Rows not already counted are added to a held finding. -/
def addRows (new : List Nat) (f : Finding) : Finding :=
  let fresh := new.filter fun r => !f.rows.contains r
  { f with rows := f.rows ++ fresh, nrows := BitVec.ofNat 16 (min 65535 (f.nrows.toNat + fresh.length)) }

/-- What follows once a finding has its rung: rung 4 is acted on at once (R134). -/
def onChosen (s : State) (f : Finding) : State := if f.rung = 4 then unrepairable s f else s

/-- A held finding that option loading restored has no rung; the first detection that matches it, or the first work on it, chooses one. -/
def giveRung (s : State) (f : Finding) : State × Finding :=
  let f1 := onRung s (getDeck s (findingDeck s f)) f
  let s1 := modFinding s f fun _ => { f1 with beat := if f1.st = f.st then f.beat else s.alm.beat }
  let s2 := modDeck s1 (findingDeck s f) (modSlot f fun x => { x with waiting := x.waiting || f1.st == stWaiting })
  (onChosen s2 f1, f1)

/-- Whether a finding is held without a rung. -/
def noRung (f : Finding) : Bool := f.rung == 0 && (f.st == stOpen || f.st == stWaiting)

/-- Act on a detection: it adds to a held finding, or becomes a new one on its rung (R130, R138, R584). -/
def detect (s : State) (f : Finding) : State :=
  match (allFindings s).find? fun x => isHeld x && sameFault x f with
  | some x =>
    let s1 := modFinding s x (addRows f.rows)
    if noRung x then (giveRung s1 (addRows f.rows { x with below := f.below })).1 else s1
  | none =>
    let r := writeRecord s (onRung s (getDeck s (findingDeck s f)) f)
    onChosen (twinRecord r.1 r.2) r.2

/-- Record a closed finding on which nothing is to be done (R120, R129). -/
def recordClosed (s : State) (f : Finding) : State := (writeRecord s { f with rung := 0, st := stClosed }).1

/-! ## Changes of state (R132, R138, R171) -/

/-- The flags of a slot after its finding reaches a state. -/
def flagSlot (st : BitVec 4) (x : FSlot) : FSlot :=
  { x with
    waiting := x.waiting || st == stWaiting
    adjusted := x.adjusted || st == stAdjusted
    retired := x.retired || st == stRepaired || st == stClosed }

/-- A finding changes state: BEAT is the count now, one flag of its slot is set, and findings waiting outside the ring may
enter it. A finding that closes from rung 4 leaves its core's count (R399). -/
def setFinding (s : State) (f : Finding) (st : BitVec 4) : State :=
  let s1 := modFinding s f fun x => { x with st := st, beat := if x.st = st then x.beat else s.alm.beat }
  let s2 := modDeck s1 (findingDeck s f) (modSlot f (flagSlot st))
  let s3 := if f.rung = 4 ∧ (st = stRepaired ∨ st = stClosed) ∧ countsUnrep s f then mapMod s2 f.core fun m => { m with unrep := m.unrep - 1 } else s2
  refill s3

/-- An erase closes every finding of the deck (R171). -/
def closeDeckFindings (s : State) (k : Nat) : State :=
  forEach ((allFindings s).filter fun f => isHeld f && findingDeck s f == k) s fun s f => setFinding s f stClosed

/-- A rung of a finding failed: it moves to the next rung that fits and has not been tried (R131). -/
def nextRung (s : State) (f : Finding) : State :=
  let f1 := { f with tried := f.rung.toNat :: f.tried }
  let f2 := onRung s (getDeck s (findingDeck s f)) f1
  let s1 := modFinding s f fun x => { x with tried := f2.tried, rung := f2.rung }
  onChosen (setFinding s1 f f2.st) f2

end Sys2Proof.Machine
end

