-- ==== Sys2Proof/Machine/Porter.lean ====
section
/-! DEFINITION. Porters, convoys and deadlines (R283–R284, R296–R318, R586): moves take their channel and their accesses, and their bytes land
when their beats have passed. -/

namespace Sys2Proof.Machine

/-! ## Descriptors (R586) -/

/-- Whether the fields no use of the OP needs are 0, one test per field (R586). -/
def unusedZero (d : PorterDesc) : Bool :=
  let o := d.op.toNat
  let uses (l : List Nat) : Bool := l.contains o
  (uses [3, 4, 5, 6, 7] || d.lane == 0) && (o == 1 || (d.string == 0 && d.tmask == 0 && d.buf == 0)) &&
    (o != 1 || d.dst == 0) && (uses [2, 3, 4, 5, 6, 8, 9] || d.dstride == 0) &&
    (uses [5, 6, 7] || !d.packed) && (uses [5, 6] || !d.strip) && (o == 7 || !d.summary) &&
    ((uses [5, 6] && d.packed) || uses [7, 10] || (d.region == 0 && d.blk == 0)) &&
    (d.summary || (d.sumb == 0 && d.sumAddr == 0)) && (d.strip || d.stripAddr == 0) && ((d.strip && !d.packed) || d.sstrip == 0) &&
    (o == 4 || d.tdev == 0) && (uses [3, 4] || d.tcore == 0) && (o == 7 || d.d == 0)

/-- The sizes of a bundle (R300). -/
def bundleSizes : List Nat := [2080, 1056, 288]

/-- Whether a descriptor's fields are in range for its OP (R300, R307, R312, R586). -/
def descOk (d : PorterDesc) : Bool :=
  unusedZero d && decide (1 ≤ d.op.toNat) && decide (d.op.toNat ≤ 10) && decide (1 ≤ d.len) && decide (d.len ≤ 3145728) &&
    decide (1 ≤ d.rows) && decide (d.rows ≤ 65536) && decide (d.region < 4096) &&
    (d.op != 1 || (decide (d.string.toNat < 12) && bundleSizes.contains (moveBytes d) && decide (d.src % 64 = 0))) &&
    (d.tcore.toNat < 32 : Bool) && (d.op != 7 || (d.d == 64 || d.d == 128)) && (!d.summary || decide (1 ≤ d.sumb)) && decide (d.sumb ≤ 128)

/-! ## Rows -/

/-- The source bytes of a move in a Waystation, row after row. -/
def wsGather (s : State) (p : Nat) (d : PorterDesc) : List MByte :=
  (List.range d.rows).flatMap fun i => wsRead s p (d.src + i * d.sstride) d.len

/-- Write bytes row after row through `put`. -/
def scatter (put : State → Nat → List MByte → State) (dst stride len : Nat) (s : State) (bs : List MByte) : State :=
  forEach (List.range (cdiv bs.length len)) s fun s i => put s (dst + i * stride) ((bs.drop (i * len)).take len)

/-- The ranges of a move's rows. -/
def rowRanges (base stride len rows : Nat) (write : Bool) : List (Nat × Nat × Bool) :=
  (List.range rows).map fun i => (base + i * stride, len, write)

/-- The first row of a stacked-memory range outside the engagement's reservation. -/
def foreignOffset (s : State) (e : Nat) (rs : List (Nat × Nat × Bool)) : Option (Nat × Bool) :=
  (rs.find? fun r => !engOwned s e r.1 r.2.1).map fun r => (r.1, r.2.2)

/-- Bytes of a move cut into runs of `n`. -/
def movePieces (n : Nat) (bs : List MByte) : List (Nat × List MByte) :=
  (List.range (cdiv bs.length n)).map fun i => (i * n, (bs.drop (i * n)).take n)

/-- What a copy of a move's rows makes of the code tensors that begin in them (R197): the same s_a and z at the new place. -/
def movedQuants (s : State) (p q : Nat) (d : PorterDesc) : Quants :=
  (List.range d.rows).flatMap fun i =>
    ((getCore s p).quant.filter fun k => decide (d.src + i * d.sstride ≤ k.1) && decide (k.1 < d.src + i * d.sstride + d.len)).map fun k =>
      (wsKey q (d.dst + i * d.dstride + (k.1 - (d.src + i * d.sstride))), k.2)

/-- The bytes of a move, `n` a beat, reach a Waystation: run `i` in beat `b + i`; the code tensors among them are known with the last. -/
def launchMove (s : State) (ctx : LegCtx) (q b n : Nat) (d : PorterDesc) (bs : List MByte) (qs : Quants) : State :=
  forEach (movePieces n bs) s fun s x =>
    launch s ctx (8 * (b + x.1 / n)) (.write ((moveTargets d x.1 x.2).map fun y => (q, y.1, y.2)) {} (if bs.length ≤ x.1 + n then qs else []))

/-! ## The PORTER leg -/

/-- Whether a leg's class runs its move, and DL and LATE have the form R283 asks. -/
def porterOk (l : PorterLeg) (op : Nat) : Bool :=
  descOk l.desc && l.desc.op.toNat == op && (if op = 5 then l.late == 1 || l.late == 2 else l.dl == 0xFFFFFF && l.late == 0)

/-- Take a channel until a core cycle, with a move's accesses to the Waystation. -/
def takeChan (s : State) (p : Nat) (chan : Fin 4) (fin : Nat) (use : List BankUse) : State :=
  takeBanks (modCore s p fun c => { c with chanFree := vmod c.chanFree chan fun _ => fin }) p use

/-- The beat of a read's deadline (R283): DL from its circuit's start, and holds move it. -/
def readDl (s : State) (ctx : LegCtx) (l : PorterLeg) : Nat :=
  match legCirc s ctx with
  | some c => heldCycle c.held (8 * (c.start + l.dl)) / 8
  | none => 0

/-- Issue a PORTER leg of one OP (R282, R306): its checks, the channel it takes for `busy` beats, then its effect on its core from its cycle on. -/
def porterLeg (s : State) (ctx : LegCtx) (l : PorterLeg) (op busy : Nat) (act : State → Nat → Nat → State) : State :=
  onLeg s ctx (.porter l) fun s cyc =>
    let p := physOf s ctx.core
    let use := porterUse l.desc cyc (readDl s ctx l - 2)
    if !porterOk l op then legFault s ctx 2
    else if cyc < vget 0 (getCore s p).chanFree l.chan ∨ banksFree (getCore s p) use = false then legFault s ctx 1
    else act (takeChan s p l.chan (cyc + 8 * busy) use) p cyc

/-- Perform an action when every range is the engagement's, else a foreign page. -/
def guarded (s : State) (ctx : LegCtx) (f : Option (Nat × Bool)) (act : State) : State :=
  match f with
  | some r => foreignPage s ctx r.1 r.2
  | none => act

/-- Beats of a move inside a core (R287, R306). -/
def moveBeats (d : PorterDesc) : Nat := 1 + cdiv (moveBytes d) 1024

/-! ## Moves inside the device -/

/-- The bundle a frame holds (R58, R300); none where the frame is shorter than its AW needs, so that the bundle is never complete (R59). -/
def bundleOf (bs : List MByte) : Option Bundle :=
  let b := plainOf bs
  let n := (b.getD 0 0).toNat
  if bs.length < 32 + 256 * n then none
  else some
    { aw := b.getD 0 0, zp := b.getD 1 0, tag := BitVec.ofNat 16 (leNat ((b.drop 2).take 2)), scale := BitVec.ofNat 32 (leNat ((b.drop 4).take 4)),
      poison := bitOf (b.getD 8 0).toNat 0 || anyMark bs
      codes := (List.range 2048).filterMap fun r =>
        let code := packNat ((List.range n).map fun i => (b2n (bitOf (b.getD (32 + 256 * i + r / 8) 0).toNat (r % 8)), n - 1 - i, 1))
        if code = 0 then none else some (r, code) }

/-- Set an input buffer of a tile. -/
def setBuffer (b : Fin 2) (x : Option Bundle) (t : Tile) : Tile := if b = 0 then { t with buf0 := x } else { t with buf1 := x }

/-- FRAME_MULTICAST (R300): a frame becomes the bundle of every tile in TMASK; no bundle is complete there until the move ends. -/
def multicast (s : State) (ctx : LegCtx) (l : PorterLeg) : State :=
  porterLeg s ctx l 1 (moveBeats l.desc) fun s p cyc =>
    let d := l.desc
    guarded s ctx (foreignRange s p ctx.eng (rowRanges d.src d.sstride d.len d.rows false))
      (let ts := (maskTiles d.tmask).map fun t => tileNum p d.string.toNat t
       launch (forEach ts s fun s t => modTile s t (setBuffer d.buf none)) ctx (cyc + 8 * moveBeats d) (.bundle ts d.buf (bundleOf (wsGather s p d))))

def execFrameMulticast (ctx : LegCtx) (leg : PorterLeg) (s : State) : Host.Outcome State Fault Refusal := .next (multicast s ctx leg)

/-- WAYSTATION_COPY (R306): 1,024 bytes a beat, the last of them in the Waystation when the move ends. -/
def wsCopy (s : State) (ctx : LegCtx) (l : PorterLeg) : State :=
  porterLeg s ctx l 2 (moveBeats l.desc) fun s p cyc =>
    let d := l.desc
    guarded s ctx (foreignRange s p ctx.eng (rowRanges d.src d.sstride d.len d.rows false ++ rowRanges d.dst d.dstride d.len d.rows true))
      (launchMove s ctx p (cdiv cyc 8 + 2) 1024 d (wsGather s p d) (movedQuants s p p d))

def execWaystationCopy (ctx : LegCtx) (leg : PorterLeg) (s : State) : Host.Outcome State Fault Refusal := .next (wsCopy s ctx leg)

/-! ## Convoys (R303–R305) -/

/-- Whether a convoy's fields are ones R273, R274 and R303 give. -/
def convoyOk (l : ConvoyLeg) (net : Nat) : Bool :=
  descOk l.desc && l.net.toNat == net && decide (1 ≤ l.nslot) && decide (l.nslot ≤ 65535) &&
    (if net = 0 then l.desc.op == 3 && decide (l.way.toNat < 4) && decide (cdiv (moveBytes l.desc) 512 ≤ l.nslot)
     else l.desc.op == 4 && decide (l.way.toNat < 8))

/-- Whether a logical core's stop is dead (R305). -/
def stopDead (s : State) (c : Nat) : Bool := stopDeadAt s (physOf s c)

/-- Whether the stop reader is idle for a convoy (R282, R301): its lane is free, and the stop sends on at most 2 lanes. -/
def laneIdle (s : State) (p : Nat) (lane : Nat) : Bool :=
  let c := getCore s p
  decide (vget 0 c.laneFree lane ≤ s.alm.beat.toNat) && decide (((List.range 8).filter fun i => decide (s.alm.beat.toNat < vget 0 c.laneFree i)).length < 2)

/-- Beats from a slot beat to its bytes in the destination Waystation (R303): on one segment, or across the junction. -/
def roadsLag (a b : Nat) : Nat := if a / 8 = b / 8 then 5 else 11

/-- Issue a convoy: its checks, its lane for NSLOT beats, then its effect. -/
def convoyLeg (s : State) (ctx : LegCtx) (l : ConvoyLeg) (net : Nat) (act : State → Nat → State) : State :=
  onLeg s ctx (.convoy l) fun s _ =>
    let p := physOf s ctx.core
    let b := s.alm.beat.toNat
    let use := convoyUse l.desc b
    if !convoyOk l net then legFault s ctx 2
    else if !laneIdle s p l.desc.lane || !banksFree (getCore s p) use then legFault s ctx 1
    else guarded s ctx (foreignRange s p ctx.eng (rowRanges l.desc.src l.desc.sstride l.desc.len l.desc.rows false))
      (act (takeBanks (modCore s p fun c => { c with laneFree := vmod c.laneFree l.desc.lane fun _ => b + l.nslot }) p use) p)

/-- ROADS_CONVOY (R303): each slot beat's 512 bytes land in the engagement's pages on core TCORE; a dead stop discards them. -/
def roadsRun (s : State) (ctx : LegCtx) (l : ConvoyLeg) : State :=
  convoyLeg s ctx l 0 fun s p =>
    let d := l.desc
    let q := physOf s d.tcore.toNat
    let lag := roadsLag ctx.core d.tcore.toNat
    let land := landingUse d s.alm.beat.toNat lag
    if !stopDead s d.tcore.toNat && !banksFree (getCore s q) land then legFault s ctx 1
    else guarded s ctx (if stopDead s d.tcore.toNat then none else foreignRange s q ctx.eng (rowRanges d.dst d.dstride d.len d.rows true))
      (launchMove (takeBanks s q land) ctx q (s.alm.beat.toNat + lag) 512 d (wsGather s p d) (movedQuants s p q d))

def execRoadsConvoy (ctx : LegCtx) (leg : ConvoyLeg) (s : State) : Host.Outcome State Fault Refusal := .next (roadsRun s ctx leg)

/-! ## Reads from stacked memory (R250, R299, R310) -/

/-- STACKED_MEMORY_READ (R310): the fetch is issued with its deadline; read staging holds its bytes. A protected region is moved raw (R253). -/
def readRun (s : State) (ctx : LegCtx) (l : PorterLeg) : State :=
  porterLeg s ctx l 5 1 fun s p cyc =>
    let d := l.desc
    if d.packed && (ownRegion s ctx.eng d.region).isNone then foreignPage s ctx d.src false
    else guarded s ctx (foreignRange s p ctx.eng (rowRanges d.dst d.dstride d.len d.rows true))
      (guarded s ctx (foreignOffset s ctx.eng ((fetchParts s ctx.eng d).map fun x => (x.1, x.2, false)))
        (let r : PendRead := { id := s.free, eng := ctx.eng, circuit := ctx.circuit, leg := ctx.leg, desc := d, issue := BitVec.ofNat 64 (cyc / 8)
                               dl := BitVec.ofNat 64 (readDl s ctx l), late := l.late }
         let s1 := modCore (freshen s) p fun c => { c with reads := c.reads ++ [r] }
         holdStaging s1 r.id (fetchBytes s ctx.eng d) (r.dl - 2)))

def execStackedMemoryRead (ctx : LegCtx) (leg : PorterLeg) (s : State) : Host.Outcome State Fault Refusal := .next (readRun s ctx leg)

/-- Whether two moves write bytes of one frame. -/
def framesMeet (a b : PorterDesc) : Bool :=
  (rowRanges a.dst a.dstride a.len a.rows true).any fun x => (rowRanges b.dst b.dstride b.len b.rows true).any fun y =>
    decide (x.1 < y.1 + y.2.1) && decide (y.1 < x.1 + x.2.1)

/-- Whether a later fetch aimed at bytes of the same frame has opened its window, so that this one's tail ends (R310). -/
def readEnded (s : State) (c : Core) (r : PendRead) : Bool :=
  c.reads.any fun x => decide (r.id < x.id) && framesMeet x.desc r.desc && decide (x.issue.toNat + 32 ≤ s.alm.beat.toNat)

/-- Whether bytes of a fetch that arrive now come in slots that no itinerary owns (R252, R310): after its window, or as overflow entries. -/
def inTail (s : State) (r : PendRead) (n : Nat) : Bool :=
  decide (r.dl.toNat - 2 < s.alm.beat.toNat) || decide (fetchBytes s r.eng r.desc < r.arrived + n)

/-- READ_DATA_ARRIVAL (R310): the next bytes of a fetch reach the stop and are in the Waystation two beats later; `index` is the fetch's place
among its core's reads. Bytes for a frame whose next window has opened are discarded. -/
def dataArrives (s : State) (core index bytes : Nat) (errs : List (Nat × CwErr)) : State :=
  let p := physOf s core
  match (getCore s p).reads[index]? with
  | none => s
  | some r =>
    let n := min bytes (fetchTotal s r.eng r.desc - r.arrived)
    if n = 0 then s
    else if readEnded s (getCore s p) r then dropRead s p r.id
    else
      let s1 := if inTail s r n && !r.usedTail then modCore s p fun c => { c with prtTail := satAdd c.prtTail 1 } else s
      let s2 := modRead s1 p r.id fun x => { x with arrived := x.arrived + n, usedTail := x.usedTail || inTail s r n }
      { s2 with flights := s2.flights ++ [{ due := 8 * (s.alm.beat.toNat + 2), core := p
                                            ctx := { core := Fin.ofNat 32 core, eng := r.eng, circuit := r.circuit, leg := r.leg }
                                            cons := none, what := .arrive r.id n errs }] }

def execReadDataArrival (core : Fin 32) (index : Nat) (bytes : Nat) (errs : List (Nat × CwErr)) (s : State) :
    Host.Outcome State Fault Refusal := .next (dataArrives s core index bytes errs)

/-! ## Deadlines (R221, R226, R228, R283, R284) -/

/-- The Porter completes the missing bytes of a fetch with the poison mark (R228). -/
def poisonRest (s : State) (p : Nat) (r : PendRead) : State :=
  let d := r.desc
  let bad : List (Nat × Nat) := match descRegion s r.eng d with
    | some g =>
      let n := rawBytes g.fmt
      let have_ := slotsDone g d 0 r.delivered
      let ent := entriesDone s r.eng g d 0 r.delivered
      (List.range (descBlocks g d)).filterMap fun i =>
        if have_.contains i && (!headerOvf s r.eng g (d.blk + i) || ent.contains (d.blk + i)) then none else some (i * n, n)
    | none => [(r.delivered, moveBytes d - r.delivered)]
  forEach bad s fun s x =>
    forEach (moveTargets d x.1 (List.replicate x.2 (0, false))) s fun s y =>
      wsWrite s p y.1 ((wsRead s p y.1 y.2.length).map fun m => (m.1, true))

/-- The context of a fetch. -/
def readCtx (core : Nat) (r : PendRead) : LegCtx := { core := Fin.ofNat 32 core, eng := r.eng, circuit := r.circuit, leg := r.leg }

/-- The place of a fetch in its frame, as the attention leg that uses it names it. -/
def kvMark (r : PendRead) : Nat × Nat × Nat := (r.eng.val, r.circuit, r.desc.dst)

/-- A KV fetch is judged (R221, R284): the frame counts as late for its circuit, or as on time. -/
def judgeKv (r : PendRead) (late : Bool) (c : Core) : Core :=
  { c with kvLate := (c.kvLate.filter fun v => v != kvMark r) ++ (if late then [kvMark r] else []) }

/-- A read incomplete at its deadline counts once (R310). -/
def countLate (s : State) (p : Nat) (r : PendRead) : State :=
  if r.judged.isNone then modCore s p fun c => { c with prtLate := satAdd c.prtLate 1 } else s

/-- A weight fetch is late (R226, R228): a hold of beat DL + 64, which counts once for all fetches late at that beat; after 16 holds the missing
tiles are poisoned, and the leg counts once in GIVEUP. -/
def lateWeights (s : State) (core p : Nat) (r : PendRead) : State :=
  let mates := (getCore s p).reads.filter fun x => x.eng == r.eng && x.circuit == r.circuit && x.late == 2 && !x.sampled && x.dl == r.dl && !readComplete s x
  let s1 := forEach mates s fun s x => countLate s p x
  if r.holds < 16 then
    let s2 := forEach mates s1 fun s x => modRead s p x.id fun y => { y with holds := y.holds + 1, judged := some r.dl.toNat }
    let h := (r.dl.toNat + 64) % 2 ^ 24
    let new := !(getEng s2 r.eng).holds.contains (BitVec.ofNat 64 (r.dl.toNat + 64))
    holdNotice (if new then modCore s2 p fun c => { c with stallHolds := satAdd c.stallHolds 1 } else s2) none (packNat [(r.eng.val, 0, 6), (h, 6, 24)])
  else
    let s2 := forEach mates s1 fun s x => modRead (poisonRest s p x) p x.id fun y => { y with sampled := true }
    consPoison (modCore s2 p fun c => { c with stallGiveup := satAdd c.stallGiveup 1 }) (readCtx core r)

/-- DEADLINE (R283): at beat DL the Drover samples a fetch and takes the cheaper path if it is late: the KV block counts as late, or a hold is
raised. Bytes that come later still land (R284). -/
def sampleDeadline (s0 : State) (core index : Nat) : State :=
  let p := physOf s0 core
  match (getCore s0 p).reads[index]? with
  | none => s0
  | some r0 =>
    if r0.sampled ∨ r0.judged = some r0.dl.toNat then s0
    else
      let s := advanceTo s0 r0.dl.toNat
      match (getCore s p).reads.find? fun x => x.id == r0.id with
      | none => s
      | some r =>
        if readComplete s r then dropRead (if r.late = 1 then modCore s p (judgeKv r false) else s) p r.id
        else if r.late = 1 then modCore (modRead (countLate s p r) p r.id fun x => { x with sampled := true }) p (judgeKv r true)
        else lateWeights s core p r

def execDeadline (core : Fin 32) (index : Nat) (s : State) : Host.Outcome State Fault Refusal := .next (sampleDeadline s core index)

/-! ## Writes to stacked memory (R254, R299, R311, R407) -/

/-- Whether a range of offsets touches a page of one of the engagement's protected regions (R254). -/
def onProtected (s : State) (e off n : Nat) : Bool :=
  s.regions.any fun r => r.2.eng.toNat == e && r.2.prot && n != 0 &&
    decide (r.2.base / 2 ^ 21 ≤ (off + n - 1) / 2 ^ 21) && decide (off / 2 ^ 21 ≤ (r.2.base + r.2.nblk * rawBytes r.2.fmt - 1) / 2 ^ 21)

/-- Whether the packer is kept off what a packed write of region `n` of the engagement touches (R254). -/
def packerKept (s : State) (e n : Nat) : Bool :=
  match ownRegion s e n with
  | some r => r.prot || onProtected s e r.base (regionBytes r)
  | none => false

/-- The log entry of a packed write or a first pass aimed at a protected page (R254, R384). -/
def logProtected (s : State) (req addr : Nat) : State :=
  logViolation s { addr := BitVec.ofNat 32 addr, req := BitVec.ofNat 16 req, src := 5, write := true, cid := 0x1F }

/-- A packed write aimed at a protected page (R254): not performed, logged, and a schedule fault of the core. -/
def protectedPage (s : State) (ctx : LegCtx) (addr : Nat) : State := legFault (logProtected s ctx.core addr) ctx 7

/-- The replay record of a circuit: its token and its tracker histories (R201, R407). -/
def replayRec (s : State) (ctx : LegCtx) : Option ReplayBuf :=
  (legCirc s ctx).map fun c =>
    { token := c.token.toNat, consignor := c.consignor.val, qslot := c.qslot.toNat, counted := true
      hist := (trackerAddrs (getEng s ctx.eng)).map fun a => wsBytes s (physOf s a.1) a.2 128 }

/-- Pieces of a write as posted writes of the engagement. -/
def asPosts (s : State) (e : Nat) (ps : List (Nat × List MByte)) : List Posted := ps.flatMap fun x => (engChunks s e x.1 x.2).map asPosted

/-- A packed write from block `blk` of a region on (R244, R250, R312): block 0 of a KV region builds the table anew. -/
def packedPost (s : State) (e n : Nat) (r : Region) (blk : Nat) (bs : List MByte) : PostRec :=
  let new := r.kv && blk == 0
  let tab := if new then buildTable (passKeys r.fmt bs) else tableOf (plainOf (regionTable s e r))
  let ps := packBlocks r tab blk (cutBlocks (bs.length + 1) (rawBytes r.fmt) bs)
  { ws := asPosts s e ((if new then [(r.base, markAll false (preamble r tab))] else []) ++ packPieces r ps)
    blocks := ps.map fun b => (n, b.1, b.2.ovf), table := if new then some n else none }

/-- What a write move posts: raw rows with their DBF8 strips, or packed blocks. -/
def movePost (s : State) (p e : Nat) (d : PorterDesc) : PostRec :=
  let bs := wsGather s p d
  match descRegion s e d with
  | some r => packedPost s e d.region r d.blk bs
  | none =>
    { ws := asPosts s e (moveTargets d 0 bs ++ if d.strip then (List.range (cdiv (moveBytes d) 4096)).map fun j => (d.sstrip + 128 * j, wsRead s p (d.stripAddr + 128 * j) 128) else []) }

/-- The beats a write owns its lane for (R311): its bytes, the reserved ones for a packed destination. -/
def postBeats (s : State) (e : Nat) (d : PorterDesc) : Nat := cdiv (fetchBytes s e d) 512

/-- Core cycles of the first pass of a packed write that builds its table (R244). -/
def firstPass (s : State) (e : Nat) (d : PorterDesc) : Nat :=
  match descRegion s e d with
  | some r => if r.kv && d.blk == 0 then 2 * descBlocks r d else 0
  | none => 0

/-- A write is posted five beats after its last slot beat (R311), and after its first pass. -/
def postDue (s : State) (e : Nat) (d : PorterDesc) (cyc : Nat) : Nat := 8 * (cyc / 8 + postBeats s e d + 5) + firstPass s e d

/-- The stacked-memory ranges of a write. -/
def writeRanges (s : State) (e : Nat) (d : PorterDesc) : List (Nat × Nat × Bool) :=
  match descRegion s e d with
  | some r => [(r.base, regionBytes r, true)]
  | none => rowRanges d.dst d.dstride d.len d.rows true

/-- STACKED_MEMORY_WRITE (R311); the last leg of a circuit also posts the replay record (R407). -/
def writeRun (s : State) (ctx : LegCtx) (l : PorterLeg) (replay : Bool) : State :=
  porterLeg s ctx l 6 (1 + postBeats s ctx.eng l.desc) fun s p cyc =>
    let d := l.desc
    if d.packed && (ownRegion s ctx.eng d.region).isNone then foreignPage s ctx d.dst true
    else if d.packed && packerKept s ctx.eng d.region then protectedPage s ctx d.dst
    else guarded s ctx (foreignRange s p ctx.eng (rowRanges d.src d.sstride d.len d.rows false))
      (guarded s ctx (foreignOffset s ctx.eng (writeRanges s ctx.eng d))
        (launch s ctx (postDue s ctx.eng d cyc) (.post { movePost s p ctx.eng d with replay := if replay then replayRec s ctx else none })))

def execStackedMemoryWrite (ctx : LegCtx) (leg : PorterLeg) (replay : Bool) (s : State) : Host.Outcome State Fault Refusal :=
  .next (writeRun s ctx leg replay)

/-! ## KV blocks and their summaries (R222, R244, R312, R313) -/

/-- FP4 magnitudes in halves. -/
def fp4Halves : List Nat := [0, 1, 2, 3, 4, 6, 8, 12]

/-- The FP4 code of a magnitude n/d counted in halves: nearest, ties to the even code, at most 6. -/
def fp4Code (n d : Nat) : Nat :=
  fp4Halves.zipIdx.foldl (fun best c =>
    let dist (h : Nat) : Nat := if n ≤ h * d then h * d - n else n - h * d
    let b := dist (fp4Halves.getD best 0)
    let x := dist c.1
    if x < b ∨ (x = b ∧ c.2 % 2 = 0) then c.2 else best) 0

/-- Encode a run of 32 elements: scale byte and codes (R222). -/
def encodeFp4 (xs : List FVal) : Nat × List Nat :=
  if xs.any FVal.isNan then (0xFF, xs.map fun _ => 0)
  else
    let ys := xs.map dbfFinite
    match ys.foldl (fun (m y : FVal) => FVal.max m (FVal.abs y)) (FVal.fin false 0 1) with
    | .fin _ n d =>
      if n = 0 then (0, xs.map fun _ => 0)
      else
        let e : Int := clampI 0 0xFE (flog2 n d - 2 + 127)
        (e.toNat, ys.map fun y => match y.mul (FVal.dyadic false 1 (128 - e)) with
          | .fin s m c => fp4Code m c + (if s then 8 else 0)
          | _ => 0)
    | _ => (0, xs.map fun _ => 0)

/-- One half of a summary slot: nibbles, then scale bytes (R313). -/
def summaryHalf (xs : List MElem) : List MByte :=
  let runs := (blocks32 (xs.length + 1) xs).map fun r => (encodeFp4 (r.map Prod.fst), anyPoison r)
  (runs.flatMap fun r => (List.range 16).map fun i =>
      (BitVec.ofNat 8 (r.1.2.getD (2 * i) 0 + 16 * r.1.2.getD (2 * i + 1) 0), r.2)) ++
    runs.map fun r => (BitVec.ofNat 8 r.1.1, r.2)

/-- The format of a KV write's elements: its region's, or that of LEN × ROWS = 128 × D elements of one or two bytes. -/
def kvFormat (s : State) (e : Nat) (d : PorterDesc) : BitVec 4 :=
  match sfind s.regions d.region with
  | some r => if r.eng.toNat = e then r.fmt else if moveBytes d = 256 * d.d then 1 else 3
  | none => if moveBytes d = 256 * d.d then 1 else 3

/-- The FP4 summary of a block: its ring slot and its bytes. -/
def kvSummary (s : State) (e : Nat) (d : PorterDesc) (bs : List MByte) : Nat × List MByte :=
  let xs := plainElems (kvFormat s e d) bs
  (d.sumAddr + 68 * d.d * (d.blk % d.sumb), summaryHalf (xs.take (64 * d.d)) ++ summaryHalf (xs.drop (64 * d.d)))

/-- The block's post: packed under the region's table, or raw to a protected region, where block j follows block j − 1 (R312). -/
def kvBlockPost (s : State) (e : Nat) (d : PorterDesc) (bs : List MByte) : PostRec :=
  match descRegion s e d with
  | some r => packedPost s e d.region r (d.blk * (d.d / 2)) bs
  | none => { ws := asPosts s e [(d.dst + d.blk * moveBytes d, bs)] }

/-- Whether a packed KV write names a region that is not a KV region (R237, R586). -/
def notKv (s : State) (e : Nat) (d : PorterDesc) : Bool := d.packed && (match ownRegion s e d.region with | some r => !r.kv | none => false)

/-- KV_BLOCK_WRITE (R312): the block is posted under R311, and its summary is in the ring 1 + ceil(raw bytes / 1,024) beats after its issue. -/
def kvRun (s : State) (ctx : LegCtx) (l : PorterLeg) : State :=
  porterLeg s ctx l 7 (1 + postBeats s ctx.eng l.desc) fun s p cyc =>
    let d := l.desc
    let ranges := match descRegion s ctx.eng d with
      | some r => [(r.base, regionBytes r, true)]
      | none => [(d.dst + d.blk * moveBytes d, moveBytes d, true)]
    if d.packed && (ownRegion s ctx.eng d.region).isNone then foreignPage s ctx d.dst true
    else if notKv s ctx.eng d then legFault s ctx 2
    else if d.packed && packerKept s ctx.eng d.region && (descRegion s ctx.eng d).isSome then protectedPage s ctx d.dst
    else guarded s ctx (foreignRange s p ctx.eng (rowRanges d.src d.sstride d.len d.rows false ++
        if d.summary then [(d.sumAddr, 68 * d.d * d.sumb, true)] else []))
      (guarded s ctx (foreignOffset s ctx.eng ranges)
        (let bs := wsGather s p d
         let s1 := launch s ctx (postDue s ctx.eng d cyc) (.post (kvBlockPost s ctx.eng d bs))
         if d.summary then launch s1 ctx (cyc + 8 * moveBeats d) (.write [(p, kvSummary s ctx.eng d bs)] {} []) else s1))

def execKvBlockWrite (ctx : LegCtx) (leg : PorterLeg) (s : State) : Host.Outcome State Fault Refusal := .next (kvRun s ctx leg)

/-! ## Device channels (R306, R308) -/

/-- A device channel's move that leaves the reservation is not performed and is logged. -/
def channelForeign (s : State) (addr : Nat) (write : Bool) : State :=
  logViolation s { addr := BitVec.ofNat 32 addr, req := 0, src := 4, write := write, cid := 0x1F }

/-- Perform a device channel's move when its descriptor is good and its stacked-memory rows are the engagement's. -/
def channelMove (s : State) (e op : Nat) (d : PorterDesc) (rs : List (Nat × Nat × Bool)) (act : State) : State :=
  if !descOk d || d.op.toNat != op then s
  else match foreignOffset s e rs with
    | some r => channelForeign s r.1 r.2
    | none => act

/-- The rows of a move read from an engagement's stacked memory. -/
def engGather (s : State) (e : Nat) (d : PorterDesc) : List MByte := (List.range d.rows).flatMap fun i => engRead s e (d.src + i * d.sstride) d.len

/-- STACKED_MEMORY_COPY (R306). -/
def smCopy (s : State) (e : Nat) (d : PorterDesc) : State :=
  channelMove s e 8 d (rowRanges d.src d.sstride d.len d.rows false ++ rowRanges d.dst d.dstride d.len d.rows true)
    (scatter (fun s a b => engPost s e a b) d.dst d.dstride d.len s (engGather s e d))

def execStackedMemoryCopy (eng : Fin 64) (_chan : Fin 8) (desc : PorterDesc) (s : State) : Host.Outcome State Fault Refusal :=
  .next (smCopy s eng desc)

/-- Whether every granule of a range is DEVICE (R367). -/
def windowDevice (s : State) (addr n : Nat) : Bool := (granulesOf addr n).all fun k => decide (k < 65536) && (getGran s k).flag == granDevice

/-- Post a write into the shared window (R308, R311). -/
def winPost (s : State) (addr : Nat) (bs : List MByte) : State :=
  noteStaging { s with prt := { s.prt with writes := s.prt.writes ++
    ((chunksOf addr bs).filterMap fun c => (granPa s c.1).map fun pa => asPosted (pa, c.2)) } }

/-- SHARED_WINDOW_MOVE (R306, R367): granules that are not DEVICE are not touched. -/
def windowMove (s : State) (e : Nat) (d : PorterDesc) (toWindow : Bool) : State :=
  if toWindow then
    channelMove s e 9 d (rowRanges d.src d.sstride d.len d.rows false)
      (if (List.range d.rows).all fun i => windowDevice s (d.dst + i * d.dstride) d.len then
        scatter winPost d.dst d.dstride d.len s (engGather s e d)
       else channelForeign s d.dst true)
  else
    channelMove s e 9 d (rowRanges d.dst d.dstride d.len d.rows true)
      (if (List.range d.rows).all fun i => windowDevice s (d.src + i * d.sstride) d.len then
        scatter (fun s a b => engPost s e a b) d.dst d.dstride d.len s ((List.range d.rows).flatMap fun i => winRead s (d.src + i * d.sstride) d.len)
       else channelForeign s d.src false)

def execSharedWindowMove (eng : Fin 64) (_chan : Fin 8) (desc : PorterDesc) (toWindow : Bool) (s : State) :
    Host.Outcome State Fault Refusal :=
  .next (windowMove s eng desc toWindow)

/-- STATIC_REGION_PACK (R244): a first pass over the whole source builds the table, a second packs it. A command whose BLK is not 0 goes on with
a region that is packed, under its table (R243). -/
def regionPack (s : State) (e : Nat) (d : PorterDesc) : State :=
  let good := descOk d && d.op == 10
  match ownRegion s e d.region with
  | none => if good then channelForeign s d.dst true else s
  | some r =>
    if packerKept s e d.region then (if good then logProtected s 0 d.dst else s)
    else if r.kv then s
    else
      channelMove s e 10 d (rowRanges d.src d.sstride d.len d.rows false ++ [(r.base, regionBytes r, true)])
        (let bs := engGather s e d
         let s1 := if d.blk = 0 then writeTable (fun s e off b => engPost s e off b) e d.region r bs s else s
         packRun (fun s e off b => engPost s e off b) e d.region r (tableOf (plainOf (regionTable s1 e r))) s1 d.blk (cutBlocks (bs.length + 1) (rawBytes r.fmt) bs))

def execStaticRegionPack (eng : Fin 64) (_chan : Fin 8) (desc : PorterDesc) (s : State) : Host.Outcome State Fault Refusal :=
  .next (regionPack s eng desc)

end Sys2Proof.Machine
end

