-- ==== Sys2Proof/Machine/Vector.lean ====
section
/-! DEFINITION. The legs of the vector unit: one meaning per operation over one leg, which checks, reads its operands at issue and writes its
results after the operation's cycles (R181–R202, R216–R218, R282). -/

namespace Sys2Proof.Machine

/-! ## The leg (R218, R282) -/

/-- What an operation yields: the pieces it writes, what it counts, and the code tensors among its results, by address. -/
abbrev VecOut := List (Nat × List MByte) × Tally × List (Nat × Word × Byte)

/-- The unit takes a leg for its cycles, with its accesses to the Waystation. -/
def takeUnit (s : State) (p fin : Nat) (use : List BankUse) : State := takeBanks (modCore s p fun c => { c with vecFree := fin }) p use

/-- Issue a vector leg: its checks, then `act` on its core; the results are written when the operation's cycles have passed. -/
def vecLeg (s : State) (ctx : LegCtx) (vop : Byte) (d : VecDesc) (act : State → Nat → VecOut) : State :=
  onLeg s ctx (.vector vop d) fun s cyc =>
    let p := physOf s ctx.core
    let use := vecUse vop.toNat d cyc
    if !vecOk vop.toNat d then legFault s ctx 2
    else if cyc < (getCore s p).vecFree ∨ banksFree (getCore s p) use = false then legFault s ctx 1
    else match foreignRange s p ctx.eng (vecRanges vop.toNat d) with
      | some r => foreignPage s ctx r.1 r.2
      | none =>
        let fin := cyc + (vopCycles vop.toNat d.fmtIn d.n).getD 0
        let r := act s p
        launch (takeUnit s p fin use) ctx fin (.write (r.1.map fun x => (p, x.1, x.2)) r.2.1 (r.2.2.map fun q => (wsKey p q.1, q.2)))

/-- The elements of the first operand. -/
def vecIn (s : State) (p : Nat) (d : VecDesc) : List VElem := readVec s p d.src0.toNat d.fmtIn d.n

/-- A result tensor in a format: each element with whether its operation saturated (R189, R192). Codes take s_a and z from the parameters, and
are kept with them (R197). -/
def emitted (d : VecDesc) (fmt : BitVec 4) (rs : List (VElem × Bool)) : VecOut :=
  let z := d.param1.toNat % 256
  let w := writeElems fmt d.param0 z (rs.map Prod.fst)
  ([(d.dst.toNat, w.bytes)], cvtTally w (rs.map Prod.snd), if (actWidth fmt).isSome then [(d.dst.toNat, d.param0, BitVec.ofNat 8 z)] else [])

/-! ## Elementwise operations -/

/-- A leg of one operand. -/
def vecUnary (s : State) (ctx : LegCtx) (vop : Byte) (d : VecDesc) (f : Word → Word × Bool) : State :=
  vecLeg s ctx vop d fun s p => emitted d d.fmtOut ((vecIn s p d).map fun x => (((f x.1).1, x.2), (f x.1).2))

/-- A leg of two operands. -/
def vecBinary (s : State) (ctx : LegCtx) (vop : Byte) (d : VecDesc) (f : Word → Word → Word × Bool) : State :=
  vecLeg s ctx vop d fun s p =>
    emitted d d.fmtOut (((vecIn s p d).zip (readVec s p d.src1.toNat d.fmtIn d.n)).map fun x =>
      (((f x.1.1 x.2.1).1, x.1.2 || x.2.2), (f x.1.1 x.2.1).2))

/-- A leg of three operands; the third is `src2` (log 21). -/
def vecTernary (s : State) (ctx : LegCtx) (vop : Byte) (d : VecDesc) (f : Word → Word → Word → Word × Bool) : State :=
  vecLeg s ctx vop d fun s p =>
    emitted d d.fmtOut
      (((vecIn s p d).zip ((readVec s p d.src1.toNat d.fmtIn d.n).zip (readVec s p d.src2.toNat d.fmtIn d.n))).map fun x =>
        (((f x.1.1 x.2.1.1 x.2.2.1).1, x.1.2 || x.2.1.2 || x.2.2.2), (f x.1.1 x.2.1.1 x.2.2.1).2))

def execVecAdd (ctx : LegCtx) (d : VecDesc) (s : State) : Host.Outcome State Fault Refusal := .next (vecBinary s ctx 0x01 d fadd)
def execVecSub (ctx : LegCtx) (d : VecDesc) (s : State) : Host.Outcome State Fault Refusal := .next (vecBinary s ctx 0x02 d fsub)
def execVecMul (ctx : LegCtx) (d : VecDesc) (s : State) : Host.Outcome State Fault Refusal := .next (vecBinary s ctx 0x03 d fmul)
def execVecFma (ctx : LegCtx) (d : VecDesc) (s : State) : Host.Outcome State Fault Refusal := .next (vecTernary s ctx 0x04 d fma)

def execVecMin (ctx : LegCtx) (d : VecDesc) (s : State) : Host.Outcome State Fault Refusal :=
  .next (vecBinary s ctx 0x05 d fun a b => (vecMinimum a b, false))

def execVecMax (ctx : LegCtx) (d : VecDesc) (s : State) : Host.Outcome State Fault Refusal :=
  .next (vecBinary s ctx 0x06 d fun a b => (vecMaximum a b, false))

def execVecAbs (ctx : LegCtx) (d : VecDesc) (s : State) : Host.Outcome State Fault Refusal :=
  .next (vecUnary s ctx 0x07 d fun a => toFp (fp a).abs)

def execVecCompare (ctx : LegCtx) (d : VecDesc) (s : State) : Host.Outcome State Fault Refusal :=
  .next (vecBinary s ctx 0x08 d fun a b => (if compareHolds d.mode a b then Config.compareTrue else Config.compareFalse, false))

/-- Select by the first operand: the second where it is not zero, else the third (log 21). -/
def execVecSelect (ctx : LegCtx) (d : VecDesc) (s : State) : Host.Outcome State Fault Refusal :=
  .next (vecTernary s ctx 0x09 d fun m a b => (if (fp m).isZero then b else a, false))

def execVecConvert (ctx : LegCtx) (d : VecDesc) (s : State) : Host.Outcome State Fault Refusal :=
  .next (vecUnary s ctx 0x10 d fun a => (a, false))

/-! ## Quantisation (R197, R202) -/

/-- Codes of elements with s_a and z, kept with them for what is made of the codes; `sat` flags elements that the mode saturates (R198). -/
def quantised (d : VecDesc) (sa : Word) (z : Nat) (sat : Word → Bool) (vs : List VElem) : VecOut :=
  let w := (quantWidth d.fmtOut).getD 8
  let cs := vs.map fun v => (quantCode w sa z v.1, v.2)
  let k := cvtTally { bytes := [], nans := vs.map fun v => (fp v.1).isNan, sats := cs.map fun c => c.1.2 } (vs.map fun v => sat v.1)
  (quantPieces d w (cs.map fun c => (c.1.1, c.2)), k, [(d.dst.toNat, sa, BitVec.ofNat 8 z)])

def execVecQuantise (ctx : LegCtx) (d : VecDesc) (s : State) : Host.Outcome State Fault Refusal :=
  .next (vecLeg s ctx 0x11 d fun s p => quantised d d.param0 (d.param1.toNat % 256) (fun _ => false) (vecIn s p d))

/-! ## Approximated functions (R216) -/

def execVecExp (ctx : LegCtx) (d : VecDesc) (s : State) : Host.Outcome State Fault Refusal := .next (vecUnary s ctx 0x20 d vexp)
def execVecExp2 (ctx : LegCtx) (d : VecDesc) (s : State) : Host.Outcome State Fault Refusal := .next (vecUnary s ctx 0x21 d vexp2)
def execVecLog2 (ctx : LegCtx) (d : VecDesc) (s : State) : Host.Outcome State Fault Refusal := .next (vecUnary s ctx 0x22 d vlog2)
def execVecReciprocal (ctx : LegCtx) (d : VecDesc) (s : State) : Host.Outcome State Fault Refusal := .next (vecUnary s ctx 0x23 d vrecip)
def execVecRsqrt (ctx : LegCtx) (d : VecDesc) (s : State) : Host.Outcome State Fault Refusal := .next (vecUnary s ctx 0x24 d vrsqrt)
def execVecSqrt (ctx : LegCtx) (d : VecDesc) (s : State) : Host.Outcome State Fault Refusal := .next (vecUnary s ctx 0x25 d vsqrt)
def execVecSigmoid (ctx : LegCtx) (d : VecDesc) (s : State) : Host.Outcome State Fault Refusal := .next (vecUnary s ctx 0x26 d vsigmoid)
def execVecTanh (ctx : LegCtx) (d : VecDesc) (s : State) : Host.Outcome State Fault Refusal := .next (vecUnary s ctx 0x27 d vtanh)
def execVecSilu (ctx : LegCtx) (d : VecDesc) (s : State) : Host.Outcome State Fault Refusal := .next (vecUnary s ctx 0x28 d vsilu)
def execVecGeluTanh (ctx : LegCtx) (d : VecDesc) (s : State) : Host.Outcome State Fault Refusal := .next (vecUnary s ctx 0x29 d vgeluTanh)
def execVecGeluErf (ctx : LegCtx) (d : VecDesc) (s : State) : Host.Outcome State Fault Refusal := .next (vecUnary s ctx 0x2A d vgeluErf)

/-! ## Rotary embedding -/

def execVecRotary (ctx : LegCtx) (d : VecDesc) (s : State) : Host.Outcome State Fault Refusal :=
  .next (vecLeg s ctx 0x30 d fun s p => emitted d d.fmtOut ((List.range d.n).map (rotate (vecIn s p d) (readVec s p d.src1.toNat d.fmtIn d.n))))

/-! ## Reductions (R217) -/

/-- A reducing leg: its results, all marked where any element is. -/
def vecReduce (s : State) (ctx : LegCtx) (vop : Byte) (d : VecDesc) (f : List Word → List (Word × Bool)) : State :=
  vecLeg s ctx vop d fun s p =>
    let xs := vecIn s p d
    emitted d d.fmtOut ((f (xs.map Prod.fst)).map fun r => ((r.1, xs.any Prod.snd), r.2))

def execVecSum (ctx : LegCtx) (d : VecDesc) (s : State) : Host.Outcome State Fault Refusal :=
  .next (vecReduce s ctx 0x40 d fun xs => [reduceSum xs])

def execVecReduceMax (ctx : LegCtx) (d : VecDesc) (s : State) : Host.Outcome State Fault Refusal :=
  .next (vecReduce s ctx 0x41 d fun xs => [(foldPick vecMaximum xs, false)])

def execVecReduceMin (ctx : LegCtx) (d : VecDesc) (s : State) : Host.Outcome State Fault Refusal :=
  .next (vecReduce s ctx 0x42 d fun xs => [(foldPick vecMinimum xs, false)])

def execVecSumOfSquares (ctx : LegCtx) (d : VecDesc) (s : State) : Host.Outcome State Fault Refusal :=
  .next (vecReduce s ctx 0x43 d fun xs => [sumSquares xs])

/-- The minimum, then the maximum. -/
def execVecMinAndMax (ctx : LegCtx) (d : VecDesc) (s : State) : Host.Outcome State Fault Refusal :=
  .next (vecReduce s ctx 0x44 d fun xs => [(foldPick vecMinimum xs, false), (foldPick vecMaximum xs, false)])

/-! ## DBF8 encoding (R187) -/

def execVecDbf8Encoding (ctx : LegCtx) (d : VecDesc) (s : State) : Host.Outcome State Fault Refusal :=
  .next (vecLeg s ctx 0x50 d fun s p => emitted d 6 ((vecIn s p d).map fun x => (x, false)))

/-! ## Normalisations and softmax -/

/-- A row operation, with its scale and shift tables at SRC1 (log 21). -/
def vecRow (s : State) (ctx : LegCtx) (vop : Byte) (d : VecDesc) (f : List Word → List Word → List (Word × Bool)) : State :=
  vecLeg s ctx vop d fun s p =>
    let xs := vecIn s p d
    let ts := readVec s p d.src1.toNat d.fmtIn (tableElems vop.toNat d)
    emitted d d.fmtOut ((f (xs.map Prod.fst) (ts.map Prod.fst)).map fun r => ((r.1, xs.any Prod.snd || ts.any Prod.snd), r.2))

def execVecRmsnorm (ctx : LegCtx) (d : VecDesc) (s : State) : Host.Outcome State Fault Refusal := .next (vecRow s ctx 0x60 d (rmsNorm d.param0))
def execVecLayernorm (ctx : LegCtx) (d : VecDesc) (s : State) : Host.Outcome State Fault Refusal := .next (vecRow s ctx 0x61 d (layerNorm d.param0))
def execVecSoftmax (ctx : LegCtx) (d : VecDesc) (s : State) : Host.Outcome State Fault Refusal := .next (vecRow s ctx 0x62 d softmax)

/-! ## Scale trackers (R198–R201) -/

/-- The scale tracker (R198–R200): the step's pair enters the history, newest first (log 21), and the tensor is quantised with the window's
scale. Every code depends on every element. Under NONNEG a negative value saturates. -/
def tracked (s : State) (p : Nat) (d : VecDesc) : VecOut :=
  let xs := vecIn s p d
  let hb := wsRead s p d.param1.toNat 128
  let h := (stepRange (xs.map Prod.fst) :: historyPairs (plainOf hb)).take 16
  let mark := xs.any Prod.snd || anyMark hb
  let r := windowRange d.win.toNat h
  let k := trackerScale d.mode.toNat ((quantWidth d.fmtOut).getD 8) r.1 r.2
  let q := quantised d k.1 k.2 (fun x => d.mode.toNat == 2 && (fp x).lt (fp 0)) (xs.map fun x => (x.1, mark))
  ((d.param1.toNat, markAll mark (h.flatMap fun x => wordsBytes [x.1, x.2])) :: q.1, q.2)

def execVecScaleTracker (ctx : LegCtx) (d : VecDesc) (s : State) : Host.Outcome State Fault Refusal := .next (vecLeg s ctx 0x70 d fun s p => tracked s p d)

/-! ## Input-plane bundles (R58, R300) -/

/-- Input-plane bundles from the codes at SRC0, one per 2,048 rows, with the s_a and z the codes were made with (R197). -/
def bundled (s : State) (p : Nat) (d : VecDesc) (tag : BitVec 16) : VecOut :=
  let n := (actWidth d.fmtIn).getD 8
  let cs := vecIn s p d
  let k := (sfind (getCore s p).quant d.src0.toNat).getD (d.param0, BitVec.ofNat 8 d.param1.toNat)
  ((List.range (cdiv d.n 2048)).map fun i => (frameAt d.dst.toNat n i, bundleFrame n k.2.toNat tag k.1 ((cs.drop (2048 * i)).take 2048)), {}, [])

def execVecInputPlaneBundles (ctx : LegCtx) (d : VecDesc) (tag : BitVec 16) (s : State) : Host.Outcome State Fault Refusal :=
  .next (vecLeg s ctx 0x71 d fun s p => bundled s p d tag)

end Sys2Proof.Machine
end

