-- ==== Sys2Proof/Machine/Itinerary.lean ====
section
/-! DEFINITION. Itinerary images: the checks Mladbin Resident makes of legs and descriptors, their encoding, and the image
the Factor writes into a Waystation (R272–R274, R283, R307, R586). -/

namespace Sys2Proof.Machine

/-! ## Checks (R274, R283, R586) -/

/-- The region that a packed descriptor of a plan names; a protected region is never packed (R253). -/
def planRegion (pl : Plan) (d : PorterDesc) : Option PlanRegion :=
  if d.packed then pl.regions.find? fun r => r.region == d.region && !r.prot else none

/-- The bytes a descriptor's move reserves: the reserved bytes of R252 where its stacked-memory side is packed (R307). -/
def planBytes (pl : Plan) (d : PorterDesc) : Nat :=
  match planRegion pl d with
  | some r => moveBytes d / rawBytes r.fmt * (8 + slotBytes r.fmt r.slot)
  | none => moveBytes d

/-- The reserved rate of a fetch of `n` bytes whose deadline is `t` beats beyond its issue and the 160 beats of R283, in bytes per beat (R327). -/
def fetchRate (n t : Nat) : Nat := min 512 (64 * cdiv n (64 * t))

/-- Whether a PORTER leg meets R283: a read carries a deadline far enough away, every other move none. -/
def deadlineOk (pl : Plan) (issue : Nat) (l : PorterLeg) : Bool :=
  let t := l.dl - (issue / 8 + 160)
  let n := planBytes pl l.desc
  if l.desc.op = 5 then (l.late == 1 || l.late == 2) && decide (0 < t) && decide (cdiv n (fetchRate n t) ≤ t) && decide (l.dl < 0xFFFFFF)
  else l.dl == 0xFFFFFF && l.late == 0

/-- Whether a packed KV write names a region of its plan that is not a KV region, or a leg moves packed bytes that are not whole blocks of their
region (R237, R239, R586). -/
def regionFits (pl : Plan) (d : PorterDesc) : Bool :=
  !d.packed || (pl.regions.any fun r => r.region == d.region && (r.prot || (moveBytes d % rawBytes r.fmt == 0 && packable r.fmt)) && (d.op != 7 || r.kv))

/-- Whether a leg's body has only values its tables give, and its class runs its move. -/
def bodyOk (pl : Plan) (issue : Nat) (b : LegBody) : Bool :=
  match b with
  | .strike l => strikeLegOk l
  | .select l => decide (l.string.toNat < 12)
  | .reduce l => reduceLegOk l
  | .porter l => descOk l.desc && [1, 2, 5, 6, 7].contains l.desc.op.toNat && deadlineOk pl issue l && regionFits pl l.desc
  | .matrix d => matrixOk d
  | .attend d => attnOk d
  | .vector vop d => vecOk vop.toNat d
  | .convoy l => convoyOk l 0 || convoyOk l 1

/-- Whether the class issues only at beats (R273). -/
def onBeat (b : LegBody) : Bool :=
  match b with
  | .strike _ | .select _ | .reduce _ | .convoy _ => true
  | .porter _ | .matrix _ | .attend _ | .vector .. => false

/-- A leg of an itinerary of a plan: within [0, 2P) beats and its 27-bit field (R273, R275). -/
def legOk (pl : Plan) (l : Leg) : Bool :=
  decide (l.issue < 16 * (pl.period * 256)) && decide (l.issue < 2 ^ 27) && (!onBeat l.body || l.issue % 8 == 0) && bodyOk pl l.issue l.body

/-- Whether legs stand in non-decreasing order of ISSUE. -/
def sortedLegs : List Leg → Bool
  | a :: b :: r => decide (a.issue ≤ b.issue) && sortedLegs (b :: r)
  | _ => true

/-- Whether an itinerary meets R272 to R274. -/
def itinOk (pl : Plan) (it : PlanItin) : Bool :=
  decide (1 ≤ it.legs.length) && decide (it.legs.length ≤ 65536) && it.len == 64 + (imageBody it.legs).length && decide (it.base + it.len ≤ wsSize) &&
    sortedLegs it.legs && it.legs.all (legOk pl)

/-! ## Loading (R272, R396) -/

/-- The Factor writes a plan's images into the cores' Waystations. -/
def writeImages (s : State) (e : Nat) (pl : Plan) : State :=
  forEach pl.itins s fun s it => wsWrite s (physOf s it.core) it.base (markAll false (imageBytes e pl.period it.legs))

/-- Give every Drover of a plan its itinerary, active at once, which releases the Drover (R497); a CRC that differs is a schedule fault. -/
def loadActive (s : State) (e : Fin 64) (pl : Plan) : State :=
  forEach pl.itins s fun s it =>
    let p := physOf s it.core
    let s1 := modCore s p fun c => { c with running := !c.dead, itins := c.itins ++ [{ eng := e, base := it.base, len := it.len }] }
    if imageCrcOk s1 p it.base it.len then s1 else recordFault s1 p 8 e 0

end Sys2Proof.Machine
end

