-- ==== Sys2Proof/Machine/Uses.lean ====
section
/-! DEFINITION. What legs use, and when: units, banks, bytes and deliveries, and whether two legs ever meet (R271, R273, R280, R287,
R298, R301–R304, R310–R314, R421). -/

namespace Sys2Proof.Machine

/-! ## Units (R280) -/

/-- A use of a unit: the unit, the first core cycle and the number of cycles, in a circuit that repeats every `per` cycles. `code` is the Ledger
resource (R391). Shared uses of a unit do not meet one another. -/
structure Use where
  code : Nat
  unit : List Nat
  start : Nat
  len : Nat
  per : Nat := 0
  share : Bool := false
  deriving DecidableEq, Repr

/-- How many uses may hold a unit at once: four legs of a Drover (R273), two lanes each way of a stop (R301), sixteen lanes each way of staging
(R302), and one of any other. -/
def unitRoom (unit : List Nat) : Nat :=
  match unit.headD 0 with
  | 15 => 4
  | 16 | 17 => 2
  | 18 | 19 => 16
  | _ => 1

/-- Whether two uses of one unit ever meet: both repeat for ever. `step` is the shift they must bear (R227). -/
def usesMeet (step : Nat) (a b : Use) : Bool :=
  let g := Nat.gcd (Nat.gcd a.per b.per) step
  let d := (b.start + g - a.start % g) % g
  a.unit == b.unit && unitRoom a.unit == 1 && !(a.share && b.share) && decide (0 < a.len) && decide (0 < b.len) &&
    (decide (d < a.len) || decide (g < d + b.len))

/-- Delivered outputs of the blocks of a deck as planned. -/
def planOutputs (pl : Plan) (core string tile deck : Nat) : Nat :=
  match pl.decks.find? fun d => logicalDeck d.addr == deckNum core string tile deck with
  | some d => (d.blocks.map fun b => (blockOutputs d.fmt b).length).sum
  | none => 0

/-- Beats from a strike leg's issue to its outputs (R83). -/
def strikeBeats (pl : Plan) (core : Nat) (k : StrikeLeg) : Nat :=
  awPlanes k.aw * k.slot.toNat + 5 + ((maskTiles k.tmask).map fun t => planFloor pl core k.string.toNat t k.deck).foldl max 1

/-- Bytes that a strike drains. -/
def drainBytes (pl : Plan) (core : Nat) (k : StrikeLeg) : Nat :=
  ((maskTiles k.tmask).map fun t => planOutputs pl core k.string.toNat t k.deck).sum * (fmtBits k.ofmt / 8)

/-- The string whose partial sets a string-bus reduction adds: that of the strikes of its group. -/
def reduceString (pl : Plan) (core : Nat) (l : ReduceLeg) : Option Nat :=
  (coreLegs pl core).findSome? fun m => match m.body with | .strike k => if k.part && k.rgrp == l.rgrp then some k.string.toNat else none | _ => none

/-- The unit each leg goes to (R273). -/
def legTargets (pl : Plan) (core : Nat) (l : Leg) : List (List Nat) :=
  match l.body with
  | .strike k => (maskTiles k.tmask).map fun t => [1, k.string.toNat, t]
  | .select k => (maskTiles k.tmask).map fun t => [1, k.string.toNat, t]
  | .reduce k => if k.level then [[5]] else [[3, (reduceString pl core k).getD 12]]
  | .matrix _ | .attend _ => [[7]]
  | .vector .. => [[8]]
  | .porter k => [[6, k.chan.val]]
  | .convoy k => [[9, k.desc.lane.val]]

/-- Whether a select leg finds its deck already selected by the same itinerary, so that it takes no beats (R50). -/
def selectIdle (pl : Plan) (core : Nat) (issue : Nat) (string tile : Nat) (deck : Fin 4) : Bool :=
  match ((coreLegs pl core).filterMap fun m => match m.body with
    | .select k => if selectsTile string tile k ∧ m.issue < issue then some (m.issue, k.deck) else none
    | _ => none).getLast? with
  | some x => x.2 == deck
  | none => false

/-- Units a leg uses (R48, R63, R84, R212, R218, R220, R280, R287, R302, R303, R306, R310, R311). The converters, Tally banks and accumulators of two
strikes of a tile never coincide where slots are within R62 and switches take their four beats. -/
def legUnits (pl : Plan) (core : Nat) (l : Leg) : List Use :=
  let i := l.issue
  match l.body with
  | .strike k =>
    let n := awPlanes k.aw * k.slot.toNat
    ((maskTiles k.tmask).flatMap fun t =>
      [{ code := 0x0F, unit := [1, core, k.string.toNat, t], start := i + 16, len := 8 * n },
       { code := 0x0F, unit := [13, core, k.string.toNat, t, k.buf.val], start := i, len := 16 + 8 * n, share := true }]) ++
      (if k.part then [] else
        [{ code := 0x0F, unit := [3, core, k.string.toNat], start := i + 8 * strikeBeats pl core k, len := 8 * (2 + cdiv (drainBytes pl core k) 1024) }])
  | .select k => (maskTiles k.tmask).map fun t =>
      { code := 0x0F, unit := [1, core, k.string.toNat, t], start := i, len := if selectIdle pl core i k.string.toNat t k.deck then 0 else 32 }
  | .reduce k =>
    if k.level then [{ code := 0x0F, unit := [5, core], start := i, len := 8 * reduceBeats k }]
    else match reduceString pl core k with
      | some st => [{ code := 0x0F, unit := [3, core, st], start := i, len := 8 * reduceBeats k }]
      | none => []
  | .matrix d => [{ code := 0x0F, unit := [7, core], start := i, len := 64 * d.kt * d.t }]
  | .attend d => [{ code := 0x0F, unit := [7, core], start := i, len := attnLatency d }, { code := 0x0F, unit := [8, core], start := i, len := attnLatency d }]
  | .vector vop d => [{ code := 0x0F, unit := [8, core], start := i, len := (vopCycles vop.toNat d.fmtIn d.n).getD 0 }]
  | .porter k =>
    let lane := k.desc.lane.val
    let chan (n : Nat) : Use := { code := 0x0F, unit := [6, core, k.chan.val], start := i, len := 8 * n }
    let o := k.desc.op.toNat
    if o = 1 then
      chan (moveBeats k.desc) :: (maskTiles k.desc.tmask).map fun t =>
        { code := 0x0F, unit := [13, core, k.desc.string.toNat, t, k.desc.buf.val], start := i, len := 8 * moveBeats k.desc }
    else if o = 2 then [chan (moveBeats k.desc)]
    else if o = 5 then
      let w := k.dl - 1 - (i / 8 + 32)
      [chan 1, { code := 0x04, unit := [9, core / 8, lane], start := 8 * (i / 8 + 32), len := 8 * w },
       { code := 0x04, unit := [17, core], start := 8 * (i / 8 + 32), len := 8 * w }, { code := 0x05, unit := [18], start := 8 * (i / 8 + 29), len := 8 * w }]
    else
      let n := cdiv (planBytes pl k.desc) 512
      [chan (1 + n), { code := 0x04, unit := [9, core / 8, lane], start := 8 * (i / 8 + 1), len := 8 * n },
       { code := 0x04, unit := [16, core], start := 8 * (i / 8 + 1), len := 8 * n }, { code := 0x05, unit := [19], start := 8 * (i / 8 + 4), len := 8 * n }]
  | .convoy k =>
    let lane := k.desc.lane.val
    let dest := k.desc.tcore.toNat
    let n := 8 * k.nslot
    let src : List Use := [{ code := 0x04, unit := [9, core / 8, lane], start := i, len := n }, { code := 0x04, unit := [16, core], start := i, len := n }]
    if k.net = 0 then
      if dest / 8 = core / 8 then src ++ [{ code := 0x04, unit := [17, dest], start := i, len := n }]
      else src ++ [{ code := 0x05, unit := [10, core / 8, lane, dest / 8], start := i + 24, len := n },
        { code := 0x04, unit := [9, dest / 8, lane], start := i + 48, len := n }, { code := 0x04, unit := [17, dest], start := i + 48, len := n }]
    else src ++ [{ code := 0x05, unit := [10, 4 + k.way.toNat], start := i + 24, len := n }, { code := 0x06, unit := [11, k.way.toNat], start := i + 24, len := n }]

/-! ## Accesses to Waystations (R298) -/

/-- A leg's accessors with the cores they act on, in core cycles of the circuit. -/
def legAccs (pl : Plan) (core : Nat) (l : Leg) : List (Nat × Acc) :=
  let here (as : List Acc) : List (Nat × Acc) := as.map fun a => (core, a)
  match l.body with
  | .strike k => if k.part then [] else here (drainAcc (k.oaddr.toNat * 64) (drainBytes pl core k) (l.issue / 8 + strikeBeats pl core k))
  | .select _ => []
  | .reduce k => here (reduceAcc k (l.issue / 8))
  | .matrix d => here (matrixReads d l.issue ++ (matrixWrites d l.issue).flatten)
  | .attend d => here (attnReads d l.issue ++ attnWrites d l.issue)
  | .vector vop d => here (vecAcc vop.toNat d l.issue)
  | .porter k => here (porterAcc k.desc l.issue (k.dl - 2))
  | .convoy k =>
    here (convoyAcc k.desc (l.issue / 8)) ++
      (if k.net = 0 then (landingAcc k.desc (l.issue / 8) (roadsLag core k.desc.tcore.toNat)).map fun a => (k.desc.tcore.toNat, a) else [])

/-- The accesses of a leg to banks, by core. -/
def legBanks (pl : Plan) (core : Nat) (l : Leg) : List (Nat × BankUse) :=
  match l.body with
  | .matrix d => (matrixUse d l.issue).map fun u => (core, u)
  | .attend d => (attnUse d l.issue).map fun u => (core, u)
  | .porter k => (porterUse k.desc l.issue (k.dl - 2)).map fun u => (core, u)
  | .convoy k =>
    (convoyUse k.desc (l.issue / 8)).map (fun u => (core, u)) ++
      (if k.net = 0 then (landingUse k.desc (l.issue / 8) (roadsLag core k.desc.tcore.toNat)).map fun u => (k.desc.tcore.toNat, u) else [])
  | _ => (legAccs pl core l).flatMap fun x => (accBanks x.2).map fun u => (x.1, u)

/-- The beat in which the byte that a link convoy sends in its slot beat `x` lands (R426). -/
def linkLag (f : Nat) : Nat := 40 + f

/-- The accessors of a receive itinerary: 500 bytes a slot, in the landing cycles of one beat (R304, R426, log 123). -/
def linkAccs (f : Nat) (l : PlanLink) : List (Nat × Acc) :=
  match l.dest with
  | some (core, addr, len) => (List.range l.n).map fun i =>
      (core.val, { addr := addr + 500 * i, n := min 500 (len - 500 * i), write := true, start := l.first + i + linkLag f, kind := .window 1 })
  | none => []

def bankUses (core : Nat) (u : BankUse) : List Use :=
  (List.range u.reps).map fun i => { code := 0x0F, unit := [12, core, u.bank], start := u.start + 8 * i, len := u.len }

/-! ## The uses of a plan -/

/-- The slots of a plan in which the circuit word goes out, a tree link each (R276, R421). -/
def wordUses (tree : List Nat) (pl : Plan) : List Use :=
  tree.map fun p => { code := 0x06, unit := [11, p], start := 8 * (4 * pl.period * 256 - 1024), len := 8 }

/-- The uses of a plan from its anchor on; `f` gives the flight time of a port, `tree` the tree ports of an engagement that spans devices. -/
def planUses (f : Nat → Nat) (tree : List Nat) (pl : Plan) (anchor period : Nat) : List Use :=
  let legs := pl.itins.flatMap fun it => it.legs.flatMap fun l =>
    legUnits pl it.core l ++ { code := 0x0F, unit := [15, it.core], start := l.issue, len := 1 } ::
      (legTargets pl it.core l).map (fun u => { code := 0x0F, unit := 14 :: it.core.val :: u, start := l.issue, len := 1 }) ++
      (legBanks pl it.core l).flatMap fun x => bankUses x.1 x.2
  let links := pl.links.flatMap fun l => (linkAccs (f l.port) l).flatMap fun x => (accBanks x.2).flatMap (bankUses x.1)
  (legs ++ links ++ wordUses tree pl).map fun u => { u with start := u.start + 8 * anchor, per := 8 * period }

/-- Conflicts of a list of uses with one another: pairs, and a use with its own next circuit. -/
def selfMeet (code : Nat) : List Use → Bool
  | [] => false
  | u :: r => (u.code == code && unitRoom u.unit == 1 && (decide (u.per < u.len) || r.any (usesMeet 0 u))) || selfMeet code r

/-- Uses of a unit as loads. -/
def unitLoads (unit : List Nat) (us : List Use) : List Load :=
  (us.filter fun u => u.unit == unit).map fun u => { start := u.start, len := u.len, count := 1, per := u.per }

/-- Units of a resource that have room for more than one use. -/
def roomyUnits (code : Nat) (us : List Use) : List (List Nat) :=
  ((us.filter fun u => u.code == code && decide (1 < unitRoom u.unit)).map Use.unit).eraseDups

/-- Loads `n` later. -/
def laterLoads (n : Nat) (g : Loads) : Loads := g.map fun a => a.map fun u => { u with start := u.start + n }

/-- The most that engagements come to under every shift of one of them by a multiple of `step` (R227). -/
def shiftPeak (step : Nat) (g : Loads) (rest : List Loads) : Nat :=
  let h := loadHyper ((g :: rest).flatMap List.flatten)
  ((List.range (h / step + 1)).map fun i => claimPeak (laterLoads (i * step) g :: rest)).foldl max 0

/-- An engagement's claim: whether it holds shadow weights, and its uses under each plan it can run. -/
structure Claim where
  shadow : Bool
  plans : List (List Use)
  deriving DecidableEq, Repr

def claimLoads (unit : List Nat) (c : Claim) : Loads := c.plans.map (unitLoads unit)

/-- Whether a plan's uses of a resource meet one another or those of the admitted engagements. -/
def codeMeets (code : Nat) (new : List Use) (old : List Claim) : Bool :=
  selfMeet code new ||
    (old.any fun c => c.plans.any fun us => new.any fun u => u.code == code && us.any (usesMeet 0 u)) ||
    (roomyUnits code new).any fun unit => decide (unitRoom unit < claimPeak ([unitLoads unit new] :: old.map (claimLoads unit)))

/-- Whether they meet under a shift of an engagement with shadow weights (R227). -/
def shiftMeets (code : Nat) (shadow : Bool) (new : List Use) (old : List Claim) : Bool :=
  (old.any fun c => (shadow || c.shadow) && c.plans.any fun us => new.any fun u => u.code == code && us.any (usesMeet 2048 u)) ||
    (roomyUnits code new).any fun unit =>
      let mine : Loads := [unitLoads unit new]
      (shadow && decide (unitRoom unit < shiftPeak 2048 mine (old.map (claimLoads unit)))) ||
        old.zipIdx.any fun c => c.1.shadow &&
          decide (unitRoom unit < shiftPeak 2048 (claimLoads unit c.1) (mine :: (old.eraseIdx c.2).map (claimLoads unit)))

/-- Whether a port direction keeps 8 of any 64 consecutive beats unowned (R163, R421). -/
def portLoadOk (p : Nat) (us : List Use) : Bool :=
  let ls := (unitLoads [11, p] us).map fun u => { u with start := u.start / 8, len := u.len / 8, per := u.per / 8 }
  let h := loadHyper ls
  (loadStarts h ls).all fun b => decide (((List.range 64).filter fun i => decide (0 < loadAt h ((b + i) % h) ls)).length ≤ 56)

/-! ## Bytes (R271, R314) -/

/-- A leg of a plan: its core, its place in its itinerary, and its ISSUE. -/
structure LegAt where
  core : Nat
  idx : Nat
  leg : Leg
  deriving DecidableEq, Repr

def planLegs (pl : Plan) : List LegAt := pl.itins.flatMap fun it => it.legs.zipIdx.map fun x => { core := it.core, idx := x.2, leg := x.1 }

/-- Bytes a leg touches in a beat: the leg, the core, the beat, first byte and bytes, and whether it writes. -/
structure Touch where
  by_ : Nat × Nat
  core : Nat
  beat : Nat
  lo : Nat
  n : Nat
  write : Bool
  deriving DecidableEq, Repr

def legTouches (pl : Plan) (x : LegAt) : List Touch :=
  (legAccs pl x.core x.leg).flatMap fun a => (accPieces a.2).map fun q =>
    { by_ := (x.core, x.idx), core := a.1, beat := q.1, lo := q.2.1, n := q.2.2, write := a.2.write }

/-- Whether touches share a byte that one of them writes. -/
def touchesMeet (a b : Touch) : Bool := a.core == b.core && (a.write || b.write) && decide (a.lo < b.lo + b.n) && decide (b.lo < a.lo + a.n)

/-- Whether a byte is written by one leg in a beat in which another leg touches it (R314, item 2). The pages of two engagements never overlap. -/
def sameBeat (period : Nat) (ts : List Touch) : Bool :=
  ts.any fun a => ts.any fun b => (a.by_ != b.by_ || a.beat != b.beat) && decide (a.beat % period = b.beat % period) && touchesMeet a b

/-- Whether a leg is an exact move (R314): OP 0x01 to 0x04, a drain, or a reduction. -/
def exactMove (b : LegBody) : Bool :=
  match b with
  | .strike k => !k.part
  | .reduce _ | .convoy _ => true
  | .porter k => k.desc.op == 1 || k.desc.op == 2
  | _ => false

/-- Whether a leg reads bytes before an exact move that issues no later has written them (R314, item 1, log 128). -/
def readsEarly (pl : Plan) : Bool :=
  let ls := planLegs pl
  ls.any fun x => exactMove x.leg.body && ls.any fun y =>
    decide (x.leg.issue ≤ y.leg.issue) && (x.core != y.core || decide (x.idx < y.idx)) &&
      (legTouches pl x).any fun a => a.write && (legTouches pl y).any fun b => !b.write && touchesMeet a b && decide (b.beat ≤ a.beat)

/-- Whether a reduction begins before a partial set of its group is available (R83, R314, R585). -/
def reducesEarly (pl : Plan) : Bool :=
  let ls := planLegs pl
  ls.any fun x => match x.leg.body with
    | .reduce r => ls.any fun y => x.core == y.core && decide (y.leg.issue ≤ x.leg.issue) &&
        (match y.leg.body with
         | .strike k => !r.level && k.part && k.rgrp == r.rgrp && decide (x.leg.issue < y.leg.issue + 8 * strikeBeats pl y.core k)
         | .reduce q => r.level && !q.level && q.rgrp == r.rgrp && decide (x.leg.issue < y.leg.issue + 8 * reduceBeats q)
         | _ => false)
    | _ => false

/-- Whether a leg that reads what a convoy from another device delivers issues earlier than 2 beats after the landing beat (R271, R287). -/
def landsLate (f : Nat → Nat) (pl : Plan) : Bool :=
  pl.links.any fun l => match l.dest with
    | some (core, addr, len) => (planLegs pl).any fun y =>
        (legTouches pl y).any (fun t => !t.write && t.core == core.val && decide (t.lo < addr + len) && decide (addr < t.lo + t.n)) &&
          decide (y.leg.issue < 8 * (l.first + linkLag (f l.port) + l.n + 2))
    | none => false

/-- Whether a KV write of block j issues before the last deadline of an attention leg that may substitute block j − SUMB from its slot (R313). -/
def overwritesSummary (pl : Plan) : Bool :=
  let ls := planLegs pl
  ls.any fun x => match x.leg.body with
    | .porter k => k.desc.op == 7 && k.desc.summary && ls.any fun y => match y.leg.body with
        | .attend d => y.core == x.core && d.sumAddr.toNat == k.desc.sumAddr && decide (k.desc.sumb ≤ k.desc.blk) &&
            decide (k.desc.blk - k.desc.sumb + 1 < d.nblk) && decide (x.leg.issue ≤ y.leg.issue + attnInterval d * (k.desc.blk - k.desc.sumb))
        | _ => false
    | _ => false

/-! ## Decks and bundles in place (R47–R51, R59, R280) -/

/-- Something that repeats and replaces what was there: its period, a first time, and what it puts. -/
structure Event where
  per : Nat
  time : Nat
  puts : Nat
  own : Bool
  deriving DecidableEq, Repr

/-- Whether an event falls after time `a` and no later than `b`. -/
def eventIn (x : Event) (a b : Nat) : Bool := decide ((b + x.time * (max 1 x.per - 1)) % max 1 x.per < b - a)

/-- The selections of a tile by a schedule's legs. -/
def selectEvents (own : Bool) (x : Sched) (core string tile : Nat) : List Event :=
  (coreLegs x.plan core).filterMap fun l => match l.body with
    | .select k => if selectsTile string tile k then some { per := x.per, time := x.anchor + l.issue / 8, puts := k.deck, own := own } else none
    | _ => none

/-- The multicasts to a tile's buffer by a schedule's legs, by the core cycle they begin in. -/
def bundleEvents (own : Bool) (x : Sched) (core string tile buf : Nat) : List Event :=
  (coreLegs x.plan core).filterMap fun l => match l.body with
    | .porter k => if k.desc.op == 1 ∧ k.desc.string.toNat = string ∧ bitOf k.desc.tmask.toNat tile ∧ k.desc.buf.val = buf then
        some { per := 8 * x.per, time := 8 * x.anchor + l.issue, puts := l.issue, own := own }
      else none
    | _ => none

/-- Whether every strike of a plan finds its deck active at its first slot beat, in every circuit: a select leg of the same circuit has named it, its
switch is over, and nothing has selected another deck since (R47–R51, R59). -/
def decksActive (me : Sched) (others : List Sched) : Bool :=
  let h := hyperOf (me :: others)
  (planLegs me.plan).all fun x => match x.leg.body with
    | .strike k => (maskTiles k.tmask).all fun t =>
        let evs := selectEvents true me x.core k.string.toNat t ++ others.flatMap fun o => selectEvents false o x.core k.string.toNat t
        (List.range (h / max 1 me.per)).all fun i =>
          let c := me.anchor + i * me.per
          let b := c + x.leg.issue / 8 + 2
          (coreLegs me.plan x.core).any fun m => match m.body with
            | .select q => selectsTile k.string.toNat t q && q.deck == k.deck && decide (c + m.issue / 8 + 4 ≤ b) &&
                evs.all fun v => (v.own && v.puts == k.deck.val) || !eventIn v (c + m.issue / 8) b
            | _ => false
    | _ => true

/-- Whether every strike of a plan finds its bundle complete in its input stage, in every circuit (R59): a multicast of the same circuit has ended,
and no other has begun since. -/
def bundlesReady (me : Sched) (others : List Sched) : Bool :=
  let h := hyperOf (me :: others)
  (planLegs me.plan).all fun x => match x.leg.body with
    | .strike k => (maskTiles k.tmask).all fun t =>
        let evs := bundleEvents true me x.core k.string.toNat t k.buf ++ others.flatMap fun o => bundleEvents false o x.core k.string.toNat t k.buf
        (List.range (h / max 1 me.per)).all fun i =>
          let c := 8 * (me.anchor + i * me.per)
          (coreLegs me.plan x.core).any fun m => match m.body with
            | .porter q => q.desc.op == 1 && q.desc.string == k.string && bitOf q.desc.tmask.toNat t && q.desc.buf == k.buf &&
                decide (m.issue + 8 * moveBeats q.desc ≤ x.leg.issue) && evs.all fun v => !eventIn v (c + m.issue) (c + x.leg.issue)
            | _ => false
    | _ => true

/-! ## Stacked memory (R327, R328) -/

/-- The reads of a schedule in one stack: service interval and bytes, and the beats and bytes of read staging (R310, R328). -/
def stackReads (x : Sched) : List (Run × Load) :=
  (planLegs x.plan).filterMap fun l => match l.leg.body with
    | .porter k =>
      let i := l.leg.issue / 8
      if k.desc.op = 5 then
        some ((x.anchor + i + 8, x.anchor + k.dl - 128), { start := x.anchor + i, len := k.dl - 1 - i, count := planBytes x.plan k.desc / 2, per := x.per })
      else none
    | _ => none

/-- The bytes of reads whose service interval lies within beats `t1` to `t2`. -/
def servedIn (rs : List (Run × Load)) (t1 t2 : Nat) : Nat :=
  (rs.map fun r =>
    let per := max 1 r.2.per
    let first := t1 + (r.1.1 + t1 * (per - 1)) % per
    let fin := first + (r.1.2 - r.1.1)
    if fin ≤ t2 then r.2.count * ((t2 - fin) / per + 1) else 0).sum

/-- Item 1 of R328: for every interval, 2,560 bytes a beat serve the reads within it. -/
def rateOk (rs : List (Run × Load)) : Bool :=
  let h := loadHyper (rs.map Prod.snd)
  rs.all fun a => (List.range (h / max 1 a.2.per)).all fun i => rs.all fun b => (List.range (2 * h / max 1 b.2.per + 1)).all fun j =>
    let t1 := a.1.1 + i * a.2.per
    let t2 := t1 + (b.1.2 + t1 * (max 1 b.2.per - 1)) % max 1 b.2.per + j * b.2.per
    decide (servedIn rs t1 t2 ≤ 2560 * (t2 - t1 + 1))

/-- Bytes a write of a range takes of the drain: a narrow codeword counts as 128 (R328, R330). -/
def drainOf (a n : Nat) : Nat :=
  let full := (a + n) / 64 - cdiv a 64
  64 * full + 128 * ((if n = 0 then 0 else (a + n - 1) / 64 - a / 64 + 1) - full)

/-- The bytes of a write and what they take of the drain. -/
def writeDrain (pl : Plan) (d : PorterDesc) : Nat × Nat :=
  match planRegion pl d with
  | some r =>
    let n := moveBytes d / rawBytes r.fmt
    let sl := slotBytes r.fmt r.slot
    (planBytes pl d, drainOf (r.base + 64 + 8 * d.blk) (8 * n) + drainOf (r.base + 64 + 8 * r.nblk + sl * d.blk) (sl * n))
  | none =>
    let strips := if d.strip then 128 * cdiv (moveBytes d) 4096 else 0
    (moveBytes d + strips, ((List.range d.rows).map fun i => drainOf (d.dst + i * d.dstride) d.len).sum + strips)

/-- The writes of a schedule in one stack over `n` hyperperiods: the beat of posting, the bytes, and what they take of the drain. -/
def stackWrites (n h : Nat) (x : Sched) : List (Nat × Nat × Nat) :=
  (planLegs x.plan).flatMap fun l => match l.leg.body with
    | .porter k =>
      if k.desc.op = 6 ∨ k.desc.op = 7 then
        let w := writeDrain x.plan k.desc
        let b := x.anchor + l.leg.issue / 8 + cdiv (planBytes x.plan k.desc) 512 + 5
        (List.range (n * h / max 1 x.per)).map fun i => (b % max 1 x.per + i * x.per, w.1 / 2, w.2 / 2)
      else []
    | _ => []

/-- Item 3 of R328: posted bytes, drained in posting order at 1,024 bytes a beat from 8 beats after posting, never exceed 1 MB. `free` is the beat
from which the drain takes the next write; `held` the writes not drained, with the beats their drain ends. -/
def stagingOk : Nat → List (Nat × Nat) → List (Nat × Nat × Nat) → Bool
  | _, _, [] => true
  | free, held, x :: r =>
    let fin := max free (x.1 + 8) + cdiv x.2.2 1024
    let now := (held.filter fun y => decide (x.1 < y.1)) ++ [(fin, x.2.1)]
    decide ((now.map fun y => min y.2 (1024 * (y.1 - x.1))).sum ≤ 2 ^ 20) && stagingOk fin now r

/-- Whether a set of schedules meets R328. -/
def memoryOk (ps : List Sched) : Bool :=
  let rs := ps.flatMap stackReads
  let h := hyperOf ps
  rateOk rs && decide (claimPeak [[rs.map Prod.snd]] ≤ 2 ^ 20) &&
    stagingOk 0 [] (sortBy (fun (x : Nat × Nat × Nat) => x.1) (ps.flatMap (stackWrites 3 h)))

end Sys2Proof.Machine
end

