-- ==== Sys2Proof/Machine/Placement.lean ====
section
/-! DEFINITION. The checks a placement must pass: its form, its agreement with the manifest, and the Ledger's resources in ascending code
order (R43, R62, R108, R111, R135, R227, R238, R280–R281, R389–R392). The placement itself is the command's operand. -/

namespace Sys2Proof.Machine

/-! ## Agreement with the manifest (R43–R46, R62, R135, R222, R224, R238, R253, R389) -/

/-- The analogue layer of a deck's blocks. -/
def deckLayer (ls : List MLayer) (d : PlanDeck) : Option MLayer :=
  ls.find? fun l => l.op == 1 && d.blocks.all fun b => decide (l.layerId % 65536 = b.layerId.toNat)

/-- Whether a block is the one that R43 cuts from its layer: whole row and column blocks, in as many groups as its outputs fill. -/
def blockFits (l : MLayer) (f : WFmt) (b : BlockDesc) (part : Nat × Nat) : Bool :=
  let n := fmtOutputs f
  decide (2048 * part.1 < l.k) && decide (n * part.2 < l.n) && b.rowCount == min 2048 (l.k - 2048 * part.1) && b.nout == min n (l.n - n * part.2) &&
    (setBits b.mask.toNat 32).length == cdiv b.nout (fmtQ f)

/-- Whether a deck holds blocks of its layer in the layer's format and mode, twinned as the layer is (R45, R389). -/
def deckFits (ls : List MLayer) (d : PlanDeck) : Bool :=
  match deckLayer ls d with
  | none => false
  | some l => d.fmt == wfmtOf l.fmt && d.pmode.toNat == l.pmode && d.twin.isSome == bitOf l.flags 0 && (d.blocks.zip d.parts).all fun x => blockFits l d.fmt x.1 x.2

/-- How often a plan places a block of a layer. -/
def timesPlaced (ls : List MLayer) (pl : Plan) (l : MLayer) (part : Nat × Nat) : Nat :=
  (pl.decks.map fun d => if deckLayer ls d == some l then (d.parts.filter fun x => x == part).length else 0).sum

/-- Whether every block of every analogue layer is placed, twice where it is twinned; over the devices of a Route each places its share. -/
def layersPlaced (g : Eng) (ls : List MLayer) (pl : Plan) : Bool :=
  ls.all fun l => l.op != 1 || (List.range (cdiv l.k 2048)).all fun r => (List.range (cdiv l.n (max 1 (fmtOutputs (wfmtOf l.fmt))))).all fun c =>
    let n := timesPlaced ls pl l (r, c)
    n == (if bitOf l.flags 0 then 2 else 1) || (n == 0 && decide (1 < g.devices))

def deckAt (pl : Plan) (core string tile deck : Nat) : Option PlanDeck :=
  pl.decks.find? fun d => logicalDeck d.addr == deckNum core string tile deck

/-- Whether a strike leg strikes decks of its plan with their layer's width and slot (R62, R389). -/
def strikeFits (ls : List MLayer) (pl : Plan) (core : Nat) (k : StrikeLeg) : Bool :=
  (maskTiles k.tmask).all fun t => match deckAt pl core k.string.toNat t k.deck with
    | some d => (match deckLayer ls d with
        | some l => awPlanes k.aw == l.aw && k.slot.toNat == layerSlot l && decide (fmtFloor d.fmt ≤ k.slot.toNat) && decide (k.slot.toNat ≤ modeW d.pmode)
        | none => false)
    | none => false

/-- The multicast that fills a tile's buffer for a leg that issues at `i`. -/
def bundleFor (pl : Plan) (core i string tile : Nat) (buf : Fin 2) : Option (Nat × Nat) :=
  ((coreLegs pl core).filterMap fun m => match m.body with
    | .porter k => if m.issue ≤ i ∧ k.desc.op = 1 ∧ k.desc.string.toNat = string ∧ bitOf k.desc.tmask.toNat tile ∧ k.desc.buf = buf then some (m.issue, k.desc.src) else none
    | _ => none).getLast?

/-- Whether a strike of one copy of a twinned block goes with one of the other copy, in the same beats, from the same bundle and with the same
slot length (R135). -/
def twinStruck (pl : Plan) (core : Nat) (i : Nat) (k : StrikeLeg) (t : Nat) : Bool :=
  match (deckAt pl core k.string.toNat t k.deck).bind PlanDeck.twin with
  | none => true
  | some a => (coreLegs pl core).any fun m => match m.body with
      | .strike q => m.issue == i && strikesTile k.string.toNat a.tile q && q.deck == a.deck && q.aw == k.aw && q.slot == k.slot &&
          q.part == k.part && q.rgrp == k.rgrp && bundleFor pl core i k.string.toNat t k.buf == bundleFor pl core i k.string.toNat a.tile q.buf
      | _ => false

/-- Whether the summary sizes of a leg are the manifest's W_s / 64 (R222). -/
def summaryFits (g : Eng) (b : LegBody) : Bool :=
  match b with
  | .attend d => d.sumb == g.wS
  | .porter k => !k.desc.summary || k.desc.sumb == g.wS
  | _ => true

def legFits (g : Eng) (ls : List MLayer) (pl : Plan) (core : Nat) (l : Leg) : Bool :=
  summaryFits g l.body && match l.body with
    | .strike k => strikeFits ls pl core k && (maskTiles k.tmask).all fun t => twinStruck pl core l.issue k t
    | .select k => (maskTiles k.tmask).all fun t => (deckAt pl core k.string.toNat t k.deck).isSome
    | _ => true

/-- Whether a region holds a tensor of the manifest with the kind, format, slot and protection it names, or shadow weights (R224, R238, R253). -/
def regionNamed (g : Eng) (ts : List MTensor) (r : PlanRegion) : Bool :=
  (r.prot || (packable r.fmt && decide (1 ≤ r.slot.toNat))) && (g.prot == false || r.prot) &&
    ((g.shadowOk && r.fmt == 1 && !r.kv && r.prot == g.prot) ||
      ts.any fun t => t.fmt == r.fmt.toNat && bitOf t.region 2 == r.kv && (bitOf t.region 3 || g.prot) == r.prot &&
        (r.prot || bitsOf t.region 0 2 == r.slot.toNat) && decide (r.nblk ≤ cdiv t.elems 256))

/-- Whether every deck of an engagement with shadow weights has its part of the copy in a region of the plan; the copies of a twinned block share
one (R224). -/
def shadowFits (g : Eng) (pl : Plan) : Bool :=
  !g.shadowOk || pl.decks.all fun d => match d.shadow with
    | some r => pl.regions.any (fun x => x.region == r.region && x.fmt == 1 && !x.kv) &&
        (match d.twin with | some t => pl.decks.all fun x => x.addr != t || x.shadow == d.shadow | none => true)
    | none => false

/-- Bytes of stacked memory a region takes, uncompressed (R241, R253). -/
def regionSize (r : PlanRegion) : Nat := if r.prot then r.nblk * rawBytes r.fmt else 64 + r.nblk * (8 + rawBytes r.fmt)

/-- Whether a plan places what its engagement's manifest names, as the manifest names it. -/
def planFits (g : Eng) (pl : Plan) : Bool :=
  let ls := manifestLayers g.manifest
  pl.decks.all (deckFits ls) && layersPlaced g ls pl && pl.itins.all (fun it => it.legs.all (legFits g ls pl it.core)) &&
    pl.regions.all (fun r => regionNamed g (manifestTensors g.manifest) r && decide (r.base + regionSize r ≤ targetBase pl * 2 ^ 21)) && shadowFits g pl

/-! ## The form of a plan (R272–R275) -/

/-- The form every placement has: a period of R275, and itineraries that meet R272 to R274 in its own pages. -/
def planForm (pl : Plan) : Bool :=
  decide (1 ≤ pl.period) && decide (pl.period ≤ 16384) && pl.itins.all (itinOk pl) &&
    (pl.links.all fun l => decide (1 ≤ l.n) && decide (l.first + l.n ≤ 512 * pl.period)) && (pl.itins.map fun i => i.core.val).Nodup &&
    pl.itins.all fun it => (List.range (cdiv (it.base % 4096 + it.len) 4096)).all fun i =>
      pl.wsPages.any fun w => w.1 == it.core && decide (w.2.1 ≤ it.base / 4096 + i) && decide (it.base / 4096 + i < w.2.1 + w.2.2)

/-- Whether a plan is a placement of an engagement: its form, and what the engagement's manifest names (R62, R238, R274, log 129). -/
def planOk (s : State) (e : Nat) (pl : Plan) : Bool := planForm pl && planFits (getEng s e) pl

/-! ## Toll and fallow time (R21, R108, R110, R111) -/

/-- R108: no run of 64 beats without a fallow one, runs across the hyperperiod's end included. -/
def fallowOk (busy : List Run) : Bool := busy.all fun x => decide (x.2 < x.1 + 64)

/-- The beats in which admitted itineraries leave no Toll unit free, in `n` hyperperiods `h` (R110). -/
def fullRuns (units n h : Nat) (us : List Load) : List Run :=
  let at_ (f : Load → Nat) : List Nat := us.flatMap fun u => (List.range (n * h / max 1 u.per)).map fun i => f u % max 1 u.per + i * u.per
  let marks := sortBy id (0 :: n * h :: (at_ Load.start ++ at_ fun u => u.start + u.len))
  (marks.zip (marks.drop 1)).filter fun x => decide (x.1 < x.2) && decide (units ≤ loadAt h (x.1 % h) us)

/-- The beats of fallow runs left when each pays a switch away and one back, of 4 beats each (R111). -/
def paidRuns (gaps : List Run) : List Run := gaps.filterMap fun g => if g.1 + 8 < g.2 then some (g.1 + 4, g.2 - 4) else none

/-- The clear fallow beats of runs for a format that converts m outputs per ADC (R109). -/
def clearRuns (m : Nat) (conv us : List Run) : List Run := cutRuns us (conv.map fun c => (c.1 - 1 - m, c.2 - 1))

/-- The fewest beats of runs, of which `n` ≥ 3 hyperperiods `h` are given, in any window of `t` beats. -/
def windowBeats (h t : Nat) (us : List Run) : Nat :=
  let r := t % h
  let from_ := h :: (us.map fun u => u.2) ++ us.map fun u => u.1 - r
  t / h * beatsIn h (2 * h) us +
    ((from_.filter fun w => decide (h ≤ w) && decide (w ≤ 2 * h)).map fun w => beatsIn w (w + r) us).foldl min (beatsIn h (h + r) us)

/-- Clear fallow beats of one calibration (R116). -/
def calBeats (f : WFmt) : Nat := 8 + 8 * fmtQ f

/-- R111 for one deck with interval `t` units: the clear fallow beats of a calibration in every window of T, and the fallow beats of a sweep in every
window of 16 T. -/
def capacityOk (h : Nat) (conv usable : List Run) (f : WFmt) (t : Nat) : Bool :=
  decide (calBeats f ≤ windowBeats h (t * ageUnit) (clearRuns (fmtFloor f) conv usable)) && decide (2048 ≤ windowBeats h (16 * t * ageUnit) usable)

/-- The tiles a plan's legs strike or switch. -/
def planTiles (pl : Plan) : List (Nat × Nat × Nat) :=
  (pl.itins.flatMap fun it => it.legs.flatMap fun l =>
    match l.body with
    | .strike k => (maskTiles k.tmask).map fun t => (it.core.val, k.string.toNat, t)
    | .select k => (maskTiles k.tmask).map fun t => (it.core.val, k.string.toNat, t)
    | _ => []).eraseDups

/-- The formats of the decks of a tile, planned or programmed, with their intervals. -/
def tileDecks (s : State) (pl : Plan) (core string tile : Nat) : List (WFmt × Nat) :=
  (List.range 4).filterMap fun d =>
    match deckAt pl core string tile d with
    | some x => some (x.fmt, s.asy.interval.toNat)
    | none =>
      let k := getDeck s (physDeck s (deckNum core string tile d))
      if deckDone k ∧ deckOpen k then some (k.reg.fmt, deckT s k / ageUnit) else none

/-- R108 and R111 for one tile under a set of schedules. -/
def tileOk (s : State) (ps : List Sched) (pl : Plan) (t : Nat × Nat × Nat) : Bool :=
  let h := hyperOf ps
  let busy := busyRuns ps 4 t.1 t.2.1 t.2.2
  let conv := convRuns ps 4 t.1 t.2.1 t.2.2
  let usable := cutRuns (paidRuns (gapsIn 0 (4 * h) busy)) (fullRuns s.tol.units.toNat 4 h (ps.flatMap fun x => strikeLoads x.plan x.anchor x.per))
  fallowOk busy && (busy.isEmpty || (tileDecks s pl t.1 t.2.1 t.2.2).all fun d => capacityOk h conv usable d.1 d.2)

/-! ## The Ledger's resources (R391, R392) -/

/-- Whether a logical tile-deck may be placed on: in service, neither worn nor failed, and of no other engagement. -/
def deckFree (s : State) (e lg : Nat) : Bool :=
  let d := getDeck s (physDeck s lg)
  !isOut s (lg / 768) && !isFenced s (lg / 768) && decide (d.cycles < 10000) && !d.outOfService &&
    (List.range 64).all fun x => x == e || !(getEng s x).decks.contains lg

/-- The form R43 to R46 ask of a deck's blocks: at most four, disjoint rows at multiples of 64 and disjoint groups. -/
def blocksOk (f : WFmt) : List BlockDesc → Bool
  | [] => true
  | b :: r =>
    b.firstRow % 64 == 0 && decide (1 ≤ b.rowCount) && decide (b.firstRow + b.rowCount ≤ 2048) && decide (b.nout ≤ fmtOutputs f) && decide (1 ≤ b.nout) &&
      r.all (fun c => (decide (b.firstRow + b.rowCount ≤ c.firstRow) || decide (c.firstRow + c.rowCount ≤ b.firstRow)) && b.mask &&& c.mask == 0) && blocksOk f r

/-- A twin lies on another tile of the same string, on a deck that holds the same block and no other (R46, R135). -/
def twinOk (pl : Plan) (d : PlanDeck) : Bool :=
  match d.twin with
  | none => true
  | some t => t.core == d.addr.core && t.string == d.addr.string && t.tile != d.addr.tile && decide (d.blocks.length = 1) &&
      pl.decks.any fun x => x.addr == t && x.twin == some d.addr && x.blocks == d.blocks && x.parts == d.parts && x.fmt == d.fmt && x.pmode == d.pmode

def planDeckOk (s : State) (pl : Plan) (e : Nat) (d : PlanDeck) : Bool :=
  deckFree s e (logicalDeck d.addr) && d.fmt != .unused && d.pmode != 3 && decide (1 ≤ d.blocks.length) && decide (d.blocks.length ≤ 4) &&
    blocksOk d.fmt d.blocks && twinOk pl d && d.parts.length == d.blocks.length &&
    (d.blocks.map BlockDesc.layerId).eraseDups.length == 1

/-- Whether a Waystation page is free for the engagement. -/
def pageFree (s : State) (e p page : Nat) : Bool :=
  match sfind (getCore s p).pageOwner page with | some x => x == e | none => true

/-- Bytes of the strips and scale vectors of an engagement's shadow copy: for every 64 outputs a strip, for every output a scale; row blocks share
them, and so do the copies of a twinned block (R224). -/
def shadowBytes (pl : Plan) : Nat :=
  ((pl.decks.map fun d => if d.shadow.isSome then (d.shadow, (d.blocks.zip d.parts).map fun x => if x.2.1 = 0 then 256 * cdiv x.1.nout 64 + 4 * x.1.nout else 0) else (none, [])).eraseDups.map
    fun x => x.2.sum).sum

/-- Pages of stacked memory a placement needs: target images, output tables, the replay record, its regions and the rest of its shadow copy (R165,
R224, R241, R392, R407); the copies of a twinned block share one target image. -/
def pagesNeeded (pl : Plan) : Nat :=
  targetPages pl + cdiv (2 * (64 + 128 * pl.tracked)) (2 ^ 21) + (pl.regions.map fun r => cdiv (regionSize r) (2 ^ 21)).sum +
    cdiv (shadowBytes pl) (2 ^ 21)

/-- Itineraries of other engagements on a Drover. -/
def itinCount (s : State) (e p : Nat) : Nat := ((getCore s p).itins.filter fun i => i.eng.val != e).length

/-- The flight times and tree ports that an engagement's uses count with: only one that spans devices has control slots (R421). -/
def engUses (s : State) (e : Nat) (pl : Plan) (anchor period : Nat) : List Use :=
  planUses (fun p => (getPort s p).f.toNat) (if (getEng s e).route then treePorts s else []) pl anchor period

/-- What an admitted engagement claims, under each plan it can run. -/
def engClaim (s : State) (e : Nat) : Claim :=
  { shadow := (getEng s e).shadowOk, plans := (engPlans (getEng s e)).map fun x => engUses s e x.2.2 x.2.1 x.1 }

/-- The schedules of engagements, each under its `i`th plan, or its last where it has fewer. -/
def schedsOf (s : State) (es : List Nat) (i : Nat) : List Sched :=
  es.filterMap fun e =>
    let ps := engPlans (getEng s e)
    (ps[min i (ps.length - 1)]?).map fun x => { per := x.1, anchor := x.2.1, plan := x.2.2 }

/-- Whether a plan and the others pass a test, whichever of their plans the others run. -/
def underPlans (s : State) (others : List Nat) (me : Sched) (ok : List Sched → Bool) : Bool := (List.range 3).all fun i => ok (me :: schedsOf s others i)

/-- Toll units (R21): in every beat, under every plan that the others can run. -/
def tollOk (s : State) (others : List Nat) (new : List Load) : Bool := decide (claimPeak ([new] :: others.map (engLoads s)) ≤ s.tol.units.toNat)

/-- The shift rule (R227): Roads slots, link slots and Toll units under every shift of an engagement with shadow weights. -/
def shiftOk (s : State) (e : Nat) (others : List Nat) (uses : List Use) (new : List Load) : Bool :=
  let claims := others.map (engClaim s)
  let mine := (getEng s e).shadowOk
  !shiftMeets 0x04 mine uses claims && !shiftMeets 0x06 mine uses claims &&
    (!mine || decide (shiftPeak 256 [new] (others.map (engLoads s)) ≤ s.tol.units.toNat)) &&
    others.all fun x => !(getEng s x).shadowOk || decide (shiftPeak 256 (engLoads s x) ([new] :: (others.filter (· != x)).map (engLoads s)) ≤ s.tol.units.toNat)

/-- Whether the legs of a plan find what they consume: decks active, bundles complete, bytes and partial sets written, and nothing written under them
(R59, R271, R280, R313, R314). -/
def supplyOk (s : State) (others : List Nat) (me : Sched) : Bool :=
  underPlans s others me (fun ps => decksActive me (ps.drop 1) && bundlesReady me (ps.drop 1)) &&
    !readsEarly me.plan && !reducesEarly me.plan && !landsLate (fun p => (getPort s p).f.toNat) me.plan && !overwritesSummary me.plan &&
    !sameBeat me.per ((planLegs me.plan).flatMap (legTouches me.plan))

/-- Whether a placement satisfies one resource of the Ledger. `but` are engagements whose present plans it replaces. -/
def resourceOk (s : State) (e : Nat) (but : List Nat) (pl : Plan) (code : Nat) : Bool :=
  let g := getEng s e
  let others := admitted s (e :: but)
  let per := pl.period * 256
  let me : Sched := { per := per, anchor := pl.anchor.toNat, plan := pl }
  let new := engUses s e pl pl.anchor.toNat per
  let loads := strikeLoads pl pl.anchor.toNat per
  match code with
  | 0x01 => pl.decks.all (planDeckOk s pl e) && (pl.decks.map fun d => logicalDeck d.addr).Nodup
  | 0x02 => pl.wsPages.all fun w => decide (w.2.1 + w.2.2 ≤ 768) && !isOut s w.1 && (List.range w.2.2).all fun i => pageFree s e (physOf s w.1) (w.2.1 + i)
  | 0x03 => decide (pagesNeeded pl ≤ pl.smPages) && (decide (pl.smPages ≤ g.pages.length) || (freePages s (pl.smPages - g.pages.length)).isSome)
  | 0x04 | 0x05 | 0x06 => !codeMeets code new (others.map (engClaim s)) && (code != 0x06 || !g.route || g.devices == 1 || s.alm.aligned) &&
      (code != 0x06 || (List.range 8).all fun p => portLoadOk p (new ++ others.flatMap fun x => (engClaim s x).plans.headD []))
  | 0x07 => tollOk s others loads
  | 0x08 => (planTiles pl).all fun t => underPlans s others me fun ps => tileOk s ps pl t
  | 0x09 => underPlans s others me memoryOk
  | 0x0B => pl.itins.all fun it => !isOut s it.core && !isFenced s it.core && decide (itinCount s e (physOf s it.core) < 16)
  | 0x0C => underPlans s others me fun ps => decide (hyperOf ps ≤ 2 ^ 24)
  | 0x0D => decide ((s.regions.filter fun r => r.2.eng.toNat != e).length + pl.regions.length ≤ 4096) &&
      pl.regions.all fun r => decide (r.region < 4096) && match sfind s.regions r.region with | some x => x.eng.toNat == e | none => true
  | 0x0E => shiftOk s e others new loads
  | 0x0F => !codeMeets 0x0F new (others.map (engClaim s)) && supplyOk s others me
  | 0x10 => decide (pl.tracked ≤ 1024)
  | 0x11 => s.ptl.inservice
  | 0x12 => decide (g.pMax = 0) || decide (pl.period ≤ g.pMax)
  | _ => true

/-- The resources in ascending code order (R392); engagement numbers are settled at ADMIT. -/
def resourceCodes : List Nat := [0x01, 0x02, 0x03, 0x04, 0x05, 0x06, 0x07, 0x08, 0x09, 0x0B, 0x0C, 0x0D, 0x0E, 0x0F, 0x10, 0x11, 0x12]

/-- The first resource a placement cannot satisfy. -/
def refusing (s : State) (e : Nat) (but : List Nat) (pl : Plan) : Option Nat := resourceCodes.find? fun c => !resourceOk s e but pl c

/-! ## Committing a placement (R389) -/

/-- Give an engagement the pages of stacked memory its plan names; those it holds stay. -/
def growPages (s : State) (e n : Nat) : State :=
  match freePages s (n - (getEng s e).pages.length) with
  | some ps => modEng s e fun g => { g with pages := g.pages ++ ps }
  | none => s

/-- The packed and protected regions of a plan. -/
def takeRegions (s : State) (e : Nat) (pl : Plan) : State :=
  let rest := s.regions.filter fun r => r.2.eng.toNat != e
  let put := fun (m : Sparse Region) (r : PlanRegion) =>
    if (sfind s.regions r.region).any fun x => x.eng.toNat == e then (match sfind s.regions r.region with | some x => sput m r.region x | none => m)
    else sput m r.region { eng := BitVec.ofNat 6 e, fmt := r.fmt, slot := r.slot, kv := r.kv, prot := r.prot, base := r.base, nblk := r.nblk }
  { s with regions := pl.regions.foldl put rest }

/-- Decks of a new placement: PMODE is written, and one that holds anything is queued for erase (R61, R389). -/
def takeDecks (s : State) (pl : Plan) : State :=
  forEach pl.decks s fun s d =>
    let k := deckKey s d.addr
    let s1 := modDeck s k fun x => { x with reg := { x.reg with pmode := d.pmode } }
    let x := getDeck s1 k
    if !deckErased x && !deckBusy x then
      modDeck s1 k fun d => { d with prog := some {}, progRunning := false, erasing := true }
    else s1

/-- The reservation of a placement: pages, regions, images and Drovers. -/
def reserve (s : State) (e : Fin 64) (pl : Plan) : State :=
  let s1 := takeRegions (growPages (takePages s e pl) e pl.smPages) e pl
  loadActive (writeImages s1 e pl) e pl

end Sys2Proof.Machine
end

