-- ==== Sys2Proof/Machine/Program.lean ====
section
/-! DEFINITION. Programming and erase of tile-decks: row targets, program loops, journal pulses, erase loops and the
resumption after option loading (R115, R123, R146–R156, R169–R177). -/

namespace Sys2Proof.Machine

/-! ## Targets (R29, R37–R39, R115, R123) -/

/-- The digit and its number of steps that slice column `c` of a weight holds: P columns for a positive weight, N columns
for a negative one (R36–R39). -/
def sliceDigit (f : WFmt) (w : Int) (c : Nat) : Nat × Nat :=
  let m := if (c % 2 = 0) = decide (0 < w) then w.natAbs else 0
  match f with
  | .w8 => match c / 2 with | 0 => (bitsOf m 6 1, 1) | 1 => (bitsOf m 5 1, 1) | 2 => (bitsOf m 3 2, 3) | _ => (bitsOf m 0 3, 7)
  | .w4 => match c / 2 with | 0 => (bitsOf m 2 1, 1) | _ => (bitsOf m 0 2, 3)
  | .wt => (bitsOf m 0 1, 1)
  | .unused => (0, 1)

/-- The verify band of a checksum cell: 0.2% of G_FS (R123). -/
def checkBand : Nat := 1344

/-- The weight of local output `p` at a row. -/
def weightAt (t : Target) (row p : Nat) : Int := t.weight row p

/-- Target conductance and band of the data cell at offset `j` of group `g` in a row. -/
def dataGoal (f : WFmt) (t : Target) (row g j : Nat) : Nat × Nat :=
  let x := sliceDigit f (weightAt t row (g * fmtQ f + j / fmtC f)) (j % fmtC f)
  (x.1 * gUnit / x.2, if x.1 = 0 then zeroBand else bandOf x.2)

/-- Target and band of the column with role `j` of group `g` in a row: data, reference or checksum. -/
def roleGoal (f : WFmt) (t : Target) (row g j : Nat) : Nat × Nat :=
  if j < 32 then dataGoal f t row g j
  else if j = 32 then (if row % 4 = 0 then (gUnit, bandOf 1) else (0, zeroBand))
  else
    let sum := ((List.range 32).map fun i => (dataGoal f t row g i).1).sum
    (sum / 32, if sum = 0 then zeroBand else checkBand)

/-- The goals of a compute row; a spare in use takes the goal of the column it replaces (R34). -/
def rowGoals (d : Deck) (f : WFmt) (t : Target) (row : Nat) : List CellGoal :=
  (List.range 32).flatMap fun g => (List.range 34).map fun j =>
    let x := roleGoal f t row g j
    { col := physCol d g j, gt := x.1, band := x.2 }

/-! ## Loops (R146–R149) -/

/-- Cells still below their band. -/
def pendOf (d : Deck) (row : Nat) (gs : List CellGoal) : List CellGoal :=
  gs.filter fun x => decide (x.gt ≠ 0) && decide (cellAt d row x.col + x.band < x.gt)

/-- Cells above their band. -/
def overOf (d : Deck) (row : Nat) (gs : List CellGoal) : List CellGoal :=
  gs.filter fun x => decide (x.gt + x.band < cellAt d row x.col)

/-- One pulse: every pending cell gains charge, less where it lies within three bands (log 3). -/
def pulseRow (k : Nat) (d : Deck) (row : Nat) (pend : List CellGoal) : Deck :=
  { d with cells := pend.zipIdx.foldl (fun m x =>
      let i := k + x.2
      let rise := if x.1.gt ≤ cellAt d row x.1.col + 3 * x.1.band then Config.softRise i else Config.pulseRise i
      sset 0 m (row * 1152 + x.1.col) (cellAt d row x.1.col + rise)) d.cells }

/-- What a pulse to cells finds, by cell. -/
def cellsBefore (d : Deck) (row : Nat) (pend : List CellGoal) : List (Nat × Nat) := pend.map fun x => (row * 1152 + x.col, cellAt d row x.col)

/-- Loops allowed per row (R147). -/
def loopLimit : Nat := 16

/-- One step of program_row (R146, R148): loop `loop` of a row at beat `b`, which pulses the cells still below their band where there are any and a
loop is left, and verify-reads the row. -/
structure RowStep where
  deck : Deck
  /-- a pulse was given -/
  pulsed : Bool
  /-- the row is over, with the cells that did not pass -/
  ended : Bool
  bad : List CellGoal

def rowStep (k b : Nat) (d : Deck) (row loop : Nat) (gs : List CellGoal) : RowStep :=
  let pend := pendOf d row gs
  if pend.isEmpty ∨ loopLimit < loop then { deck := { d with run := none }, pulsed := false, ended := true, bad := pend ++ overOf d row gs }
  else
    let d1 := { pulseRow k d row pend with run := some { row := row, loop := loop, start := b, before := cellsBefore d row pend } }
    let left := pendOf d1 row gs
    { deck := d1, pulsed := true, ended := left.isEmpty || decide (loopLimit ≤ loop), bad := left ++ overOf d1 row gs }

/-- Beats of a program loop, and of a verify read alone (R146, R148). -/
def loopBeats : Nat := 800
def readBeats : Nat := 200

/-! ## What a deck is programmed with -/

/-- The target image of a logical tile-deck with the deck's place in its engagement's plan. -/
def deckGoal (s : State) (lg : Nat) : Option (Target × PlanDeck) :=
  match targetOf s lg with
  | some t =>
    match (getEng s t.eng.toNat).plan with
    | some p => (p.decks.find? fun x => logicalDeck x.addr == lg).map fun x => (t, x)
    | none => none
  | none => none

/-- Whether a deck's pump may run: not locked out, with its core in service, in Trek (R511: Halt excludes programming). -/
def pumpReady (s : State) (a : DeckAddr) : Bool :=
  !isOut s a.core && decide (s.pwr.st = 0) && !(vget {} (getCore s (physOf s a.core)).pumps a.string).lockout

/-- Whether the pump of a deck's string serves another deck now (R152): one in programming or erase, or one with a loop under way. -/
def stringBusy (s : State) (k : Nat) : Bool :=
  s.decks.any fun x => x.1 / 64 == k / 64 && x.1 != k && deckActs s x.2

/-- Whether the tile is paused for temperature (R155). -/
def tilePaused (s : State) (k : Nat) : Bool := (getTile s (k / 4)).thermPause

/-- Whether programming of a deck may do something now: it runs, its tile is not paused, and its pump is its own (R152, R155). -/
def programs (s : State) (a : DeckAddr) : Bool :=
  let d := getDeck s (deckKey s a)
  d.progRunning && !d.erasing && !tilePaused s (deckKey s a) && pumpReady s a

/-! ## PROGRAM_DECK (R150, R152, R156, R164) -/

/-- The rows before `64 (j + 1)` are covered by progress marks 0 to j: the first row to take. -/
def firstRow (d : Deck) : Nat := ((List.range 32).foldl (fun m j => if bitOf d.jProgress.toNat j then 64 * (j + 1) else m) 0)

/-- The loop a row starts with: after an interruption, the one after those applied (R177). -/
def firstLoop (d : Deck) (resumed : Bool) (row : Nat) : Nat :=
  if resumed then match d.jInterrupt.reverse.find? fun e => e.1 == row with | some e => e.2 + 1 | none => 1 else 1

/-- Whether the saved spare-map log is still to be written back (R150). -/
def logDue (s : State) (k : Nat) (p : ProgState) : Bool := !p.logDone && !(savedLog s.bst.eraseLog k).isEmpty

/-- The row from which programming begins or goes on. -/
def startRow (s : State) (k : Nat) (p : ProgState) : Nat := if logDue s k p then rowLog else p.row

/-- A pump starts a queued tile-deck whose target image is complete, on a tile with no other deck in programming or erase. -/
def programDeck (s : State) (a : DeckAddr) : State :=
  let k := deckKey s a
  let d := getDeck s k
  match d.prog, deckGoal s (logicalDeck a) with
  | some p, some (t, _) =>
    if !d.progRunning && !d.erasing && !d.outOfService && !d.jDone && t.complete && !t.poisoned && pumpReady s a && !stringBusy s k && !tilePaused s k then
      modDeck s k fun d => { d with progRunning := true, prog := some { p with loop := firstLoop d p.resumed (startRow s k p) } }
    else s
  | _, _ => s

def execProgramDeck (d : DeckAddr) (s : State) : Host.Outcome State Fault Refusal := .next (programDeck s d)

/-! ## The rows in their order (R150) -/

/-- The position in the order of R150 past the last row: DONE is due. -/
def doneRow : Nat := 2059

/-- The first row at or after `r` with a target other than digit 0; skipped rows cost nothing (R150). -/
def rowFrom (d : Deck) (f : WFmt) (t : Target) : Nat → Nat → Nat
  | 0, r => r
  | n + 1, r => if r < 2048 ∧ (rowGoals d f t r).all (fun x => x.gt == 0) then rowFrom d f t n (r + 1) else r

/-- The row that programming takes next: the saved spare-map log first, then the compute rows and the spare rows S0 to S10; of four compute rows one has
reference targets. -/
def nextRow (s : State) (k : Nat) (p : ProgState) (f : WFmt) (t : Target) : Nat :=
  if logDue s k p then rowLog else rowFrom (getDeck s k) f t 4 p.row

/-- Whether the journal pulses that come before a row have been given: START, and the marks of the compute rows before it. -/
def marksReady (d : Deck) (row : Nat) : Bool := d.jStart && (List.range (if row = rowLog then 0 else min row 2048 / 64)).all fun j => bitOf d.jProgress.toNat j

/-- The header that programming writes (R169, R449). The seal binds the tenant in force. -/
def makeHeader (s : State) (a : DeckAddr) (t : Target) (x : PlanDeck) : DeckHeader :=
  let d := getDeck s (deckKey s a)
  let salt := Config.drbg s.free
  { fmt := x.fmt, pmode := x.pmode, owned := true, eng := t.eng, blocks := x.blocks, cycles := d.cycles, sDeck := t.sDeck,
    wbId := (getEng s t.eng.toNat).wbId, tenant := s.cus.tenantId.extractLsb' 0 128, salt := salt,
    kcv := Config.sealKcv s.cus.kSeal ("DECK-SEAL".toList.map (fun c => BitVec.ofNat 8 c.toNat) ++ leBytes 4 (logicalDeck a) ++
      leBytes 4 d.cycles ++ leBytes 16 salt.toNat) }

/-- Before the first loop of row S0 its header is made, and the header of the erase gives way to it (log 76). -/
def openHeader (s : State) (a : DeckAddr) (t : Target) (x : PlanDeck) : State :=
  let k := deckKey s a
  match (getDeck s k).prog with
  | some p =>
    if p.hdr then s
    else freshen (modDeck s k fun d => { blankRow d rowS0 with header := some (makeHeader s a t x), prog := some { p with hdr := true } })
  | none => s

/-- The goals of a row in the order of R150. -/
def goalsAt (s : State) (k : Nat) (f : WFmt) (t : Target) (row : Nat) : List CellGoal :=
  let d := getDeck s k
  if row < 2048 then rowGoals d f t row
  else if row = rowS0 then bitGoals (rowBits (match d.header with | some h => headerBytes h | none => []))
  else if row = rowLog then bitGoals (logBits (savedLog s.bst.eraseLog k))
  else bitGoals (rowBits (tableRow f t.outTab (row - rowS0 - 1)))

/-! ## PROGRAM_LOOP (R146–R149) -/

/-- The detections of a row that did not pass: each cell is a fault of its column, below or above its target (R149). -/
def rowFaults (a : DeckAddr) (d : Deck) (f : WFmt) (eng : BitVec 6) (row : Nat) (bad : List CellGoal) : List Finding :=
  let blank := fun (cls : Byte) (g j : Nat) => { blankFinding a d cls g j with fmt := BitVec.ofNat 2 (fmtCode f), eng := eng.setWidth 8, rows := [row] }
  if row < 2048 then
    (List.range 32).flatMap fun g => (List.range 34).filterMap fun j =>
      (bad.find? fun x => x.col == physCol d g j).map fun x =>
        { blank (if j = 32 then 4 else if j = 33 then 3 else 1) g j with
          row := BitVec.ofNat 16 row
          output := if j < 32 then BitVec.ofNat 16 (g * fmtQ f + j / fmtC f) else 0xFFFF
          below := decide (cellAt d row x.col < x.gt) }
  else bad.map fun x => { blank 1 (x.col / 36) (x.col % 36) with below := decide (cellAt d row x.col < x.gt) }

/-- What a row of the deck record leaves as the record reads: the log, or the output table. -/
def rowWritten (s : State) (k : Nat) (t : Target) (row : Nat) : State :=
  if row = rowLog then modDeck s k fun d => { d with spareLog := savedLog s.bst.eraseLog k }
  else if row = 2058 then modDeck s k fun d => { d with outTab := t.outTab }
  else s

/-- A row ends: it passes, or its remaining cells are reported; the engine moves to the next row. -/
def endRow (s : State) (a : DeckAddr) (p : ProgState) (t : Target) (f : WFmt) (row : Nat) (bad : List CellGoal) : State :=
  let k := deckKey s a
  let s1 := modDeck (rowWritten s k t row) k fun d =>
    { d with prog := some (if row = rowLog then { p with logDone := true, loop := firstLoop d p.resumed p.row }
        else { p with row := row + 1, loop := firstLoop d p.resumed (row + 1) }) }
  let s2 := { s1 with asy := { s1.asy with resumed := if p.resumed && row != rowLog then satAdd s1.asy.resumed 1 else s1.asy.resumed
                                           failRows := if bad.isEmpty then s1.asy.failRows else satAdd s1.asy.failRows 1 } }
  forEach (rowFaults a (getDeck s2 k) f t.eng row bad) s2 detect

/-- One program loop of a row under programming. -/
def programStep (s : State) (a : DeckAddr) (p : ProgState) (t : Target) (x : PlanDeck) (row : Nat) : State :=
  let k := deckKey s a
  let s1 := if row = rowS0 then openHeader s a t x else s
  let q := ((getDeck s1 k).prog).getD p
  let r := rowStep s1.free s1.alm.beat.toNat (getDeck s1 k) row q.loop (goalsAt s1 k x.fmt t row)
  let s2 := workFor { modDeck s1 k (fun _ => { r.deck with prog := some { q with row := if row = rowLog then q.row else row, loop := q.loop + 1 } }) with
    free := s1.free + 2048 } a (if r.pulsed then loopBeats else readBeats)
  if r.ended then endRow s2 a { q with row := if row = rowLog then q.row else row } t x.fmt row r.bad else s2

/-- The row and goals a repair on a deck takes next. -/
def repairRow (d : Deck) : Option (Repair × Nat × List CellGoal) :=
  match d.repair with
  | some r => r.rows.head?.map fun x => (r, x.1, x.2)
  | none => none

/-- One program loop of a repair's row (R130, R131); a row that is over makes way for the next. -/
def repairStep (s : State) (a : DeckAddr) (r : Repair) (row : Nat) (gs : List CellGoal) : State :=
  let k := deckKey s a
  let x := rowStep s.free s.alm.beat.toNat (getDeck s k) row r.loop gs
  let r1 := if x.ended then { r with rows := r.rows.drop 1, loop := 1, bad := r.bad + b2n (!x.bad.isEmpty) } else { r with loop := r.loop + 1 }
  let s1 := workFor { modDeck s k (fun _ => { x.deck with repair := some r1 }) with free := s.free + 2048 } a (if x.pulsed then loopBeats else readBeats)
  if x.ended && !x.bad.isEmpty then { s1 with asy := { s1.asy with failRows := satAdd s1.asy.failRows 1 } } else s1

/-- The programming of a rung is over: the rung counts as tried where every row passed, and the finding moves on where one did not. -/
def finishRepair (s : State) (k : Nat) (r : Repair) : State :=
  let s1 := modDeck s k fun d => { d with repair := none }
  match findingOf s1 r.seq with
  | some f => if r.bad = 0 then modFinding s1 f fun x => { x with tried := r.rung :: x.tried } else nextRung s1 f
  | none => s1

/-- Rung 1 is over with its last row; rungs 2 and 3 wait for their map or coefficient update. -/
def tidyRepair (s : State) (k : Nat) : State :=
  match (getDeck s k).repair with
  | some r => if r.rung = 1 ∧ r.rows = [] then finishRepair s k r else s
  | none => s

/-- Whether a repair's loop may begin on a deck: its pump and tile are free for it, and no deck of the tile is in programming or erase. -/
def repairFits (s : State) (a : DeckAddr) : Bool :=
  tileServes s a && pumpReady s a && !stringBusy s (deckKey s a) && !tilePaused s (deckKey s a) && loopFits s a loopBeats repairRank &&
    (tileMates a).all fun b => !(getDeck s (deckKey s b)).progRunning

/-- One program loop of a deck's row (R146): a pulse to its pending cells and a verify read. A row with nothing pending, or with no loop left,
takes one verify read and ends. The deck's programming comes first; else the loop is one of its repair's. -/
def programLoop (s : State) (a : DeckAddr) (row : Nat) : State :=
  let k := deckKey s a
  let d := getDeck s k
  match d.prog, deckGoal s (logicalDeck a) with
  | some p, some (t, x) =>
    if programs s a && marksReady d row && row == nextRow s k p x.fmt t && (decide (row < doneRow) || row == rowLog) && loopFits s a loopBeats programRank then
      programStep s a p t x row
    else s
  | _, _ =>
    match repairRow d with
    | some (r, i, gs) => if i == row && d.prog.isNone && repairFits s a then tidyRepair (repairStep s a r row gs) k else s
    | none => s

def execProgramLoop (d : DeckAddr) (row : Nat) (s : State) : Host.Outcome State Fault Refusal := .next (programLoop s d row)

/-! ## Completion of an engagement's decks (R122, R386) -/

/-- A LOADING engagement becomes READY once its waybill has completed and every deck is complete and calibrated. -/
def checkReady (s : State) (e : Nat) : State :=
  let g := getEng s e
  if g.st = .loading ∧ g.loaded ∧ decksReady s e then modEng s e fun g => { g with st := .ready } else s

/-- The registers a deck record gives (R55, R178). -/
def recordReg (d : Deck) (h : DeckHeader) : DeckReg :=
  { d.reg with
    fmt := h.fmt, owned := h.owned, eng := h.eng, pmode := h.pmode, cycles := h.cycles, part := false, programmed := true, tenant := h.tenant }

/-- The output table's coefficients. -/
def tabColsum (t : Sparse (Byte × Int)) : Sparse Int := t.filterMap fun e => if e.2.2 = 0 then none else some (e.1, e.2.2)
def tabScales (t : Sparse (Byte × Int)) : Sparse Byte := t.filterMap fun e => if e.2.1 = 0 then none else some (e.1, e.2.1)

/-- DONE: the deck is complete, open and uncalibrated (R54, R122, R174, R448). -/
def completeDeck (s : State) (a : DeckAddr) (h : DeckHeader) (x : PlanDeck) : State :=
  modDeck s (deckKey s a) fun d =>
    { d with
      jDone := true, prog := none, progRunning := false, run := none, reg := recordReg d h, opened := true, uncal := true, everCal := false
      colsum := tabColsum d.outTab, scales := tabScales d.outTab, sDeck := h.sDeck, calDue := false, gammaDue := false, calPend := none, sweepPend := none
      gtc := 0, gtcPair := false, csSigma := [], csSamples := [], checks := [], suspect := false, wide := [], flagged := []
      lastCal := s.alm.beat, lastSweep := s.alm.beat, twin := x.twin.map (deckKey s) }

/-! ## The shadow copy (R224, R244) -/

/-- The B operand tiles of 64 outputs from a target image: two BF16 pages per K-tile, each column's 64 elements in turn. -/
def shadowTiles (t : Target) (u : Nat) : List MByte :=
  markAll false ((List.range 32).flatMap fun j => (List.range 64).flatMap fun c => (List.range 64).flatMap fun i =>
    leBytes 2 (fenc fmtBf16 (.ofInt (weightAt t (64 * j + i) (64 * u + c)))).1)

/-- The cs_w strip of 64 outputs: the sums over every deck of the column block. -/
def shadowStrip (ts : List Target) (u : Nat) : List MByte :=
  markAll false ((List.range 64).flatMap fun c =>
    leBytes 4 (unsign 32 ((ts.map fun t => ((List.range 2048).map fun r => weightAt t r (64 * u + c)).sum).sum)))

/-- The scale vector: fp32(s_out) × s_deck per output. -/
def shadowScales (f : WFmt) (t : Target) : List MByte :=
  markAll false ((List.range (fmtOutputs f)).flatMap fun p =>
    leBytes 4 (fmul (toFp (fdec fmtE4m3 (sget (0, 0) t.outTab p).1.toNat)).1 t.sDeck).1.toNat)

/-- Raw BF16 data go into a region from block `blk` on: as they stand where the region is protected, else packed under the region's table, which
the first data written to it build (R244, R253, log 124). -/
def putRegion (s : State) (e n blk : Nat) (data : List MByte) : State :=
  match ownRegion s e n with
  | some r =>
    if r.prot then engWrite s e (r.base + 512 * blk) data
    else
      let s1 := if r.tblValid then s else writeTable engWrite e n r data s
      packRun engWrite e n r (tableOf (plainOf (regionTable s1 e r))) s1 blk (cutBlocks (data.length / 512 + 1) 512 data)
  | none => s

/-- The device writes a deck's part of the shadow copy of an engagement admitted with one. -/
def writeShadow (s : State) (a : DeckAddr) : State :=
  match deckGoal s (logicalDeck a) with
  | some (t, x) =>
    let e := t.eng.toNat
    match x.shadow, (getEng s e).shadowOk with
    | some r, true =>
      let mates := ((getEng s e).plan.map Plan.decks).getD []
      let ts := (mates.filter fun d => (d.shadow.map ShadowRef.strips) == some r.strips && d.twin.all fun w => logicalDeck d.addr < logicalDeck w).filterMap fun d =>
        targetOf s (logicalDeck d.addr)
      let n := fmtOutputs x.fmt / 64
      let s1 := putRegion s e r.region r.blk ((List.range n).flatMap (shadowTiles t))
      let s2 := forEach (List.range n) s1 fun s u => engWrite s e (r.strips + 256 * u) (shadowStrip ts u)
      engWrite s2 e r.scales (shadowScales x.fmt t)
    | _, _ => s
  | none => s

/-- A tile-deck of a waybill is done (R166). -/
def countDone (s : State) (e : Nat) : State :=
  modEng s e fun g => { g with waybill := g.waybill.map fun w => { w with done := w.done + 1 } }

/-! ## JOURNAL_PULSE (R174) -/

/-- Beats of a journal pulse. -/
def pulseBeats : Nat := 600

/-- START is set: the deck is partial. -/
def startMark (d : Deck) : Deck :=
  { journalMark d colStart with jStart := true, reg := { d.reg with fmt := .unused, owned := false, part := true } }

/-- Progress mark `j` is set. -/
def progressMark (j : Nat) (d : Deck) : Deck := { journalMark d (colProgress j) with jProgress := d.jProgress ||| BitVec.ofNat 32 (2 ^ j) }

/-- DONE is set, and what follows it: the shadow copy, the count of the waybill, and READY (R122, R166, R224). -/
def doneMark (s : State) (a : DeckAddr) (t : Target) (x : PlanDeck) (h : DeckHeader) : State :=
  let s1 := writeShadow (modDeck s (deckKey s a) fun d => journalMark d colDone) a
  checkReady (countDone (freshen (completeDeck s1 a h x)) t.eng.toNat) t.eng.toNat

/-- The next mark that is due is set: START first, then the progress mark of each 64 rows that are complete, then DONE. -/
def journalPulse (s : State) (a : DeckAddr) : State :=
  let k := deckKey s a
  let d := getDeck s k
  match d.prog, deckGoal s (logicalDeck a) with
  | some p, some (t, x) =>
    let row := nextRow s k p x.fmt t
    if !programs s a || !loopFits s a pulseBeats programRank then s
    else if !d.jStart then workFor (modDeck s k startMark) a pulseBeats
    else if row = rowLog then s
    else match (List.range 32).find? fun j => !bitOf d.jProgress.toNat j && decide (64 * (j + 1) ≤ row) with
      | some j => workFor (modDeck s k (progressMark j)) a pulseBeats
      | none =>
        match d.header with
        | some h => if row = doneRow then doneMark (workFor s a pulseBeats) a t x h else s
        | none => s
  | _, _ => s

def execJournalPulse (d : DeckAddr) (s : State) : Host.Outcome State Fault Refusal := .next (journalPulse s d)

/-! ## DECK_ERASE and ERASE_LOOP (R151, R172, R173) -/

/-- Whether the erase log holds the deck with its header not yet written: its erase was cut short. -/
def eraseLogged (s : State) (k : Nat) : Bool := s.bst.eraseLog.any fun e => e.deck == k && !e.committed

/-- Beats of an erase loop: pulse and verify (R151). -/
def eraseBeats : Nat := 2512800

/-- What keeps an erase loop from beginning. -/
def eraseFits (s : State) (a : DeckAddr) : Bool :=
  let k := deckKey s a
  pumpReady s a && !stringBusy s k && !tilePaused s k && loopFits s a eraseBeats programRank

/-- The map that an erase saves: the log, with entries that a cut-off erase saved before it (R170). -/
def mapToSave (s : State) (k : Nat) : List (Nat × Nat × Nat) :=
  let d := getDeck s k
  d.spareLog ++ (savedLog s.bst.eraseLog k).filter fun e => !d.spareLog.contains e

/-- An erase loop of a deck begins. -/
def beginErase (s : State) (a : DeckAddr) (p : ProgState) : State :=
  workFor (modDeck s (deckKey s a) fun d => { d with progRunning := true, prog := some { p with looping := true } }) a eraseBeats

/-- The erase of a queued deck starts: CYCLES rises and the erase log gains its entry, once per erase. An erase between two loops takes its next. -/
def deckErase (s : State) (a : DeckAddr) : State :=
  let k := deckKey s a
  let d := getDeck s k
  if !d.erasing || !eraseFits s a then s
  else if !d.progRunning then
    let again := eraseLogged s k
    let cyc := if again then ((lastErase s.bst.eraseLog k).map EraseEnt.cycles).getD d.cycles else d.cycles + 1
    if !again && !logRoom s.bst.eraseLog (mapToSave s k) then s
    else
      let s1 := if again then s else appendErase s k cyc (mapToSave s k)
      beginErase (modDeck s1 k fun d => { d with cycles := cyc, reg := { d.reg with cycles := cyc } }) a {}
  else match d.prog with
    | some p => if p.looping then s else beginErase s a p
    | none => s

def execDeckErase (d : DeckAddr) (s : State) : Host.Outcome State Fault Refusal := .next (deckErase s d)

/-- The header after an erase: unused, with the deck's cycles (R172). -/
def erasedHeader (d : Deck) : DeckHeader :=
  { fmt := .unused, pmode := 0, owned := false, eng := 0, blocks := [], cycles := d.cycles, sDeck := 0, wbId := 0, tenant := 0, salt := 0, kcv := 0 }

/-- A deck as a verified erase leaves it: cells, marks, journal, log and findings are gone and row S0 holds the header of the erase (R132, R151,
R172). TIL_SPARE_MAP stands, and PMODE on a deck that is placed (R61). An erased cell conducts exactly 0, where R28 says only below 0.5% of G_FS: the
model's choice (log 137). -/
def erasedDeck (placed : Bool) (d : Deck) : Deck :=
  let h := erasedHeader d
  raiseCells { header := some h, cycles := d.cycles,
               reg := { sparesUsed := d.reg.sparesUsed, cycles := d.cycles, spareMap := d.reg.spareMap, pmode := if placed then d.reg.pmode else 0 } }
    rowS0 0 (rowBits (headerBytes h))

/-- Whether an engagement that is not only RESIDENT holds a tile-deck. -/
def deckPlaced (s : State) (lg : Nat) : Bool := s.engs.toList.any fun g => g.st != .free && g.st != .resident && g.decks.contains lg

/-- An ERASE_DECKS record after one of its decks has been erased, or has failed to be. A worn deck is counted. -/
def recErased (k : Nat) (erased worn : Bool) (r : LongRec) : LongRec :=
  if r.opcode == 0x14 && r.decks.contains k then
    { r with decks := r.decks.erase k, count := r.count + b2n erased, worn := r.worn + b2n (erased && worn) }
  else r

/-- ERASE_DECKS ends its wait for a deck, and replies when it waits for none (R453). -/
def noteErased (s : State) (k : Nat) (erased : Bool) : State :=
  let worn := decide (10000 ≤ (getDeck s k).cycles)
  let s1 := { s with mbx := s.mbx.map fun p => { p with recs := p.recs.map (recErased k erased worn) } }
  forEach (recsWhere s1 fun r => r.opcode == 0x14 && r.decks.isEmpty) s1 fun s x =>
    finishRec s x.1 x.2 stOk [wordOf x.2.count, wordOf x.2.worn]

/-- A RESIDENT engagement whose last deck is erased becomes FREE (R386, R453). -/
def freeResidents (s : State) : State :=
  forEach ((List.range 64).filter fun e => (getEng s e).st == .resident && !recordNames s e) s fun s e => modEng s e fun _ => {}

/-- A deck with a complete target image is queued for programming. -/
def queueProgram (s : State) (lg : Nat) : State :=
  match targetOf s lg with
  | some t => if t.complete && !t.poisoned then modDeck s (physDeck s lg) (fun d => { d with prog := some {} }) else s
  | none => s

/-- The finding of an erase that did not verify (R151). -/
def eraseFinding (s : State) (a : DeckAddr) : Finding := blankFinding a (getDeck s (deckKey s a)) 10 0xFF 0xFF

/-- The first status a waybill meets on this device stands (R168). -/
def noteStatus (s : State) (e : Nat) (st : Byte) : State :=
  modEng s e fun g => { g with waybill := g.waybill.map fun w => if w.status = stOk then { w with status := st } else w }

/-- A tile-deck that failed to erase stops for good: its waybill meets row 10 of R168 (R166). -/
def noteFailed (s : State) (lg : Nat) : State :=
  match targetOf s lg with
  | some t => noteStatus s t.eng.toNat stCapacity
  | none => s

/-- An erase that verified: findings close, the deck is blank, its new header is written and the log entry commits. -/
def eraseDone (s : State) (a : DeckAddr) : State :=
  let k := deckKey s a
  let s1 := modDeck (closeDeckFindings s k) k (erasedDeck (deckPlaced s (logicalDeck a)))
  queueProgram (freeResidents (noteErased (commitErase s1 k) k true)) (logicalDeck a)

/-- An erase that failed: the deck is out of service, with a finding (R151). -/
def eraseFailed (s : State) (a : DeckAddr) : State :=
  let k := deckKey s a
  let s1 := modDeck s k fun d => { d with outOfService := true, prog := none, progRunning := false, erasing := false }
  let s2 := { s1 with asy := { s1.asy with eraseFail := satAdd s1.asy.eraseFail 1 } }
  noteFailed (detect (noteErased s2 k false) (eraseFinding s2 a)) (logicalDeck a)

/-- An erase loop completes: the deck is erased, or takes another loop, at once where a run of fallow beats holds it, or after 10 is out of
service. -/
def eraseLoop (s : State) (a : DeckAddr) (verified : Bool) : State :=
  let k := deckKey s a
  let d := getDeck s k
  match d.prog with
  | some p =>
    if !d.erasing || !d.progRunning || !p.looping || decide (s.alm.beat.toNat < (getTile s (k / 4)).workEnd) then s
    else if verified then eraseDone s a
    else if p.eraseLoops + 1 < 10 then
      let q := { p with eraseLoops := p.eraseLoops + 1, looping := false }
      let s1 := modDeck s k fun d => { d with prog := some q }
      if eraseFits s1 a then beginErase s1 a q else s1
    else eraseFailed s a
  | none => s

def execEraseLoop (d : DeckAddr) (verified : Bool) (s : State) : Host.Outcome State Fault Refusal := .next (eraseLoop s d verified)

/-! ## PROGRAMMING_RESUMPTION (R177) -/

/-- What the Factor does with one deck after option loading. -/
def resumeDeck (s : State) (k : Nat) : State :=
  let d := getDeck s k
  if deckBusy d then s
  else if eraseLogged s k then queueErase s k
  else if deckPartial d then
    match logicalOfPhys s k with
    | some lg =>
      match targetOf s lg with
      | some t =>
        if t.complete ∧ !t.poisoned then
          modDeck s k fun d => { d with prog := some { row := firstRow d, loop := firstLoop d true (firstRow d), resumed := true } }
        else s
      | none => s
    | none => s
  else s

/-- Every deck is examined: logged erases are repeated, and partial decks with a target image are resumed. -/
def resumeProgramming (s : State) : State :=
  if inReset s then s else forEach (s.decks.map Prod.fst) s resumeDeck

def execProgrammingResumption (s : State) : Host.Outcome State Fault Refusal := .next (resumeProgramming s)

end Sys2Proof.Machine
end

