-- ==== Sys2Proof/Machine/Admission.lean ====
section
/-! DEFINITION. Admission, placement, rebinding and the Ledger's reports (R137, R139, R385–R397, R439). -/

namespace Sys2Proof.Machine

/-! ## ADMIT (R388) -/

/-- A RESIDENT engagement admitted with the same manifest. -/
def residentMatch (s : State) (h : BitVec 384) : Option Nat :=
  (List.range 64).find? fun e => (getEng s e).st == .resident && (getEng s e).manifestHash == h

/-- The lowest number that is FREE and that no deck record names. -/
def freeNumber (s : State) : Option Nat := (List.range 64).find? fun e => (getEng s e).st == .free && !recordNames s e

/-- Whether a RESIDENT engagement has a deck that is sealed and that the tenant in force cannot open. -/
def sealedToTenant (s : State) (e : Nat) : Bool :=
  (engDeckKeys s e).any fun k => deckSealed (getDeck s k) && !deckOpensFor s k

/-- Placement of a new or re-admitted engagement starts. -/
def beginPlacing (s : State) (mb : Mb) (w : List Word) (bs : List Byte) (e : Nat) : State :=
  let old := getEng s e
  let g : Eng :=
    { st := .placing, prev := old.st, bound := BitVec.ofNat 16 (2 ^ mb.val), manifestHash := Config.sha384 bs, wbId := BitVec.ofNat 64 (leAt bs 8 8),
      prot := bitOf (leAt bs 6 1) 0, route := bitOf (leAt bs 6 1) 1, devices := leAt bs 7 1, pMax := leAt bs 32 4, wS := leAt bs 36 2,
      shadowOk := bitOf (wordAt w 3) 0, manifest := bs, decks := old.decks, calT := s.asy.interval }
  pushRec (modEng { s with ldg := { s.ldg with placing := true } } e fun _ => g) mb w { opcode := 0, seq := 0, eng := e, grans := ownGrans s mb w }

/-- The payload of an ADMIT refused for a resource. -/
def refusedWords (e code : Nat) : List Word := [packWord [(e, 0, 6), (code, 8, 8)], 0, 0, 0]

/-- An engagement goes to placement where stacked memory is in service (R338, R392). -/
def placeOrRefuse (s : State) (mb : Mb) (w : List Word) (bs : List Byte) (e : Nat) : State :=
  if s.ptl.inservice then beginPlacing s mb w bs e else finishMsg s mb w stCapacity (refusedWords 0 0x11)

/-- Whether a manifest with ROUTE set finds every device it spans HELD by the one tenant (R439). -/
def routeHeld (s : State) (bs : List Byte) : Bool :=
  !bitOf (leAt bs 6 1) 1 || (s.cus.tenancy == .held && (decide (leAt bs 7 1 ≤ 1) || Config.otherDevicesHeld s.free))

/-- ADMIT: the checks of R388 in order; the placement is PLACEMENT_COMMIT. -/
def admitModel (s : State) (mb : Mb) : State :=
  takeMsg s mb 0x02 fun s w =>
    let bs := winBytes s (wordAt w 1) (wordAt w 2)
    let h := Config.sha384 bs
    if !s.ptl.stDone then finishMsg s mb w stBusy []
    else if !manifestOk bs then finishMsg s mb w stBadFormat []
    else if packsProtected bs then finishMsg s mb w stPolicy []
    else if !routeHeld s bs then finishMsg (freshen s) mb w stPolicy []
    else match residentMatch s h with
      | some e => if sealedToTenant s e then finishMsg (freshen s) mb w stSealed [] else placeOrRefuse (freshen s) mb w bs e
      | none =>
        match freeNumber s with
        | some e => placeOrRefuse (freshen s) mb w bs e
        | none => finishMsg (freshen s) mb w stCapacity (refusedWords 0 0x0A)

def execAdmitModel (mb : Mb) (s : State) : Host.Outcome State Fault Refusal := .next (admitModel s mb)

/-! ## PLACEMENT_COMMIT (R386, R389, R392) -/

/-- ADMIT replies. -/
def answerAdmit (s : State) (e : Nat) (st : Byte) (payload : List Word) : State :=
  finishRecs s (fun r => r.opcode == 0x02 && r.eng == e) st payload

/-- ADMIT is refused: the engagement is as it was before. -/
def refuseAdmit (s : State) (e : Nat) (st : Byte) (code : Nat) : State :=
  let s1 := modEng s e fun g => if g.prev = .resident then residentEng g else {}
  answerAdmit (tidyPlacing s1) e st (if st = stCapacity then refusedWords e code else [])

/-- While OVER is 1 every admission meets resource 0x07 at the latest (R530). -/
def overRefusal (s : State) (r : Option Nat) : Option Nat :=
  if s.tol.overLimit then (match r with | some c => some (min c 0x07) | none => some 0x07) else r

/-- The first resource that refuses: a re-admitted engagement keeps its tile-decks (R388), the anchor is one whose first
circuit word can still be committed (R276), and every device of a Route commits its share (R389). -/
def placeRefusal (s : State) (e : Nat) (pl : Plan) : Option Nat :=
  let g := getEng s e
  if g.prev = .resident ∧ sortBy id (pl.decks.map fun d => logicalDeck d.addr) ≠ sortBy id g.decks then some 0x01
  else match overRefusal s (refusing s e [] pl) with
    | some c => some c
    | none =>
      if pl.anchor.toNat < s.alm.beat.toNat + 1024 then some 0x0F
      else if g.route ∧ 1 < g.devices ∧ Config.otherDeviceCommits s.free = false then some 0x01
      else none

/-- Whether a plan strikes a deck that stays sealed: one it keeps, and that the tenant in force cannot open (R54, R280). -/
def strikesSealed (s : State) (pl : Plan) : Bool :=
  (planLegs pl).any fun x => match x.leg.body with
    | .strike k => (maskTiles k.tmask).any fun t =>
        let d := physDeck s (deckNum x.core k.string.toNat t k.deck)
        deckSealed (getDeck s d) && !deckOpensFor s d
    | _ => false

/-- The placement commits: reservations, page map, itineraries and decks; the engagement is LOADING. -/
def commitPlacement (s : State) (e : Fin 64) (pl : Plan) : State :=
  let s1 := if (getEng s e).prev = .resident then s else takeDecks s pl
  let s2 := modEng (reserve s1 e pl) e fun g =>
    { g with
      st := .loading, plan := some pl, period := pl.period * 256, anchor := pl.anchor, reserved := pl.demand, loaded := false
      decks := pl.decks.map fun d => logicalDeck d.addr }
  clearTrackers s2 e

def placementCommit (s : State) (e : Fin 64) (pl : Plan) : State :=
  if (getEng s e).st = .placing then
    if !planOk s e pl then refuseAdmit s e stBadFormat 0
    else if (getEng s e).prev = .resident ∧ strikesSealed s pl then refuseAdmit s e stSealed 0
    else match placeRefusal s e pl with
      | some c => refuseAdmit (freshen s) e stCapacity c
      | none =>
        let s1 := tidyPlacing (commitPlacement (freshen s) e pl)
        answerAdmit s1 e stOk [packWord [(e.val, 0, 6)], packWord [(pl.period, 0, 15)], BitVec.ofNat 32 pl.anchor.toNat, BitVec.ofNat 32 (pl.anchor.toNat / 2 ^ 32)]
  else s

/-- After a port was LOST a SUSPENDED engagement is re-placed without it, if the Ledger allows, from the next epoch
boundary (R408, R430). -/
def replaceSuspended (s : State) (e : Fin 64) (pl : Plan) : State :=
  let g := getEng s e
  if planOk s e pl && (refusing s e [] pl).isNone && pl.decks.map (fun d => logicalDeck d.addr) == g.decks then
    let s1 := loadStandby (writeImages s e pl) e pl
    nameSwap (modEng s1 e fun g => { g with nextPlan := some pl, nextSt := some .ready }) e (nextEpoch s)
  else s

/-- Mladbin Resident finishes a placement. -/
def commitCommand (s : State) (e : Fin 64) (pl : Plan) : State :=
  let g := getEng s e
  if g.st = .suspended ∧ g.takeover = false ∧ g.swapAt = none ∧ s.ldg.takeover = false then replaceSuspended s e pl else placementCommit s e pl

def execPlacementCommit (eng : Fin 64) (plan : Plan) (s : State) : Host.Outcome State Fault Refusal := .next (commitCommand s eng plan)

/-! ## REBIND (R396, R397) -/

/-- Whether the index and count of a rebinding name things that exist. -/
def rebindRange (kind idx n : Nat) : Bool :=
  decide (1 ≤ n) && match kind with
    | 0 => decide (idx + n ≤ 32)
    | 1 => decide (idx / 1024 < 32) && decide (idx % 1024 + n ≤ 768)
    | 2 => decide (idx < 2 ^ 27)
    | _ => decide (idx + n ≤ 16)

/-- Whether the plans move what the message names, and neither moves a tile-deck or stacked memory. -/
def rebindMoves (f t : Eng) (kind idx n : Nat) (pf pt : Plan) : Bool :=
  let decksOf (p : Plan) := sortBy id (p.decks.map fun d => logicalDeck d.addr)
  let pageIn (p : Plan) (i : Nat) : Bool := p.wsPages.any fun w => decide (w.1.val = idx / 1024) && decide (w.2.1 ≤ idx % 1024 + i) && decide (idx % 1024 + i < w.2.1 + w.2.2)
  let memory (g : Eng) (p : Plan) : Bool := match g.plan with | some q => p.smPages == q.smPages && p.regions == q.regions | none => true
  decksOf pf == sortBy id f.decks && decksOf pt == sortBy id t.decks && memory f pf && memory t pt && decide (pf.smPages ≤ f.pages.length) &&
    match kind with
    | 0 => pf.itins.all fun it => !(decide (idx ≤ it.core.val) && decide (it.core.val < idx + n))
    | 1 => (List.range n).all fun i => pageIn pt i && !pageIn pf i
    | _ => true

/-- Whether an engagement has complete target images for its decks (R386, R396). -/
def hasTargets (s : State) (e : Nat) : Bool :=
  (getEng s e).decks.all fun lg => match targetOf s lg with | some t => t.complete && !t.poisoned | none => false

/-- Whether an engagement holds consignments that have not ended. -/
def holdsCons (s : State) (e : Nat) : Bool := !(consWhere s fun q => q.eng.val == e && decide (q.st ≠ .ended)).isEmpty

/-- Whether a placement, rebind, fence or takeover is in progress. -/
def rebindBusy (s : State) : Bool := ledgerBusy s || s.engs.any fun g => g.swapAt.isSome

/-- The state in which the from-engagement has its new plan: what the to-engagement's placement is judged in. -/
def withPlan (s : State) (e : Nat) (pl : Plan) : State :=
  takePages (modEng s e fun g => { g with plan := some pl, period := pl.period * 256, anchor := pl.anchor }) e pl

/-- Give an engagement its next plan, its standby banks and its swap beat, beside those of the other engagement of the REBIND. -/
def nameRebind (s : State) (e o : Fin 64) (pl : Plan) (st : Option EngState) (x : Nat) : State :=
  let s1 := loadStandby (writeImages s e pl) e pl
  nameSwap (modEng s1 e fun g => { g with nextPlan := some pl, nextSt := st, swapWith := some o }) e x

/-- Kinds 0 to 2: both engagements are re-placed with the moved resources. -/
def rebindPlaces (s : State) (mb : Mb) (w : List Word) (f t : Fin 64) (pf pt : Plan) : State :=
  let gf := getEng s f
  let gt := getEng s t
  let kind := bitsOf (wordAt w 1) 16 2
  let empties := pf.itins.isEmpty
  if empties ∧ holdsCons s f then finishMsg s mb w stBusy []
  else if !planOk s f pf || !planOk s t pt then finishMsg s mb w stBadFormat []
  else if strikesSealed s pf || strikesSealed s pt then finishMsg s mb w stSealed []
  else if !rebindMoves gf gt kind (wordAt w 2) (wordAt w 3) pf pt || gf.st == .resident ||
      (refusing s f [t] pf).isSome || (refusing (withPlan s f pf) t [] pt).isSome || (gt.st == .resident && !hasTargets s t) then
    finishMsg s mb w stCapacity []
  else
    let x := swapBeat s (kind == 2 || gf.route || gt.route)
    let s1 := nameRebind s f t pf (if empties then some .resident else none) x
    let s2 := nameRebind s1 t f pt (if gt.st = .resident then some .ready else none) x
    finishMsg s2 mb w stOk [BitVec.ofNat 32 x, BitVec.ofNat 32 (x / 2 ^ 32)]

/-- Kind 3: consignors are bound to the other engagement from the swap beat on. -/
def rebindQueue (s : State) (mb : Mb) (w : List Word) (f t : Fin 64) : State :=
  let m : BitVec 16 := BitVec.ofNat 16 ((2 ^ wordAt w 3 - 1) * 2 ^ wordAt w 2)
  let gf := getEng s f
  let x := swapBeat s (gf.route || (getEng s t).route)
  if gf.bound &&& m ≠ m then finishMsg s mb w stCapacity []
  else
    let s1 := nameSwap (modEng s f fun g => { g with nextBound := some (g.bound &&& ~~~m), swapWith := some t }) f x
    let s2 := nameSwap (modEng s1 t fun g => { g with nextBound := some (g.bound ||| m), swapWith := some f }) t x
    finishMsg s2 mb w stOk [BitVec.ofNat 32 x, BitVec.ofNat 32 (x / 2 ^ 32)]

/-- The states in which an engagement is not rebound. -/
def unbindable (t : EngState) : Bool := t == .placing || t == .loading || t == .shadow || t == .suspended || t == .free

/-- REBIND: a refused one changes nothing. -/
def rebindCommand (s : State) (mb : Mb) (pf pt : Plan) : State :=
  takeMsg s mb 0x04 fun s w =>
    let f := Fin.ofNat 64 (engField w)
    let t := Fin.ofNat 64 (bitsOf (wordAt w 1) 8 6)
    let kind := bitsOf (wordAt w 1) 16 2
    if !rebindRange kind (wordAt w 2) (wordAt w 3) || f == t then finishMsg s mb w stBadFormat []
    else if unbindable (getEng s f).st || unbindable (getEng s t).st then finishMsg s mb w stPolicy []
    else if rebindBusy s then finishMsg s mb w stBusy []
    else if s.tol.overLimit then finishMsg s mb w stCapacity []
    else if kind = 3 then rebindQueue s mb w f t
    else rebindPlaces s mb w f t pf pt

def execRebind (mb : Mb) (fromPlan toPlan : Plan) (s : State) : Host.Outcome State Fault Refusal := .next (rebindCommand s mb fromPlan toPlan)

/-! ## QUERY_LEDGER (R391, R393) -/

/-- State codes of R385. -/
def stateCode (t : EngState) : Nat :=
  match t with | .free => 0 | .placing => 1 | .loading => 2 | .ready => 3 | .shadow => 4 | .suspended => 5 | .resident => 6

/-- Logical cores the Ledger counts as lost. -/
def lostCores (s : State) : Nat := ((List.range 32).filter fun c => isOut s c || isFenced s c).length

/-- Tile-decks the device offers: those of cores in service that are not worn. -/
def deckCapacity (s : State) : Nat :=
  768 * (32 - lostCores s) - (s.decks.filter fun x => decide (10000 ≤ x.2.cycles) && (logicalOfPhys s x.1).isSome).length

/-- The engagements of a report: one, or all. -/
def reportEngs (e : Option Nat) : List Nat := match e with | some x => [x] | none => List.range 64

def decksHeld (s : State) (es : List Nat) : Nat := (es.map fun e => (getEng s e).decks.length).sum
def wsHeld (s : State) (es : List Nat) : Nat := (s.cores.toList.map fun c => (c.pageOwner.filter fun p => es.contains p.2).length).sum
def itinsHeld (s : State) (es : List Nat) : Nat := (s.cores.toList.map fun c => (c.itins.filter fun i => es.contains i.eng.val).length).sum
def regionsHeld (s : State) (es : List Nat) : Nat := (s.regions.filter fun r => es.contains r.2.eng.toNat).length

/-- The hyperperiod of the admitted engagements. -/
def hyperperiod (s : State) : Nat := ((admitted s []).map fun e => engPeriod (getEng s e)).foldl Nat.lcm 1

/-- Slots that engagements own in one hyperperiod, of the kinds of units named: lane-beats, crossing-beats and link beats (R391). -/
def slotsHeld (s : State) (es kinds : List Nat) : Nat :=
  let h := hyperperiod s
  (((admitted s []).filter es.contains).flatMap fun e => ((engClaim s e).plans.headD []).filter fun u => kinds.contains (u.unit.headD 0)).map
    (fun u => u.len / 8 * (8 * h / max 1 u.per)) |>.sum

/-- Units of a resource that engagements hold; those the placement counts come from it. -/
def unitsHeld (s : State) (es : List Nat) (code : Nat) : Nat :=
  match code with
  | 0x01 => decksHeld s es
  | 0x02 => 4 * wsHeld s es
  | 0x03 => (es.map fun e => (getEng s e).pages.length).sum + (if es.length = 64 then s.granPage.length else 0)
  | 0x04 => slotsHeld s es [9]
  | 0x05 => slotsHeld s es [10, 18, 19]
  | 0x06 => slotsHeld s es [11]
  | 0x07 => claimPeak ((es.filter fun e => (admitted s []).contains e).map (engLoads s))
  | 0x0A => (es.filter fun e => decide ((getEng s e).st ≠ .free)).length
  | 0x0B => itinsHeld s es
  | 0x0C => hyperperiod s
  | 0x0D => regionsHeld s es
  | 0x10 => (es.map fun e => match (getEng s e).plan with | some p => p.tracked | none => 0).sum
  | c => (es.map fun e => (((getEng s e).reserved.filter fun r => r.1.toNat == c).map Prod.snd).sum).sum

/-- Capacity of a resource (R391). -/
def capacityOf (s : State) (code : Nat) : Nat :=
  match code with
  | 0x01 => deckCapacity s
  | 0x02 => 3072 * (32 - lostCores s)
  | 0x03 => 19660
  | 0x04 => 32 * hyperperiod s
  | 0x05 => 66 * hyperperiod s
  | 0x06 => 8 * hyperperiod s
  | 0x07 => s.tol.units.toNat
  | 0x09 => 2 * 2560
  | 0x0A => 64
  | 0x0B => 16 * (32 - lostCores s)
  | 0x0C => 2 ^ 24
  | 0x0D => 4096
  | 0x10 => 1024
  | _ => 0

/-- A count of the report as its reader sees it (R458). -/
def seen (s : State) (n : Nat) : Nat := countView s n n

def resourceRecord (s : State) (es : List Nat) (code : Nat) : List Byte :=
  let all := unitsHeld s (List.range 64) code
  leBytes 4 code ++ leBytes 4 (seen s (unitsHeld s es code)) ++ leBytes 4 (seen s (capacityOf s code - all)) ++ leBytes 4 (seen s (capacityOf s code))

/-- Overflow blocks of the operand tile with the most (R252). -/
def worstTile (r : Region) : Nat :=
  let n := tileBlocks r.fmt
  (r.ovfBlocks.map fun b => (r.ovfBlocks.filter fun c => c / n == b / n).length).foldl max 0

def regionRecord (s : State) (x : Nat × Region) : List Byte :=
  leBytes 2 x.1 ++ leBytes 1 x.2.eng.toNat ++ leBytes 1 x.2.fmt.toNat ++ leBytes 4 x.2.nblk ++ leBytes 4 (seen s x.2.ovfBlocks.length) ++
    leBytes 2 (seen s (worstTile x.2)) ++ leBytes 2 0

def tileRecord (s : State) (t : Nat) : List Byte := leBytes 2 (seen s (fallowRun s (t / 192) (t / 16 % 12) (t % 16)))

/-- The report. For the whole device STATE, PERIOD, ANCHOR and BOUND read 0. -/
def ledgerReport (s : State) (e : Option Nat) : List Byte :=
  let es := reportEngs e
  let g := match e with | some x => getEng s x | none => {}
  let rg := s.regions.filter fun r => es.contains r.2.eng.toNat
  leBytes 4 0x5244474C ++ leBytes 1 (e.getD 0xFF) ++ leBytes 1 (stateCode g.st) ++ leBytes 2 0 ++ leBytes 4 (engPeriod g / 256) ++ leBytes 8 (engAnchor g) ++
    leBytes 4 18 ++ leBytes 4 6144 ++ leBytes 4 rg.length ++ leBytes 2 g.bound.toNat ++ leBytes 30 0 ++
    ((List.range 18).flatMap fun i => resourceRecord s es (i + 1)) ++ ((List.range 6144).flatMap (tileRecord s)) ++ rg.flatMap (regionRecord s)

def queryLedger (s : State) (mb : Mb) : State :=
  takeMsg s mb 0x30 fun s w =>
    let e := if bitOf (wordAt w 1) 6 then none else some (engField w)
    let es := reportEngs e
    let rep := (ledgerReport s e).take (wordAt w 3)
    finishMsg (winWrite s (wordAt w 2) (markAll false rep)) mb w stOk
      [ wordOf (seen s (decksHeld s es)), wordOf (seen s (deckCapacity s - decksHeld s (List.range 64))), wordOf (seen s (4 * wsHeld s es)),
        wordOf (seen s (unitsHeld s es 0x03)), wordOf (seen s (unitsHeld s es 0x07)), wordOf rep.length ]

def execQueryLedger (mb : Mb) (s : State) : Host.Outcome State Fault Refusal := .next (queryLedger s mb)

/-! ## READ_ERROR_LEDGER (R137, R139) -/

/-- The 32 bytes of a record; BEAT is rounded down in confidential mode (R458). -/
def findingBytes (s : State) (f : Finding) : List Byte :=
  leBytes 4 f.seq.toNat ++ leBytes 8 (if coarse s then f.beat.toNat / 200 * 200 else f.beat.toNat) ++
    [BitVec.ofNat 8 f.core, BitVec.ofNat 8 f.string, BitVec.ofNat 8 f.tile, BitVec.ofNat 8 (f.deck.val + 4 * f.fmt.toNat), f.group, f.offset] ++
    leBytes 2 f.row.toNat ++ [f.cls, BitVec.ofNat 8 (f.rung.toNat + 16 * f.st.toNat)] ++ leBytes 2 f.output.toNat ++ leBytes 2 f.hterm.toNat ++ [f.eng, 0] ++
    leBytes 2 f.nrows.toNat ++ [0, 0]

/-- Whether an engagement is the tenant's in force: admitted, or RESIDENT with its records under the tenant's name. -/
def tenantEng (s : State) (e : Nat) : Bool :=
  let g := getEng s e
  match g.st with
  | .free => false
  | .resident => (engDeckKeys s e).all fun k => match (getDeck s k).header with | some h => h.tenant == s.cus.tenantId.extractLsb' 0 128 | none => true
  | _ => true

/-- Whether a mailbox may read a record: the privileged view all, a consignor those of its tenant's engagements. -/
def mayRead (s : State) (mb : Nat) (f : Finding) : Bool :=
  mb == 16 || (decide (f.eng.toNat < 64) && (boundTo s f.eng.toNat mb || (tenantRights s mb && tenantEng s f.eng.toNat)))

/-- Records are returned in ascending SEQ from the first asked for; next SEQ is the one to ask for next. -/
def readErrorLedger (s : State) (mb : Mb) : State :=
  takeMsg s mb 0x32 fun s w =>
    let all := sortBy (fun (f : Finding) => f.seq.toNat) s.asy.ring
    let fs := all.filter fun f => decide (wordAt w 1 ≤ f.seq.toNat) && mayRead s mb f
    let out := fs.take (wordAt w 3)
    let next := match (fs.drop (wordAt w 3)).head? with | some f => f.seq | none => s.asy.nextSeq
    let oldest := match all.head? with | some f => f.seq | none => s.asy.nextSeq
    finishMsg (winWrite s (wordAt w 2) (markAll false (out.flatMap (findingBytes s)))) mb w stOk [wordOf out.length, next, oldest]

def execReadErrorLedger (mb : Mb) (s : State) : Host.Outcome State Fault Refusal := .next (readErrorLedger s mb)

end Sys2Proof.Machine
end

