-- ==== Sys2Proof/Machine/Assayer.lean ====
section
/-! DEFINITION. The Assayer: temperature readings, calibration, sweeps, the location of faults and the repair ladder
(R108–R145, R155, R526). -/

namespace Sys2Proof.Machine

/-! ## TEMP_READ (R121, R155, R526) -/

/-- The rational n/d as FP16. -/
def ratF16 (neg : Bool) (n d : Nat) : BitVec 16 := BitVec.ofNat 16 (fenc fmtFp16 (.fin neg n d)).1

/-- An FP16 number as a signed numerator and a denominator. -/
def f16Rat (w : BitVec 16) : Int × Nat := match fdec fmtFp16 w.toNat with | .fin s n d => (snum s n, d) | _ => (0, 1)

/-- A signed quotient rounded to the nearest integer, ties to even. -/
def rneInt (n : Int) (d : Nat) : Int := if n < 0 then -(rneDiv n.natAbs d : Int) else rneDiv n.natAbs d

/-- G of gamma_cal × (1 + GTC × (T − T_CAL)), with the temperatures in 0.25 °C (R121). -/
def gammaAt (gcal gtc : BitVec 16) (dT : Int) : BitVec 16 :=
  let r := f16Rat gtc
  let num : Int := (65536 + gcal.toInt) * (4 * r.2 + r.1 * dT)
  BitVec.ofInt 16 (clampI (-32768) 32767 (rneInt (num - 65536 * (4 * r.2)) (4 * r.2)))

/-- GAMMA of a deck for its tile's temperature `q`, in 0.25 °C (R121). -/
def scaleGamma (q : Nat) (d : Deck) : Deck :=
  { d with
    gammaDue := false, tGamma := q
    gamma := ((List.range (fmtOutputs d.reg.fmt)).map fun p =>
      (p, gammaAt (sget 0 d.gammaCal p) d.gtc ((q : Int) - d.tCal.toNat))).filter fun (e : Nat × BitVec 16) => e.2 != 0 }

/-- A deck after its tile's sensor read `q`: its calibration is due from 2 °C on, and a rewrite of GAMMA from 0.25 °C on. -/
def tempDeck (q : Nat) (d : Deck) : Deck :=
  if !served d then d
  else
    { d with
      calDue := d.calDue || (d.everCal && decide (8 < ((q : Int) - d.tCal.toNat).natAbs))
      gammaDue := d.everCal && decide (1 ≤ ((q : Int) - d.tGamma).natAbs) }

/-- Whether a coefficient or map update of a deck may be made in this beat (R109). -/
def updateFits (s : State) (a : DeckAddr) : Bool := tileServes s a && tileFallow s (tileOf a) (1 + 2 * switchCost s a)

/-- A rewrite of GAMMA that is due is made where this beat is fallow; else it waits (R119, R121). -/
def rewriteGamma (s : State) (a : DeckAddr) : State :=
  let k := deckKey s a
  if (getDeck s k).gammaDue && served (getDeck s k) && updateFits s a then modDeck s k (scaleGamma (getTile s (k / 4)).temp) else s

/-- The pause of programming on a tile: above 95 °C until 93 °C or below (R155). -/
def pauseAt (was : Bool) (q : Nat) : Bool := decide (380 < q) || (was && decide (372 < q))

/-- The hottest reading acts on the device (R526): refresh above 85 °C, TEMP_HI and vector 19 at 105 °C until 102 °C. -/
def hottest (s : State) : State :=
  let hot := s.tiles.foldl (fun m x => max m x.2.temp) 0
  let hi := decide (420 ≤ hot) || (s.tol.tempHi && decide (408 < hot))
  let s1 := { s with tol := { s.tol with tmax := BitVec.ofNat 8 (min 255 (hot / 4)), refresh2 := decide (340 < hot), tempHi := hi, hot := s.tol.hot || hi }
                     asy := { s.asy with thermInh := s.tiles.any fun x => x.2.thermPause } }
  if hi && !s.tol.tempHi then fireVector s1 19 else s1

/-- A tile's temperature sensor is read. -/
def tempRead (s : State) (t : TileAddr) (q : Nat) : State :=
  let k := tileKey s t
  if isOut s t.core then s
  else
    let s1 := modTile s k fun x => { x with temp := q, thermPause := pauseAt x.thermPause q }
    hottest (forEach (tileMates { core := t.core, string := t.string, tile := t.tile, deck := 0 }) s1 fun s a =>
      rewriteGamma (modDeck s (deckKey s a) (tempDeck q)) a)

def execTempRead (t : TileAddr) (quarterDeg : Nat) (s : State) : Host.Outcome State Fault Refusal := .next (tempRead s t quarterDeg)

/-! ## CALIBRATION and COEFFICIENT_WRITE (R116–R120, R122) -/

/-- The code of a charge of `x`/672,000 weight-units with a sampled error of `e`/65,536 of a code. -/
def calCode (lim mag : Nat) (x e : Int) : Int :=
  let unit : Int := (gUnit * lim * mag : Nat)
  let num : Int := x * 256 * 65536 + e * unit
  clampI (-256) 255 ((2 * num + unit * 65536) / (2 * unit * 65536))

/-- Charge of a group's reference column over the rows a reference sub-strike drives, through M × C_u. -/
def refCharge (d : Deck) (g : Nat) : Int :=
  let step := 4096 / modeL d.reg.pmode
  (fmtM d.reg.fmt * colCharge d g 32 ((List.range (2048 / step)).map (· * step)) : Nat)

/-- The sums of an output's 8 null codes and 8 reference codes. -/
def calSums (d : Deck) (k p : Nat) : Int × Int :=
  let f := d.reg.fmt
  let code := fun (x : Int) (i : Nat) => calCode (modeL d.reg.pmode) (fmtM f) x (Config.calError (k + p * 16 + i))
  (((List.range 8).map (code 0)).sum, ((List.range 8).map fun i => code (refCharge d (p / fmtQ f)) (8 + i)).sum)

/-- Sub-strikes of a calibration (R116). -/
def calStrikes (f : WFmt) : Nat := 8 + 8 * fmtQ f

/-- A calibration of a deck whose turn it is: null and reference codes of every output, in the clear fallow beats ahead that the Toll leaves
room in (R109, R110, R113, R116, R120). -/
def calibrate (s : State) (a : DeckAddr) : State :=
  let k := deckKey s a
  let d := getDeck s k
  if tileServes s a && calibrationDue s d && isNext s a (calRank d) then
    match subStrikesEnd s a true (calStrikes d.reg.fmt) (s.alm.beat.toNat + deckT s d) with
    | some e =>
      let sums := (List.range (fmtOutputs d.reg.fmt)).map (calSums d s.free)
      assayUntil { modDeck s k (fun d => { d with calPend := some (e + 1 + fmtFloor d.reg.fmt, sums) }) with free := s.free + 8192 } a e
    | none => s
  else s

def execCalibration (d : DeckAddr) (s : State) : Host.Outcome State Fault Refusal := .next (calibrate s d)

/-- BETA of a null sum in 1/64 code, and G of the sums (R117); the differences are exact in eighths. -/
def betaOf (n : Int) : Int := n * 8
def gammaOf (n r : Int) : Int := rneInt (65536 * (1024 - (r - n))) (r - n).natAbs

/-- Whether an output's measured coefficients are stored: gamma within 0.90–1.10, beta within ±24 codes (R118). -/
def calOk (x : Int × Int) : Bool :=
  let d := x.2 - x.1
  decide (0 < d) && decide (9 * d ≤ 10240) && decide (10240 ≤ 11 * d) && decide (x.1.natAbs ≤ 192)

/-- GTC of a pair of calibrations: the mean relative gain change over the outputs stored, per °C (R121). -/
def gtcOf (d : Deck) (cs : List (Nat × Int)) (dT : Int) : BitVec 16 :=
  let f := cs.foldl (fun (m : Int × Nat) c =>
    let old : Nat := (65536 + (sget 0 d.gammaCal c.1).toInt).toNat
    (m.1 * old + (c.2 - (sget 0 d.gammaCal c.1).toInt) * m.2, m.2 * old)) (0, 1)
  let n := f.1 * 4 * (if dT < 0 then -1 else 1)
  ratF16 (decide (n < 0)) n.natAbs (f.2 * cs.length * dT.natAbs)

/-- The findings of outputs out of range: reference fault where the whole group is, output fault otherwise (R118). -/
def calFaults (a : DeckAddr) (d : Deck) (bad : List Nat) : List Finding :=
  let q := fmtQ d.reg.fmt
  (List.range 32).flatMap fun g =>
    let b := bad.filter fun p => p / q == g
    if b.length = q ∧ 0 < q then [blankFinding a d 4 g 32]
    else b.map fun p => { blankFinding a d 5 g 0xFF with output := BitVec.ofNat 16 p }

/-- Store a new set of coefficients. -/
def storeCal (s : State) (k : Nat) (d : Deck) (good : List (Nat × Int × Int)) : Deck :=
  let temp := (getTile s (k / 4)).temp
  let dT : Int := (temp : Int) - d.tCal.toNat
  let g := good.foldl (fun m x => sset 0 m x.1 (BitVec.ofInt 16 x.2.2)) d.gammaCal
  let pair := d.everCal && decide (16 ≤ dT.natAbs) && !good.isEmpty
  { d with
    beta := good.foldl (fun m x => sset 0 m x.1 (BitVec.ofInt 12 x.2.1)) d.beta
    gammaCal := g
    gamma := good.foldl (fun m x => sset 0 m x.1 (BitVec.ofInt 16 x.2.2)) d.gamma
    gtc := if pair then gtcOf d (good.map fun x => (x.1, x.2.2)) dT else d.gtc
    gtcPair := d.gtcPair || pair
    tCal := BitVec.ofNat 9 (min temp 511), tGamma := temp, uncal := false, everCal := true, lastCal := s.alm.beat
    calDue := false, gammaDue := false, calPend := none, heldGen := s.free }

/-- The complete coefficient set of a calibration is stored; values out of range become findings (R117–R120). -/
def writeCoefficients (s : State) (a : DeckAddr) (cs : List (Int × Int)) : State :=
  let k := deckKey s a
  let d := getDeck s k
  let good := cs.zipIdx.filterMap fun x => if calOk x.1 then some (x.2, betaOf x.1.1, gammaOf x.1.1 x.1.2) else none
  let bad := cs.zipIdx.filterMap fun x => if calOk x.1 then none else some x.2
  let late := d.everCal && decide (deckT s d < s.alm.beat.toNat - d.lastCal.toNat)
  let s1 := freshen (modDeck s k fun _ => storeCal s k d good)
  let s2 := if late then recordClosed { s1 with asy := { s1.asy with late := satAdd s1.asy.late 1 } } (blankFinding a d 6 0xFF 0xFF) else s1
  let s3 := forEach (calFaults a d bad) s2 detect
  if d.reg.owned then checkReady s3 d.reg.eng.toNat else s3

/-- The complete coefficient set is written in one fallow beat, the first after its last code is converted; without one, a rewrite of GAMMA
that waits is made (R119, R121). -/
def coefficientWrite (s : State) (a : DeckAddr) : State :=
  let d := getDeck s (deckKey s a)
  match d.calPend with
  | some (b, cs) => if decide (b ≤ s.alm.beat.toNat) && served d && updateFits s a then writeCoefficients s a cs else s
  | none => rewriteGamma s a

def execCoefficientWrite (d : DeckAddr) (s : State) : Host.Outcome State Fault Refusal := .next (coefficientWrite s d)

/-! ## SWEEP (R124, R125, R127) -/

/-- The residual of one row in a group, as the sampling stage sees it. -/
def rowResidual (d : Deck) (k g row i : Nat) : Int := residual d g [row] + Config.residualError (k + (row * 32 + g) * 2 + i)

/-- Whether a row exceeds in a group on the check numbered `i`. -/
def rowExceeds (d : Deck) (k g row i : Nat) : Bool := exceeds d g 1 (rowResidual d k g row i)

/-- Whether a row exceeds twice in succession in a group. -/
def rowFlagged (d : Deck) (k g row : Nat) : Bool := rowExceeds d k g row 0 && rowExceeds d k g row 1

/-- The groups a sweep covers: those whose checks are not masked. That a masked group is not swept is the model's choice (R133, R134, log 137). -/
def sweepGroups (d : Deck) : List Nat := (List.range 32).filter fun g => !bitOf d.masked.toNat g

/-- (group, row) of every row a sweep flags, rows ascending. -/
def sweepFlags (d : Deck) (k : Nat) : List (Nat × Nat) :=
  (List.range 2048).flatMap fun r => (sweepGroups d).filterMap fun g => if rowFlagged d k g r then some (g, r) else none

/-- A residual digitised in 1/1,024 CU. -/
def sampleOf (x : Int) : Nat := rneDiv (x.natAbs * 1024) gUnit

/-- Floor square root by bits. -/
def sqrtBits : Nat → Nat → Nat → Nat
  | 0, _, r => r
  | b + 1, x, r => sqrtBits b x (if (r + 2 ^ b) * (r + 2 ^ b) ≤ x then r + 2 ^ b else r)

/-- RMS of samples rounded to the nearest 1/1,024 CU. -/
def rmsOf (xs : List Nat) : Nat :=
  let sum := (xs.map fun x => x * x).sum
  let r := sqrtBits 24 (sum / xs.length) 0
  if (2 * r + 1) * (2 * r + 1) * xs.length ≤ 4 * sum then r + 1 else r

/-- The samples a sweep adds to a group: rows r with r mod 32 = g, in rotation; the last 256 count. -/
def sweepSamples (d : Deck) (k g : Nat) : List Nat :=
  let new := (List.range 64).map fun i => sampleOf (rowResidual d k g (i * 32 + g) 0)
  let all := sget [] d.csSamples g ++ new
  all.drop (all.length - 256)

/-- The measured CS_SIGMA of a group, where 256 samples exist. -/
def measuredSigma (xs : List Nat) : Option Nat := if 256 ≤ xs.length then some (rmsOf xs) else none

/-- The result of a sweep that ends by beat `e`. -/
def sweepResult (d : Deck) (k e : Nat) : SweepRes :=
  let smp := (List.range 32).map fun g => (g, sweepSamples d k g)
  { ready := e, samples := smp, sigma := smp.filterMap fun x => (measuredSigma x.2).map fun v => (x.1, v), flagged := sweepFlags d k }

/-- Sub-strikes of a sweep: every row, and once more each row that exceeds in some group (R127). -/
def sweepStrikes (d : Deck) (k : Nat) (rows : List Nat) : Nat :=
  rows.length + (rows.filter fun r => (sweepGroups d).any fun g => rowExceeds d k g r 0).length

/-- A sweep of a deck whose turn it is: every compute row alone, in the fallow beats ahead that the Toll leaves room in (R110, R113, R120,
R126, R127). -/
def sweepDeck (s : State) (a : DeckAddr) : State :=
  let k := deckKey s a
  let d := sweptDeck s k
  if tileServes s a && sweepDue s d && isNext s a (sweepRank d) then
    match subStrikesEnd s a false (sweepStrikes d s.free (List.range 2048)) (s.alm.beat.toNat + 16 * deckT s d) with
    | some e => assayUntil { modDeck s k (fun _ => { d with sweepPend := some (sweepResult d s.free e) }) with free := s.free + 131072 } a e
    | none => s
  else s

def execSweep (d : DeckAddr) (s : State) : Host.Outcome State Fault Refusal := .next (sweepDeck s d)

/-! ## FINDING_LOCATE (R39, R128, R129) -/

/-- Whether a spare column of a group carries another column. -/
def spareUsed (d : Deck) (g j : Nat) : Bool := flagOf (sget 0 d.reg.spareMap g) (if j = 34 then 7 else 15)

/-- Whether the cell at offset `j` of a group's 36 deviates: outside twice its band. A spare carries the targets of the column it replaces; one
not in use has the target digit 0. -/
def deviates (d : Deck) (t : Target) (row g j : Nat) : Bool :=
  if 34 ≤ j then !spareUsed d g j && decide (2 * bandOf 1 < cellAt d row (36 * g + j))
  else
    let f := d.reg.fmt
    let x := roleGoal f t row g j
    let band := if j = 33 then checkBand else if j = 32 then bandOf 1 else bandOf (sliceDigit f 1 (j % fmtC f)).2
    decide (2 * band < ((cellAt d row (physCol d g j) : Int) - x.1).natAbs)

/-- Whether the pair of a WT weight holds 1 in both columns, which is treated as a column fault (R39). -/
def wtPair (d : Deck) (row g j : Nat) : Bool :=
  d.reg.fmt == .wt && decide (j < 32) && decide (gUnit / 2 ≤ cellAt d row (physCol d g j)) &&
    decide (gUnit / 2 ≤ cellAt d row (physCol d g (if j % 2 = 0 then j + 1 else j - 1)))

/-- What verify reads of flagged rows have found of one column: deviating rows, below target in all, and broken (open,
short or an impossible pair). -/
structure ColSeen where
  off : Nat
  rows : List Nat
  below : Bool
  broken : Bool
  deriving DecidableEq, Repr

/-- A column after one more row is read. -/
def seeRow (d : Deck) (t : Target) (g row : Nat) (c : ColSeen) : ColSeen :=
  if deviates d t row g c.off then
    { c with rows := c.rows ++ [row]
             below := c.below && decide (c.off < 34) && decide (cellAt d row (physCol d g c.off) < (roleGoal d.reg.fmt t row g c.off).1)
             broken := c.broken || wtPair d row g c.off }
  else c

/-- Whether verify reads have shown something of a column. -/
def ColSeen.seen (c : ColSeen) : Bool := !c.rows.isEmpty || c.broken

/-- Whether a column's class is settled with `left` flagged rows to read. -/
def colSettled (left : Nat) (c : ColSeen) : Bool :=
  !c.seen || c.off == 32 || c.off == 33 || c.broken || decide (9 ≤ c.rows.length) || decide (c.rows.length + left < 9)

/-- Read flagged rows in ascending order until every column that has deviated is settled: the columns, and the rows read. -/
def readRows (d : Deck) (t : Target) (g : Nat) : List Nat → List ColSeen → List ColSeen × Nat
  | [], cs => (cs, 0)
  | r :: rs, cs =>
    let cs1 := cs.map (seeRow d t g r)
    if cs1.any ColSeen.seen && cs1.all (colSettled rs.length) then (cs1, 1)
    else let x := readRows d t g rs cs1; (x.1, x.2 + 1)

/-- The finding of one column: cell, column, reference or checksum fault. -/
def colFinding (a : DeckAddr) (d : Deck) (g : Nat) (flagged : List Nat) (c : ColSeen) : Finding :=
  let cls : Byte := if c.off = 32 then 4 else if c.off = 33 then 3 else if c.broken ∨ 9 ≤ c.rows.length then 2 else 1
  { blankFinding a d cls g c.off with
    row := if cls = 1 then BitVec.ofNat 16 (c.rows.headD 0xFFFF) else 0xFFFF
    output := if c.off < 32 then BitVec.ofNat 16 (g * fmtQ d.reg.fmt + c.off / fmtC d.reg.fmt) else 0xFFFF
    rows := flagged, below := c.below }

/-- What the verify reads of a group's flagged rows come to: a finding of each column that deviates or is broken; else one more sweep of the rows
(R128, R129). -/
def classify (s : State) (a : DeckAddr) (d : Deck) (g : Nat) (rows : List Nat) (cols : List ColSeen) : State :=
  let seen := cols.filter ColSeen.seen
  if seen.isEmpty then
    let s1 := { s with free := s.free + 131072 }
    let f := { blankFinding a d 8 g 0xFF with rows := rows }
    if rows.any fun r => rowFlagged d s.free g r then detect s1 f else recordClosed s1 f
  else forEach seen s fun s c => detect s (colFinding a d g rows c)

/-- The flagged rows of a group are verify-read against their targets, in the fallow beats ahead, and the finding is classified by column. A group
whose CS_SIGMA is measured too wide becomes a finding as well (R125). -/
def findingLocate (s : State) (a : DeckAddr) (g : Nat) (openCols : List Nat) : State :=
  let k := deckKey s a
  let d := sweptDeck s k
  let rows := (d.flagged.filter fun x => x.1 == g).map Prod.snd
  if (rows.isEmpty && !d.wide.contains g) || !served d || !tileServes s a || !isNext s a repairRank then s
  else
    let s1 := modDeck s k fun _ => { d with flagged := d.flagged.filter (fun x => x.1 != g), wide := d.wide.filter (· != g) }
    let s2 := if d.wide.contains g then detect s1 (blankFinding a d 3 g 33) else s1
    if rows.isEmpty then s2
    else match targetOf s (logicalDeck a) with
    | some t =>
      if t.poisoned ∨ !t.complete then detect s2 { blankFinding a d 9 g 0xFF with rows := rows }
      else
        let start := (List.range 36).map fun j => { off := j, rows := [], below := true, broken := openCols.contains j }
        let r := readRows d t g rows start
        match readsEnd s a r.2 (s.alm.beat.toNat + 16 * deckT s d) with
        | some e => assayUntil (classify s2 a d g rows r.1) a e
        | none => s
    | none => detect s2 { blankFinding a d 9 g 0xFF with rows := rows }

def execFindingLocate (d : DeckAddr) (group : Fin 32) (openCols : List Nat) (s : State) : Host.Outcome State Fault Refusal :=
  .next (findingLocate s d group openCols)

/-! ## The repair ladder (R130–R134) -/

/-- The tile-deck of a finding. -/
def findingAddr (f : Finding) : DeckAddr := { core := f.core, string := f.string, tile := f.tile, deck := f.deck }

/-- Every compute row in which a column of a group deviates. -/
def deviantRows (d : Deck) (t : Target) (g j : Nat) : List Nat := (List.range 2048).filter fun r => deviates d t r g j

/-- A finding that option loading restored, with the rows in which its column deviates and their direction found again. -/
def relocated (d : Deck) (t : Target) (f : Finding) : Finding :=
  if f.group.toNat < 32 ∧ f.offset.toNat < 36 ∧ f.rows = [] then
    let rows := deviantRows d t f.group.toNat f.offset.toNat
    { f with rows := rows
             below := decide (f.offset.toNat < 34) && rows.all fun r =>
               decide (cellAt d r (physCol d f.group.toNat f.offset.toNat) < (roleGoal d.reg.fmt t r f.group.toNat f.offset.toNat).1) }
  else f

/-- A finding that cannot be repaired for want of targets moves to rung 4 (R128, R130). -/
def noTarget (s : State) (f : Finding) : State :=
  unrepairable (setFinding (modFinding s f fun x => { x with rung := 4 }) { f with rung := 4 } stOpen) { f with rung := 4 }

/-- The target image that a repair fetches, where it is whole. -/
def repairTarget (s : State) (f : Finding) : Option Target :=
  match targetOf s (logicalDeck (findingAddr f)) with
  | some t => if t.poisoned ∨ !t.complete then none else some t
  | none => none

/-- Whether the Assayer may begin on a finding: it is open or waiting, its deck is in service and has no repair under way. -/
def repairable (s : State) (f : Finding) : Bool :=
  (f.st == stOpen || f.st == stWaiting) && served (getDeck s (findingDeck s f)) && tileServes s (findingAddr f) && (getDeck s (findingDeck s f)).repair.isNone

/-- Begin a rung of a finding whose rung is due and not yet tried, on a tile that has a run for it. A finding without a rung gets its own
first. The target image is the fetch of R128; without one the finding moves to rung 4. -/
def beginRung (s : State) (seq rung : Nat) (start : State → Deck → Finding → Target → Option Repair) : State :=
  match findingOf s seq with
  | some f0 =>
    if !repairable s f0 then s
    else match repairTarget s f0 with
    | none => noTarget s f0
    | some t =>
      let d := getDeck s (findingDeck s f0)
      let r := if noRung f0 then giveRung s (relocated d t f0) else (s, f0)
      let f := r.2
      if f.rung.toNat ≠ rung ∨ f.tried.contains rung ∨ !hasProgramRun s f.core f.string f.tile then r.1
      else match start r.1 d f t with
        | some x => tidyRepair (modDeck (if f.st = stWaiting then setFinding r.1 f stOpen else r.1) (findingDeck s f) fun d => { d with repair := some x }) (findingDeck s f)
        | none => nextRung r.1 f
  | none => s

/-- A repair of a finding whose rows are all programmed, with the finding, where its update may be made now. -/
def repairDone (s : State) (seq rung : Nat) : Option (Finding × Repair) :=
  match findingOf s seq with
  | some f =>
    match (getDeck s (findingDeck s f)).repair with
    | some r => if r.seq = seq ∧ r.rung = rung ∧ r.rows = [] ∧ updateFits s (findingAddr f) then some (f, r) else none
    | none => none
  | none => none

/-- Rung 1: the affected rows are programmed to their targets. -/
def repairReprogram (s : State) (seq : Nat) : State :=
  beginRung s seq 1 fun _ d f t => some { seq := seq, rung := 1, rows := f.rows.map fun r => (r, rowGoals d d.reg.fmt t r) }

def execRepairReprogram (seq : Nat) (s : State) : Host.Outcome State Fault Refusal := .next (repairReprogram s seq)

/-- TIL_SPARE_MAP of a group with one more spare in use (R56). -/
def mapSpare (w : Word) (i off : Nat) : Word := w ||| packWord [(off, 8 * i, 6), (1, 8 * i + 7, 1)]

/-- A substitution: log entry, TIL_SPARE_MAP and SPARES_USED (R34, R55, R170). -/
def substitute (d : Deck) (g i off : Nat) : Deck :=
  { d with
    spareLog := d.spareLog ++ [(g, i, off)]
    reg := { d.reg with spareMap := sset 0 d.reg.spareMap g (mapSpare (sget 0 d.reg.spareMap g) i off), sparesUsed := d.reg.sparesUsed + 1 } }

/-- The rows in which a column has a target other than digit 0, with the goal of the spare that takes it over. -/
def spareGoals (d : Deck) (t : Target) (g off col : Nat) : List (Nat × List CellGoal) :=
  (List.range 2048).filterMap fun r =>
    let x := roleGoal d.reg.fmt t r g off
    if x.1 = 0 then none else some (r, [{ col := col, gt := x.1, band := x.2 }])

/-- Rung 2: a free spare of the group is programmed with the column's targets, and the log with its entry; once they are programmed it is mapped in
the column's place in one fallow beat. -/
def spareSubstitute (s : State) (seq : Nat) : State :=
  match repairDone s seq 2 with
  | some (f, r) =>
    let k := findingDeck s f
    match freeSpare (getDeck s k) f.group.toNat with
    | some i => finishRepair (modDeck s k fun d => substitute d f.group.toNat i f.offset.toNat) k r
    | none => finishRepair s k { r with bad := 1 }
  | none =>
    beginRung s seq 2 fun _ d f t =>
      let g := f.group.toNat
      (freeSpare d g).map fun i =>
        { seq := seq, rung := 2
          rows := spareGoals d t g f.offset.toNat (36 * g + 34 + i) ++ [(rowLog, bitGoals (logBits (d.spareLog ++ [(g, i, f.offset.toNat)])))] }

def execSpareSubstitute (seq : Nat) (s : State) : Host.Outcome State Fault Refusal := .next (spareSubstitute s seq)

/-! ## NEIGHBOUR_ADJUST (R133) -/

/-- The digit weights and steps of a weight's slice columns, P and N alternating. -/
def digitWeights (f : WFmt) : List (Int × Nat) :=
  match f with
  | .w8 => [(64, 1), (-64, 1), (32, 1), (-32, 1), (8, 3), (-8, 3), (1, 7), (-1, 7)]
  | .w4 => [(4, 1), (-4, 1), (1, 3), (-1, 3)]
  | _ => []

/-- The digit a conductance is nearest to, for a column of so many steps: how a present digit is read from a measured conductance is the model's
choice (R133, log 137). -/
def nearDigit (g steps : Nat) : Nat := min steps (rneDiv (g * steps) gUnit)

/-- Every choice of digits for the columns, each at least its present digit; the faulty column keeps its place with its
present digit. -/
def digitChoices (fault : Nat) : List ((Int × Nat) × Nat × Nat) → List (List Nat)
  | [] => [[]]
  | ((_, steps), now, i) :: r =>
    let ds := if i = fault then [now] else (List.range (steps + 1)).filter fun d => now ≤ d
    ds.flatMap fun d => (digitChoices fault r).map (d :: ·)

/-- What a choice costs: |e_r| in 1/672,000 weight-unit, then the tie-breaks of R133. -/
structure AdjCost where
  err : Nat
  rise : Nat
  changed : Nat
  total : Nat
  digits : List Nat
  e : Int
  deriving DecidableEq, Repr

/-- Lexicographic order on digit lists. -/
def lexLt : List Nat → List Nat → Bool
  | a :: r, b :: t => if a < b then true else if b < a then false else lexLt r t
  | _, _ => false

def AdjCost.lt (a b : AdjCost) : Bool :=
  if a.err ≠ b.err then decide (a.err < b.err)
  else if a.rise ≠ b.rise then decide (a.rise < b.rise)
  else if a.changed ≠ b.changed then decide (a.changed < b.changed)
  else if a.total ≠ b.total then decide (a.total < b.total)
  else lexLt a.digits b.digits

/-- The cost of a choice of digits for a weight `w`: the faulty column counts at its measured conductance `mf`. -/
def choiceCost (ws : List (Int × Nat)) (now : List Nat) (fault mf : Nat) (w : Int) (ds : List Nat) : AdjCost :=
  let vals := ((ws.zip ds).zipIdx).map fun (x : ((Int × Nat) × Nat) × Nat) =>
    if x.2 = fault then x.1.1.1 * (mf : Int) * x.1.1.2 else x.1.1.1 * ((x.1.2 * gUnit : Nat) : Int)
  let e := w * (gUnit : Int) - vals.sum
  let rises := ((ws.zip (ds.zip now)).map fun (x : (Int × Nat) × Nat × Nat) => (x.2.1 - x.2.2) * gUnit / x.1.2)
  { err := e.natAbs, rise := rises.foldl max 0, changed := (rises.filter fun r => decide (0 < r)).length, total := rises.sum, digits := ds, e := e }

/-- The best choice of a non-empty list. -/
def bestChoice : List AdjCost → Option AdjCost
  | [] => none
  | x :: r => some (r.foldl (fun b y => if y.lt b then y else b) x)

/-- The adjustment of one row: the row, its choice, and the new goals of the output's columns and the checksum cell. -/
structure RowAdj where
  row : Nat
  e : Int
  goals : List CellGoal
  mask : Bool
  deriving DecidableEq, Repr

/-- Adjust one deviating row of the faulty column at offset `off` of group `g`. -/
def adjustRow (d : Deck) (t : Target) (g off row : Nat) : Option RowAdj :=
  let f := d.reg.fmt
  let c := fmtC f
  let base := off / c * c
  let ws := digitWeights f
  let now := ws.zipIdx.map fun x => nearDigit (cellAt d row (physCol d g (base + x.2))) x.1.2
  let mf := cellAt d row (physCol d g off)
  let cs := (digitChoices (off - base) (ws.zip (now.zip (List.range c)))).map
    (choiceCost ws now (off - base) mf (weightAt t row (g * fmtQ f + off / c)))
  (bestChoice cs).map fun b =>
    let newG := fun (j : Nat) =>
      if j = off then mf
      else if base ≤ j ∧ j < base + c then (b.digits.getD (j - base) 0) * gUnit / (ws.getD (j - base) (1, 1)).2
      else (dataGoal f t row g j).1
    let sum := ((List.range 32).map newG).sum / 32
    let now33 := cellAt d row (physCol d g 33)
    { row := row, e := b.e, mask := decide (sum < now33)
      goals := (((List.range c).filter fun i => base + i != off).map fun i =>
          { col := physCol d g (base + i), gt := newG (base + i),
            band := if newG (base + i) = 0 then zeroBand else bandOf (ws.getD i (1, 1)).2 }) ++
        (if sum < now33 then [] else [{ col := physCol d g 33, gt := sum, band := if sum = 0 then zeroBand else checkBand }]) }

/-- Whether a compute row lies in a block that holds local output `p`. -/
def rowOfOutput (d : Deck) (p r : Nat) : Bool :=
  (deckBlocks d).any fun b => decide (b.firstRow ≤ r) && decide (r < b.firstRow + b.rowCount) && (blockOutputs d.reg.fmt b).contains p

/-- The adjustments of the rows of the output's block where the faulty column deviates. -/
def adjustRows (d : Deck) (t : Target) (g off : Nat) : List RowAdj :=
  ((List.range 2048).filter fun r => rowOfOutput d (g * fmtQ d.reg.fmt + off / fmtC d.reg.fmt) r && deviates d t r g off).filterMap (adjustRow d t g off)

/-- h = √(2,048 Σ e²) / u512 in FP16, with u512 = 2M; the e in 1/672,000 (R133). -/
def htermOf (f : WFmt) (es : List Int) : BitVec 16 :=
  let n := 2048 * (es.map fun e => e.natAbs ^ 2).sum * 2 ^ 48
  ratF16 false (sqrtBits 64 n 0) (2 ^ 24 * gUnit * 2 * fmtM f)

/-- The realised change of an adjusted output's coefficients, and the mask of its group where a checksum cell could not follow (R133). -/
def adjustDeck (f : Finding) (r : Repair) (d : Deck) : Deck :=
  let p := f.output.toNat
  modSlot f (fun x => { x with hterm := r.hterm, dcolsum := BitVec.ofInt 16 (-r.sum) })
    { d with
      colsum := sset 0 d.colsum p (sget 0 d.colsum p - r.sum)
      masked := if r.mask then d.masked ||| BitVec.ofNat 32 (2 ^ f.group.toNat) else d.masked }

/-- Rung 3: new digits of the output's other slices compensate the faulty column; once they are programmed COLSUM follows in one fallow beat and the
finding closes as adjusted. -/
def neighbourAdjust (s : State) (seq : Nat) : State :=
  match repairDone s seq 3 with
  | some (f, r) =>
    let k := findingDeck s f
    if r.bad ≠ 0 then finishRepair s k r
    else setFinding (modFinding (finishRepair (modDeck s k (adjustDeck f r)) k r) f fun x => { x with hterm := r.hterm }) f stAdjusted
  | none =>
    beginRung s seq 3 fun _ d f t =>
      let adj := adjustRows d t f.group.toNat f.offset.toNat
      some { seq := seq, rung := 3, rows := adj.map fun x => (x.row, x.goals), sum := rneInt (adj.map RowAdj.e).sum gUnit
             hterm := htermOf d.reg.fmt (adj.map RowAdj.e), mask := adj.any RowAdj.mask }

def execNeighbourAdjust (seq : Nat) (s : State) : Host.Outcome State Fault Refusal := .next (neighbourAdjust s seq)

/-! ## CLOSING_SWEEP (R132) -/

/-- The rows a closing sweep covers: the finding's, or every row of its column's non-zero targets where it names none. -/
def closingRows (s : State) (d : Deck) (f : Finding) : List Nat :=
  if f.rows.isEmpty then
    match targetOf s (logicalDeck (findingAddr f)) with
    | some t => (spareGoals d t f.group.toNat f.offset.toNat 0).map Prod.fst
    | none => []
  else f.rows

/-- Whether a finding waits for its closing sweep: its rung 1 or 2 has been programmed. -/
def closes (f : Finding) : Bool := f.st == stOpen && (f.rung == 1 || f.rung == 2) && f.tried.contains f.rung.toNat

/-- The closing sweep, in the fallow beats ahead: no exceedance closes the finding as repaired; one moves it to its next rung. -/
def closingSweep (s : State) (seq : Nat) : State :=
  match findingOf s seq with
  | some f =>
    let d := getDeck s (findingDeck s f)
    let rows := closingRows s d f
    if !closes f || !served d || d.repair.isSome || !tileServes s (findingAddr f) || !isNext s (findingAddr f) repairRank then s
    else match subStrikesEnd s (findingAddr f) false (sweepStrikes d s.free rows) (s.alm.beat.toNat + 16 * deckT s d) with
      | some e =>
        let s1 := assayUntil { s with free := s.free + 131072 } (findingAddr f) e
        if rows.any fun r => rowExceeds d s.free f.group.toNat r 0 then nextRung s1 f else setFinding s1 f stRepaired
      | none => s
  | none => s

def execClosingSweep (seq : Nat) (s : State) : Host.Outcome State Fault Refusal := .next (closingSweep s seq)

end Sys2Proof.Machine
end

