-- ==== Sys2Proof/Machine/Completion.lean ====
section
/-! DEFINITION. The end of a consignment whose tokens are done (R331, R357, R361, R395). -/

namespace Sys2Proof.Machine

/-- Whether a range of the shared window holds poisoned data. -/
def winPoisoned (s : State) (addr n : Nat) : Bool :=
  n != 0 && (List.range ((addr + n - 1) / 64 - addr / 64 + 1)).any fun i => (winRead s ((addr / 64 + i) * 64) 1).any Prod.snd

/-- CONSIGNMENT_COMPLETE: every token's circuit is over; `outBytes` were written to its output. A result that depends on
poisoned data completes with INTEGRITY. -/
def consignmentComplete (s : State) (c q outBytes : Nat) : State :=
  match getQ s c q with
  | none => s
  | some e0 =>
    let s1 := retireCircuits s e0.eng
    match getQ s1 c q with
    | none => s
    | some e =>
      if e.st = .started ∧ e.cancelled = false ∧ e.tokens ≤ e.done then
        let n := min outBytes e.outBytes.toNat
        endCons (modQ s1 c q fun e => { e with outWritten := n }) c q (if winPoisoned s1 e.outAddr.toNat n then stIntegrity else stOk)
      else s

def execConsignmentComplete (consignor : Fin 16) (qslot : BitVec 8) (outBytes : Nat) (s : State) : Host.Outcome State Fault Refusal :=
  .next (consignmentComplete s consignor qslot.toNat outBytes)

end Sys2Proof.Machine
end

