-- ==== Sys2Proof/Machine/Customs.lean ====
section
/-! DEFINITION. Customs: attestation and sessions, key delivery, the tenant switch, management and the debug port
(R438–R464). -/

namespace Sys2Proof.Machine

def cusMod (s : State) (f : Cus → Cus) : State := { s with cus := f s.cus }

/-! ## SPDM: response and error codes of the DMTF standard (log 27) -/

def errInvalidRequest : Byte := 0x01
def errInvalidSession : Byte := 0x02
def errUnexpected : Byte := 0x04
def errDecrypt : Byte := 0x06
def errUnsupported : Byte := 0x07
def errSessionLimit : Byte := 0x0A
def errLarge : Byte := 0x0F
def errNotReady : Byte := 0x42

/-- An ERROR response. -/
def spdmError (code : Byte) (data : List Byte) : SpdmResp := { code := 0x7F, body := code :: data }

def getConn (s : State) (p : SpdmPort) : SpdmConn := (s.cus.conns.find? fun c => c.port == p).getD { port := p }

def modConn (s : State) (p : SpdmPort) (f : SpdmConn → SpdmConn) : State :=
  cusMod s fun c => { c with conns := f (getConn s p) :: c.conns.filter fun x => x.port != p }

/-- Whether nothing answers on the transport: the PCIe core or the SMBus endpoint is not up (R414, R432, R443), or no
message is being taken. -/
def spdmSilent (s : State) (p : SpdmPort) : Bool :=
  decide (2 ≤ s.pwr.st.toNat) ||
    match p with
    | .doe => hostBlocked s
    | .mctp => !s.smc.ready || (!s.fac.up && !s.fac.resumePending)
    | .tunnel _ => !s.fac.up

/-- ResponseNotReady, which Customs answers itself during a warm reset and a tenant switch (R443). -/
def notReady (s : State) : Option SpdmResp :=
  if s.fac.resumePending || inReset s then some (spdmError errNotReady [16, 2])
  else if s.cus.tenancy = .switching then some (spdmError errNotReady [15, 1])
  else none

/-- What a request does: the state after it and the response. -/
abbrev Serve := State → SpdmPort → State × SpdmResp

/-- Serve a request, or answer that none can be served now (R443). -/
def serveReady (act : Serve) : Serve := fun s p => match notReady s with | some e => (s, e) | none => act s p

/-- The response of a request stands in the model's response field and, in its DMTF layout, for CHUNK_GET. -/
def recordResp (s : State) (p : SpdmPort) (r : SpdmResp) : State :=
  modConn (cusMod s fun c => { c with resp := r }) p fun c => { c with large := Config.spdmBytes r.code r.body }

/-- A request arrives on a transport (R441). -/
def spdmRequest (s : State) (p : SpdmPort) (act : Serve) : State :=
  let s0 := if p = .doe then hostTouch s else s
  if spdmSilent s0 p then s0
  else
    let r := serveReady act s0 p
    recordResp r.1 p r.2

/-! ## Negotiation -/

/-- VERSION 1.3; a GET_VERSION starts negotiation anew and ends the connection's sessions (log 27). -/
def serveVersion : Serve := fun s p => (modConn s p fun _ => { port := p, version := true }, { code := 0x04, body := [0x00, 0x13] })

/-- CERT, CHAL, MEAS with signature, ENCRYPT, MAC, MUT_AUTH, KEY_EX, ENCAP, HBEAT, KEY_UPD, CHUNK and SET_CERT. -/
def capFlags : Nat := 2 ^ 1 + 2 ^ 2 + 2 ^ 4 + 2 ^ 6 + 2 ^ 7 + 2 ^ 8 + 2 ^ 9 + 2 ^ 12 + 2 ^ 13 + 2 ^ 14 + 2 ^ 17 + 2 ^ 19

def serveCapabilities : Serve := fun s p =>
  if (getConn s p).version then (modConn s p fun c => { c with caps := true }, { code := 0x61, body := leBytes 4 capFlags })
  else (s, spdmError errUnexpected [])

/-- ECDSA P-384, SHA-384, secp384r1, AES-256-GCM and the SPDM key schedule. -/
def serveAlgorithms (offered : Bool) : Serve := fun s p =>
  if !(getConn s p).caps then (s, spdmError errUnexpected [])
  else if offered then (modConn s p fun c => { c with algs := true }, { code := 0x63, body := [0x80, 0x02, 0x10, 0x02, 0x01] })
  else (s, spdmError errInvalidRequest [])

/-- Requests that need a negotiated connection. -/
def negotiated (act : Serve) : Serve := fun s p => if (getConn s p).algs then act s p else (s, spdmError errUnexpected [])

/-! ## Certificates -/

/-- The digest of the running Oluolawell image; zeros with none running (R442). -/
def imageDigest (s : State) (i : Option Nat) : BitVec 384 :=
  match i with
  | some i => match (vget {} s.bst.images i).hdr with | some h => h.digest | none => 0
  | none => 0

def runningDigest (s : State) : BitVec 384 := imageDigest s (s.fac.slot.map Fin.val)

/-- The chain of a certificate slot; empty when unwritten (R441). -/
def chainOf (s : State) (slot : Nat) : List Byte :=
  match slot with
  | 0 => Config.deviceChain
  | 1 => Config.aliasChain (runningDigest s)
  | 2 => s.cus.cert2
  | 3 => s.cus.cert3
  | _ => []

/-- The slots that hold a chain. -/
def certSlots (s : State) : List Nat := (List.range 4).filter fun i => decide (i < 2) || !(chainOf s i).isEmpty

def chainDigest (s : State) (slot : Nat) : List Byte := leBytes 48 (Config.sha384 (chainOf s slot)).toNat

def serveDigests : Serve := negotiated fun s _ =>
  (s, { code := 0x01, body := BitVec.ofNat 8 (((certSlots s).map fun i => 2 ^ i).sum) :: (certSlots s).flatMap (chainDigest s) })

def serveCertificate (slot offset len : Nat) : Serve := negotiated fun s _ =>
  let ch := chainOf s slot
  if !(certSlots s).contains slot || decide (ch.length ≤ offset) then (s, spdmError errInvalidRequest [])
  else
    let part := (ch.drop offset).take len
    (s, { code := 0x02, body := BitVec.ofNat 8 slot :: (leBytes 2 part.length ++ leBytes 2 (ch.length - offset - part.length) ++ part) })

/-- 32 random bytes of the Customs DRBG, from two free values (log 6). -/
def drbg32 (s : State) : List Byte := leBytes 16 (Config.drbg s.free).toNat ++ leBytes 16 (Config.drbg (s.free + 1)).toNat

def drew2 (s : State) : State := { s with free := s.free + 2 }

/-- A response signed with the Alias key over its own bytes and the requester's nonce (R440). -/
def signed384 (bs nonce : List Byte) : List Byte := bs ++ leBytes 96 (Config.aliasSign (nonce ++ bs)).toNat

def serveChallenge (slot : Nat) (nonce : BitVec 256) : Serve := negotiated fun s _ =>
  if !(certSlots s).contains slot then (s, spdmError errInvalidRequest [])
  else (drew2 s, { code := 0x03, body := signed384 (BitVec.ofNat 8 slot :: (chainDigest s slot ++ drbg32 s)) (leBytes 32 nonce.toNat) })

def serveSetCertificate (slot : Nat) (chain : List Byte) : Serve := negotiated fun s p =>
  if p ≠ .mctp ∨ s.cus.tenancy ≠ .none ∨ (slot ≠ 2 ∧ slot ≠ 3) then (s, spdmError errInvalidRequest [])
  else (cusMod s fun c => if slot = 2 then { c with cert2 := chain } else { c with cert3 := chain },
        { code := 0x6E, body := [BitVec.ofNat 8 slot] })

/-! ## Measurements (R442) -/

/-- The slot of the image that waits to be started. -/
def pendingSlot (s : State) : Option Nat :=
  (List.range 2).find? fun i => (vget {} s.bst.images i).pendingSt && !(vget {} s.bst.images i).trial && !(vget {} s.bst.images i).retired

/-- Version and build of the pending image. -/
def pendingVersion (s : State) : Word × Word :=
  match pendingSlot s with
  | some i => match (vget {} s.bst.images i).hdr with | some h => (h.version, h.build) | none => (0, 0)
  | none => (0, 0)

/-- The DEV_IDs of the Route in device-number order, under SHA-384; alone, its own. -/
def routeIds (s : State) : BitVec 384 :=
  if s.hzl.ndev.toNat ≤ 1 then Config.sha384 (leBytes 48 Config.devId.toNat) else Config.routeDigest s.hzl.ndev.toNat

/-- MANIFEST_HASH of every engagement in states 1 to 6, joined. -/
def manifestHashes (s : State) : List Byte :=
  (List.range 64).flatMap fun e => if (getEng s e).st == .free then [] else leBytes 48 (getEng s e).manifestHash.toNat

/-- The content of a block: whether it is raw, its type in the DMTF format, and its bytes. -/
def blockContent (s : State) (i : Nat) : Option (Bool × Nat × List Byte) :=
  match i with
  | 1 => some (false, 0, leBytes 48 Config.bootCodeDigest.toNat)
  | 2 => some (false, 1, leBytes 48 (runningDigest s).toNat)
  | 3 => some (false, 1, leBytes 48 (imageDigest s (pendingSlot s)).toNat)
  | 4 => some (true, 6, leBytes 4 s.fac.ver.toNat ++ leBytes 4 s.fac.build.toNat ++ leBytes 4 (pendingVersion s).1.toNat ++
      leBytes 4 (pendingVersion s).2.toNat ++ leBytes 4 s.bst.svnFuse.toNat)
  | 5 => some (true, 3, leBytes 4 (packNat [(b2n s.cus.conf, 0, 1), (b2n s.cus.bounce, 1, 1), (b2n (s.cus.tdi == .run), 2, 1),
      (b2n s.cus.debugPort, 3, 1), (s.bst.creds.length, 4, 4)]))
  | 6 => some (true, 3, leBytes 4 s.cus.scopes.toNat ++ leBytes 4 s.cus.grants.toNat ++ leBytes 8 s.cus.consentBeat.toNat)
  | 7 => some (true, 3, leBytes 48 (if s.cus.tenancy = .none then 0 else s.cus.tenantId.toNat) ++ leBytes 4 s.cus.switches.toNat)
  | 8 => some (true, 2, leBytes 48 Config.devId.toNat ++ leBytes 1 s.hzl.devnum.toNat ++ leBytes 1 s.hzl.ndev.toNat ++
      leBytes 48 (routeIds s).toNat)
  | 9 => some (false, 4, leBytes 48 (Config.sha384 (manifestHashes s)).toNat)
  | 0xFE => some (true, 5, leBytes 4 4 ++ leBytes 4 4 ++ leBytes 4 1 ++ leBytes 4 (b2n (s.cus.scopes != 0)))
  | _ => none

/-- A block in DMTF measurement block format. -/
def measureBytes (s : State) (i : Nat) : List Byte :=
  match blockContent s i with
  | some (raw, ty, bs) =>
    leBytes 1 i ++ [0x01] ++ leBytes 2 (bs.length + 3) ++ leBytes 1 (ty + if raw then 128 else 0) ++ leBytes 2 bs.length ++ bs
  | none => []

/-- The block numbers in ascending order. -/
def blockNumbers : List Nat := [1, 2, 3, 4, 5, 6, 7, 8, 9, 0xFE]

/-- The blocks an index asks for: 0 their number alone, 0xFF all, else one (log 27). -/
def blocksAsked (i : Nat) : Option (List Nat) :=
  if i = 0 then some [] else if i = 0xFF then some blockNumbers else if blockNumbers.contains i then some [i] else none

def serveMeasurements (index : Byte) (sign : Bool) (nonce : BitVec 256) : Serve := negotiated fun s _ =>
  match blocksAsked index.toNat with
  | none => (s, spdmError errInvalidRequest [])
  | some ks =>
    let rec_ := ks.flatMap (measureBytes s)
    let head := leBytes 1 (if index = 0 then blockNumbers.length else ks.length) ++ leBytes 3 rec_.length ++ rec_
    if sign then (drew2 s, { code := 0x60, body := signed384 (head ++ drbg32 s) (leBytes 32 nonce.toNat) })
    else (s, { code := 0x60, body := head })

/-! ## Sessions -/

/-- Sessions a transport may hold (R441). -/
def sessionLimit (p : SpdmPort) : Nat := match p with | .tunnel _ => 1 | .doe => 2 | .mctp => 1

/-- The lowest session number no session of the device has (log 27). -/
def freeSession (s : State) : Word :=
  let used := s.cus.conns.flatMap fun c => c.handshake.map Prod.fst ++ c.sessions.map Prod.fst
  BitVec.ofNat 32 (((List.range 64).find? fun i => !used.contains (BitVec.ofNat 32 (i + 1))).getD 0 + 1)

def connSessions (c : SpdmConn) : Nat := c.handshake.length + c.sessions.length

def serveKeyExchange (slot : Nat) (mutAuth : Bool) (pub : BitVec 768) : Serve := negotiated fun s p =>
  if !(certSlots s).contains slot then (s, spdmError errInvalidRequest [])
  else if sessionLimit p ≤ connSessions (getConn s p) then (s, spdmError errSessionLimit [])
  else
    let n := freeSession s
    let head := leBytes 4 n.toNat ++ [if mutAuth then 1 else 0] ++ leBytes 96 (Config.dhPublic s.free).toNat
    (freshen (modConn s p fun c => { c with handshake := c.handshake ++ [(n, mutAuth)] }),
     { code := 0x64, body := signed384 head (leBytes 96 pub.toNat) })

/-- FINISH establishes the session; under mutual authentication it fixes TENANT_ID, the SHA-384 of the leaf public key
(R438). A FINISH that does not verify ends the handshake. -/
def serveFinish (session : Word) (leafKey : List Byte) (sigOk : Bool) : Serve := negotiated fun s p =>
  match (getConn s p).handshake.find? fun x => x.1 == session with
  | none => (s, spdmError errInvalidSession [])
  | some h =>
    let s1 := modConn s p fun c => { c with handshake := c.handshake.filter fun x => x.1 != session }
    if !sigOk then (s1, spdmError errDecrypt [])
    else
      (modConn s1 p fun c => { c with sessions := c.sessions ++ [(session, if h.2 then some (Config.sha384 leafKey) else none)] },
       { code := 0x65, body := [] })

def hasSession (s : State) (p : SpdmPort) (session : Word) : Bool := (getConn s p).sessions.any fun x => x.1 == session

def endSession (s : State) (p : SpdmPort) (session : Word) : State :=
  modConn s p fun c => { c with sessions := c.sessions.filter fun x => x.1 != session }

/-- A request within an established session. -/
def inSession (session : Word) (act : Serve) : Serve := fun s p =>
  if hasSession s p session then act s p else (s, spdmError errInvalidSession [])

def serveHeartbeat (session : Word) : Serve := inSession session fun s _ => (s, { code := 0x68, body := [] })

def serveKeyUpdate (session : Word) : Serve := inSession session fun s p =>
  (modConn s p fun c => { c with keyGen := c.keyGen + 1 }, { code := 0x69, body := [] })

def serveEndSession (session : Word) : Serve := inSession session fun s p => (endSession s p session, { code := 0x6C, body := [] })

/-! ## Vendor-defined requests (R415, R441, R459) -/

def vendorOk (s : State) : State × SpdmResp := (s, { code := 0x7E, body := [] })

/-- IDE_KM and TDISP over DOE only, within a session; the first ADMIN over MCTP while the credential store is empty. -/
def serveVendor (session : Word) (req : VendorReq) : Serve := inSession session fun s p =>
  match req with
  | .ideKm st ok =>
    if p ≠ .doe then (s, spdmError errUnsupported [])
    else if ok then vendorOk (cusMod s fun c => { c with ideStreams := c.ideStreams ||| BitVec.ofNat 5 (2 ^ st.val) })
    else (s, spdmError errInvalidRequest [])
  | .tdispLock =>
    if p ≠ .doe then (s, spdmError errUnsupported [])
    else if s.cus.tdi = .unlocked then vendorOk (cusMod s fun c => { c with tdi := .locked })
    else (s, spdmError errInvalidRequest [])
  | .tdispStart =>
    if p ≠ .doe then (s, spdmError errUnsupported [])
    else if s.cus.tdi = .locked then vendorOk (cusMod s fun c => { c with tdi := .run })
    else (s, spdmError errInvalidRequest [])
  | .tdispStop =>
    if p ≠ .doe then (s, spdmError errUnsupported [])
    else vendorOk (cusMod s fun c => { c with tdi := .unlocked })
  | .enrolFirst key =>
    if p ≠ .mctp then (s, spdmError errUnsupported [])
    else if s.bst.creds.isEmpty then vendorOk { s with bst := { s.bst with creds := [(key, .admin)] } }
    else (s, spdmError errInvalidRequest [])
  | .other => (s, spdmError errUnsupported [])

/-! ## Requests by their bytes, and chunks -/

/-- The meaning of every request but the chunk requests. -/
def serveWhole (r : SpdmReq) : Serve :=
  match r with
  | .getVersion => serveVersion
  | .getCapabilities => serveCapabilities
  | .negotiateAlgorithms o => serveAlgorithms o
  | .getDigests => serveDigests
  | .getCertificate sl o n => serveCertificate sl o n
  | .challenge sl n => serveChallenge sl n
  | .getMeasurements i g n => serveMeasurements i g n
  | .keyExchange sl m k => serveKeyExchange sl m k
  | .finish w k ok => serveFinish w k ok
  | .heartbeat w => serveHeartbeat w
  | .keyUpdate w => serveKeyUpdate w
  | .endSession w => serveEndSession w
  | .setCertificate sl c => serveSetCertificate sl c
  | .vendorDefined w q => serveVendor w q
  | .chunkSend .. | .chunkGet .. => fun s _ => (s, spdmError errInvalidRequest [])
  | .other => fun s _ => (s, spdmError errUnsupported [])

/-- CHUNK_SEND collects a request; its last chunk is answered with the response to the whole (log 27). -/
def serveChunkSend (handle seqNo : Nat) (last : Bool) (data : List Byte) : Serve := fun s p =>
  let c := getConn s p
  if seqNo ≠ 0 ∧ (seqNo ≠ c.chunkSeq ∨ handle ≠ c.chunkHandle) then
    (modConn s p fun c => { c with chunks := [], chunkSeq := 0 }, spdmError errInvalidRequest [])
  else
    let all := (if seqNo = 0 then [] else c.chunks) ++ data
    let ack := leBytes 1 handle ++ leBytes 2 seqNo
    if last then
      let s1 := modConn s p fun c => { c with chunks := [], chunkSeq := 0 }
      let r := serveWhole (Config.spdmDecode all) s1 p
      (r.1, { code := 0x05, body := ack ++ Config.spdmBytes r.2.code r.2.body })
    else (modConn s p fun c => { c with chunks := all, chunkHandle := handle, chunkSeq := seqNo + 1 }, { code := 0x05, body := ack })

/-- The bytes of one chunk of the last response. -/
def chunkPart (bs : List Byte) (seqNo : Nat) : List Byte := (bs.drop (seqNo * Config.chunkBytes)).take Config.chunkBytes

def serveChunkGet (handle seqNo : Nat) : Serve := fun s p =>
  let part := chunkPart (getConn s p).large seqNo
  if part.isEmpty then (s, spdmError errInvalidRequest [])
  else (s, { code := 0x06, body := leBytes 1 handle ++ leBytes 2 seqNo ++ part })

/-- A chunk of a response leaves the response itself in place for the next CHUNK_GET. -/
def chunkGet (s : State) (p : SpdmPort) (handle seqNo : Nat) : State :=
  modConn (spdmRequest s p (serveChunkGet handle seqNo)) p fun c => { c with large := (getConn s p).large }

/-- The meaning of every request (R441). -/
def serve (r : SpdmReq) : Serve :=
  match r with
  | .chunkSend h n l d => serveChunkSend h n l d
  | .chunkGet h n => serveChunkGet h n
  | r => serveWhole r

/-! ## The SPDM commands -/

def execGetVersion (p : SpdmPort) (s : State) : Host.Outcome State Fault Refusal := .next (spdmRequest s p serveVersion)
def execGetCapabilities (p : SpdmPort) (s : State) : Host.Outcome State Fault Refusal := .next (spdmRequest s p serveCapabilities)
def execNegotiateAlgorithms (p : SpdmPort) (suiteOffered : Bool) (s : State) : Host.Outcome State Fault Refusal :=
  .next (spdmRequest s p (serveAlgorithms suiteOffered))
def execGetDigests (p : SpdmPort) (s : State) : Host.Outcome State Fault Refusal := .next (spdmRequest s p serveDigests)
def execGetCertificate (p : SpdmPort) (slot : Fin 8) (offset len : Nat) (s : State) : Host.Outcome State Fault Refusal :=
  .next (spdmRequest s p (serveCertificate slot offset len))
def execChallenge (p : SpdmPort) (slot : Fin 8) (nonce : BitVec 256) (s : State) : Host.Outcome State Fault Refusal :=
  .next (spdmRequest s p (serveChallenge slot nonce))
def execGetMeasurements (p : SpdmPort) (index : Byte) (sign : Bool) (nonce : BitVec 256) (s : State) : Host.Outcome State Fault Refusal :=
  .next (spdmRequest s p (serveMeasurements index sign nonce))
def execKeyExchange (p : SpdmPort) (slot : Fin 8) (mutAuth : Bool) (pub : BitVec 768) (s : State) : Host.Outcome State Fault Refusal :=
  .next (spdmRequest s p (serveKeyExchange slot mutAuth pub))
def execFinish (p : SpdmPort) (session : Word) (leafKey : List Byte) (sigOk : Bool) (s : State) : Host.Outcome State Fault Refusal :=
  .next (spdmRequest s p (serveFinish session leafKey sigOk))
def execHeartbeat (p : SpdmPort) (session : Word) (s : State) : Host.Outcome State Fault Refusal := .next (spdmRequest s p (serveHeartbeat session))
def execKeyUpdate (p : SpdmPort) (session : Word) (s : State) : Host.Outcome State Fault Refusal := .next (spdmRequest s p (serveKeyUpdate session))
def execEndSession (p : SpdmPort) (session : Word) (s : State) : Host.Outcome State Fault Refusal :=
  .next (spdmRequest s p (serveEndSession session))
def execSetCertificate (p : SpdmPort) (slot : Fin 8) (chain : List Byte) (s : State) : Host.Outcome State Fault Refusal :=
  .next (spdmRequest s p (serveSetCertificate slot chain))
def execChunkSend (p : SpdmPort) (handle seqNo : Nat) (last : Bool) (data : List Byte) (s : State) : Host.Outcome State Fault Refusal :=
  .next (spdmRequest s p (serveChunkSend handle seqNo last data))
def execChunkGet (p : SpdmPort) (handle seqNo : Nat) (s : State) : Host.Outcome State Fault Refusal := .next (chunkGet s p handle seqNo)
def execVendorDefinedRequest (p : SpdmPort) (session : Word) (req : VendorReq) (s : State) : Host.Outcome State Fault Refusal :=
  .next (spdmRequest s p (serveVendor session req))

/-- A session whose heartbeat period passes ends; the tenancy stays (R454). -/
def heartbeatTimeout (s : State) (p : SpdmPort) (session : Word) : State :=
  modConn s p fun c => { c with sessions := c.sessions.filter fun x => x.1 != session, handshake := c.handshake.filter fun x => x.1 != session }

def execHeartbeatTimeout (p : SpdmPort) (session : Word) (s : State) : Host.Outcome State Fault Refusal := .next (heartbeatTimeout s p session)

/-! ## SPDM_TUNNEL -/

/-- Bytes from a shared-window address to the end of the last granule of a range: where a response may go. -/
def windowRoom (addr n : Nat) : Nat := ((addr + n - 1) / 65536 + 1) * 65536 - addr

/-- The response as the consignor's granule takes it: whole, or as ERROR LargeResponse (log 27). -/
def tunnelReply (s : State) (mb : Nat) (w : List Word) (r : SpdmResp) : State :=
  let bs := Config.spdmBytes r.code r.body
  let room := windowRoom (wordAt w 1) (wordAt w 2)
  let out := if bs.length ≤ room then bs else (Config.spdmBytes 0x7F [errLarge, 0, 1]).take room
  finishMsg (winWrite s (wordAt w 1) (markAll false out)) mb w stOk [wordOf out.length]

/-- SPDM_TUNNEL (R441): Customs serves the request that lies in the granule. -/
def spdmTunnel (s : State) (mb : Mb) : State :=
  takeMsg s mb 0x50 fun s w =>
    let p := SpdmPort.tunnel (Fin.ofNat 16 mb)
    let r := serveReady (serve (Config.spdmDecode (winBytes s (wordAt w 1) (wordAt w 2)))) s p
    tunnelReply (recordResp r.1 p r.2) mb w r.2

def execSpdmTunnel (mb : Mb) (s : State) : Host.Outcome State Fault Refusal := .next (spdmTunnel s mb)

/-! ## KEY_DELIVER (R444, R445) -/

/-- The key package's fields. -/
structure KeyPkg where
  conf : Bool
  bounce : Bool
  relinquish : Bool
  kMem : BitVec 512
  kSeal : BitVec 256
  kBnc : BitVec 256
  deriving DecidableEq, Repr

/-- Bytes `o` to `o + n − 1` as a little-endian number. -/
def pkgNat (bs : List Byte) (o n : Nat) : Nat := leNat ((bs.drop o).take n)

/-- Check 4 of R445 and the rules of R444 on reserved bytes: 144 bytes, MAGIC, VERSION, reserved bytes 0, the halves of
K_MEM different; with RELINQUISH, bytes 8–135 zero; K_BNC zero unless BOUNCE. -/
def pkgOk (bs : List Byte) : Bool :=
  let rel := bitOf (pkgNat bs 6 1) 2
  bs.length == 144 && bs.take 4 == [0x54, 0x4B, 0x45, 0x59] && pkgNat bs 4 2 == 0x0100 && decide (pkgNat bs 6 1 < 8) &&
    pkgNat bs 7 1 == 0 && pkgNat bs 136 8 == 0 &&
    (if rel then pkgNat bs 8 128 == 0
     else pkgNat bs 8 32 != pkgNat bs 40 32 && (bitOf (pkgNat bs 6 1) 1 || pkgNat bs 104 32 == 0))

def pkgOf (bs : List Byte) : KeyPkg :=
  { conf := bitOf (pkgNat bs 6 1) 0, bounce := bitOf (pkgNat bs 6 1) 1, relinquish := bitOf (pkgNat bs 6 1) 2,
    kMem := BitVec.ofNat 512 (pkgNat bs 8 64), kSeal := BitVec.ofNat 256 (pkgNat bs 72 32), kBnc := BitVec.ofNat 256 (pkgNat bs 104 32) }

/-- Checks 5 to 7 of R445 for the tenant of the session. -/
def keyStateOk (s : State) (tid : BitVec 384) (k : KeyPkg) : Bool :=
  (match s.cus.tenancy with
   | .switching => false
   | .held => s.cus.tenantId == tid && k.relinquish
   | .none => !k.relinquish) &&
    (!k.bounce || s.cus.bncEn) && (!k.conf || k.bounce || s.cus.tdi == .run)

/-- The keys are installed, confidential and bounce mode fixed, and the tenant's decks opened (R445, R450). -/
def installKeys (s : State) (tid : BitVec 384) (k : KeyPkg) : State :=
  let s1 := cusMod s fun c =>
    { c with
      tenancy := .held, tenantId := tid, tenancyRec := some (tid.extractLsb' 0 128), conf := k.conf, bounce := k.bounce,
      kMem := k.kMem, kSeal := k.kSeal, kBnc := k.kBnc, bncCtr := [] }
  openDecks s1 (s1.decks.map Prod.fst)

/-- KEY_DELIVER (R445). The session must be established on this consignor with mutual authentication, which alone gives it
a TENANT_ID. -/
def keyDeliver (s : State) (mb : Mb) : State :=
  takeMsg s mb 0x51 fun s w =>
    let sess := wordOf (wordAt w 3)
    match (getConn s (.tunnel (Fin.ofNat 16 mb))).sessions.find? fun x => x.1 == sess with
    | some (_, some tid) =>
      match Config.openSecured sess (winBytes s (wordAt w 1) (wordAt w 2)) with
      | none => finishMsg s mb w stIntegrity []
      | some bs =>
        let k := pkgOf bs
        if !pkgOk bs || !keyStateOk s tid k then finishMsg s mb w stPolicy []
        else if k.relinquish then beginSwitch (finishMsg s mb w stOk [])
        else finishMsg (installKeys s tid k) mb w stOk []
    | _ => finishMsg s mb w stPolicy []

def execKeyDeliver (mb : Mb) (s : State) : Host.Outcome State Fault Refusal := .next (keyDeliver s mb)

/-! ## The tenant switch (R454–R456, R460) -/

/-- Programming stops as for a reset; an erase runs to its end (R460). -/
def stopForSwitch (b : Nat) (d : Deck) : Deck := if d.erasing then d else stopDeck false b d

/-- What a core keeps when its Drover stops and its buffers are overwritten: its regulators and its recorded fault. -/
def scrubCore (c : Core) : Core :=
  { stops := c.stops, fValid := c.fValid, fCause := c.fCause, fEng := c.fEng, fLeg := c.fLeg,
    ivrOn := c.ivrOn, ivrLock := c.ivrLock, ivrRetries := c.ivrRetries, varr := c.varr, pumps := c.pumps }

/-- A tile's buffers, banks and counters clear; its sensor reading stays, and an erase that runs goes on. -/
def scrubTile (t : Tile) : Tile := { temp := t.temp, thermPause := t.thermPause, workEnd := t.workEnd, workDeck := t.workDeck }

/-- Apply a change to every listed tile. -/
def mapTiles (s : State) (f : Tile → Tile) : State :=
  { s with tiles := s.tiles.filterMap fun e => if f e.2 = {} then none else some (e.1, f e.2) }

/-- Steps 2, 3 and 6: latches close, Drovers stop, programming stops, engagements become RESIDENT or FREE, and every
buffer is overwritten with zeros (R455). -/
def switchStop (s : State) : State :=
  let s1 := mapDecks (closeLatches s) fun _ d => stopForSwitch s.alm.beat.toNat d
  let s2 := forEach (List.range 64) s1 retireEng
  let s3 := memMod (mapTiles (wsClear { s2 with cores := s2.cores.map scrubCore }) scrubTile) fun m => { m with stop := [] }
  tidyTakeover { s3 with ldg := { s3.ldg with placing := false }, prt := {}, flights := [] }

/-- Step 4: keys, session secrets and IDE keys are destroyed; the TDI is unlocked. -/
def destroyKeys (s : State) : State :=
  cusMod s fun c =>
    { c with
      kMem := 0, kSeal := 0, kBnc := 0, conf := false, bounce := false, tdi := .unlocked, ideStreams := 0,
      bncCtr := [], conns := c.conns.map fun x => { x with handshake := [], sessions := [], chunks := [], chunkSeq := 0, large := [] } }

/-- Step 7: each public deck of the outgoing tenant gains one seal mark. -/
def sealOutgoing (s : State) : State :=
  match s.cus.swRec with
  | some r => mapDecks s fun _ d =>
      match d.header with
      | some h => if deckDone d && deckPublic d && h.tenant == r then addMark d else d
      | none => d
  | none => s

/-- Steps 2 to 7 and 10, which Customs does alone. -/
def switchCustoms (s : State) : State :=
  let s1 := sealOutgoing (smClear { destroyKeys (switchStop s) with targets := [] })
  forEach (upPorts s1) s1 rekeyPort

/-- A long-running message that a switch leaves to run: the erase of decks (R460). -/
def outlivesSwitch (r : LongRec) : Bool := r.opcode == 0x14

/-- Step 8 for one consignor: the reset of R373; nothing of its queue is left in progress. -/
def switchConsignor (s : State) (c : Nat) : State :=
  let s1 := modMb s c fun p => { p with recs := p.recs.filter outlivesSwitch }
  let s2 := performCrst s1 c
  forEach ((getMb s2 c).queue.filter fun e => decide (e.2.st ≠ .ended)) s2 fun s e => endCons s c e.1 stAborted

/-- Step 9: the data and tenant-context regions of TCM (R349). -/
def scrubTcm (s : State) : State :=
  memMod s fun m => { m with tcm := m.tcm.filter fun x => !(decide (0x80000 ≤ x.1) && decide (x.1 < 0x200000)) && decide (x.1 < 0x360000) }

/-- Steps 8, 9 and 11, which the Factor does; a RELEASE or an UNFENCE_CORE that waited for a swap is done, as no engagement is admitted any more. -/
def switchFactor (s : State) : State :=
  let s0 := finishRecs s (fun r => r.opcode == 0x03 || r.opcode == 0x41) stOk []
  let s1 := scrubTcm (clearGranules (forEach (List.range 16) s0 switchConsignor))
  cusMod s1 fun c =>
    { c with
      tenancy := .none, tenantId := 0, swRec := none, tenancyRec := none, switches := satAdd c.switches 1,
      scopes := 0, grants := 0, consentBeat := beat200 s1, evict := false, switchWaits := false }

/-- The tenant switch runs (R455); while the Factor is in reset its steps wait for it (R460). -/
def tenantSwitch (s : State) : State :=
  if s.cus.tenancy ≠ .switching || s.cus.switchWaits || decide (2 ≤ s.pwr.st.toNat) then s
  else
    let s1 := switchCustoms s
    if s.fac.up then switchFactor s1 else cusMod s1 fun c => { c with switchWaits := true }

def execTenantSwitch (s : State) : Host.Outcome State Fault Refusal := .next (tenantSwitch s)

/-! ## Management (R459) -/

/-- Whether the management port serves: the Factor runs it, and its domain is off in Camp. -/
def mgmtUp (s : State) : Bool := s.fac.running && s.fac.up && decide (s.pwr.st.toNat < 2)

/-- A client whose key the store holds opens a session with its role. -/
def mgmtConnect (s : State) (key : BitVec 384) (suiteOk : Bool) : State :=
  match s.bst.creds.find? fun c => c.1 == key with
  | some c =>
    if mgmtUp s && suiteOk then cusMod s fun m => { m with mgmtSessions := (key, c.2) :: m.mgmtSessions.filter fun x => x.1 != key }
    else s
  | none => s

def execMgmtTlsConnect (key : BitVec 384) (suiteOk : Bool) (s : State) : Host.Outcome State Fault Refusal := .next (mgmtConnect s key suiteOk)

/-- What an ADMIN over TLS asks is done; nothing happens for anyone else. -/
def asAdmin (s : State) (client : BitVec 384) (act : State → State) : State :=
  if mgmtUp s && mgmtHas s client .admin then act s else s

/-- Enrol a credential: up to 8, a key's earlier role being replaced. -/
def mgmtEnrol (s : State) (client key : BitVec 384) (role : Role) : State :=
  asAdmin s client fun s =>
    let others := s.bst.creds.filter fun c => c.1 != key
    if others.length < 8 then { s with bst := { s.bst with creds := others ++ [(key, role)] } } else s

def execMgmtEnrol (client : BitVec 384) (key : BitVec 384) (role : Role) (s : State) : Host.Outcome State Fault Refusal :=
  .next (mgmtEnrol s client key role)
def execMgmtEvict (client : BitVec 384) (s : State) : Host.Outcome State Fault Refusal := .next (asAdmin s client beginSwitch)
def execMgmtReset (client : BitVec 384) (cold : Bool) (s : State) : Host.Outcome State Fault Refusal :=
  .next (asAdmin s client fun s => beginReset s 5 cold false false)
def execMgmtDebugEnable (client : BitVec 384) (s : State) : Host.Outcome State Fault Refusal :=
  .next (asAdmin s client fun s => cusMod s fun c => { c with debugPort := true })

/-- An ADMIN asks for Camp or Deep Camp; a request for Trek or Halt withdraws it. -/
def powerRequest (s : State) (target : BitVec 2) : State :=
  retarget { s with pwr := { s.pwr with adminTarget := if target.toNat < 2 then 0 else target } }

def execMgmtPowerRequest (client : BitVec 384) (target : BitVec 2) (s : State) : Host.Outcome State Fault Refusal :=
  .next (asAdmin s client fun s => powerRequest s target)

/-! ## The debug port (R457) -/

/-- Whether the port reaches a scope: all of them in NONE, the granted ones while HELD, none
during a switch (log 32). -/
def scopeOpen (s : State) (bit : Nat) : Bool := s.cus.tenancy == .none || (s.cus.tenancy == .held && bitOf s.cus.scopes.toNat bit)

/-- Whether the port is enabled and its clock domain runs. -/
def debugUp (s : State) : Bool := s.cus.debugPort && decide (s.pwr.st.toNat < 2)

/-- An access that a scope allows gives its data; any other gives none. -/
def debugGive (s : State) (bit : Nat) (bs : List Byte) : State :=
  if debugUp s && scopeOpen s bit then cusMod s fun c => { c with debugOk := true, debugData := bs }
  else cusMod s fun c => { c with debugOk := false, debugData := [] }

/-- Halt or run the Factor. -/
def debugHalt (s : State) (halt : Bool) : State :=
  let s1 := debugGive s 3 []
  if s1.cus.debugOk then cusMod s1 fun c => { c with factorHalted := halt } else s1

def execDebugPortAccess (target : DebugTarget) (s : State) : Host.Outcome State Fault Refusal :=
  match target with
  | .waystation core addr =>
    if debugUp s && scopeOpen s 2 && decide (wsSize < addr + 4) then .fault .noSuchAddress else .next (debugGive s 2 (wsBytes s (physOf s core) addr 4))
  | .stacked pa =>
    if debugUp s && scopeOpen s 2 && decide (paLimit < pa + 4) then .fault .noSuchAddress else .next (debugGive s 2 (plainOf (smRead (settled s) pa 4)))
  | .legTrace _ => .next (freshen (debugGive s 1 (leBytes 4 (Config.debugData s.free).toNat)))
  | .factorHalt => .next (debugHalt s true)
  | .factorRun => .next (debugHalt s false)
  | .factorStep => .next (debugGive s 3 [])
  | .factorReg => .next (freshen (debugGive s 3 (leBytes 4 (Config.debugData s.free).toNat)))

end Sys2Proof.Machine
end

