-- ==== Sys2Proof/Machine/Links.lean ====
section
/-! DEFINITION. Huazan Links: frames and their groups, unowned data with retry, owned slots, training, Route formation and
the loss of a port (R304, R419–R431). -/

namespace Sys2Proof.Machine

/-! ## Unowned data (R425) -/

/-- Unacknowledged frames a sender keeps at most. -/
def goBack : Nat := 256

/-- Data that waits is sent while fewer than 256 frames are unacknowledged. -/
def pumpQN : Nat → Port → Port
  | 0, p => p
  | n + 1, p =>
    match p.sendQ with
    | [] => p
    | d :: r =>
      if goBack ≤ p.unacked.length then p
      else pumpQN n { p with sendQ := r, unacked := p.unacked ++ [(p.txSeq, d)], txSeq := p.txSeq + 1 }

def pumpQ (p : Port) : Port := pumpQN p.sendQ.length p

/-- Cut bytes into frames of 496 bytes of data. -/
def dataFrames : Nat → List Byte → List (List Byte)
  | 0, _ => []
  | n + 1, bs => if bs.isEmpty then [] else bs.take 496 :: dataFrames n (bs.drop 496)

/-- Send bytes as unowned data on a port that is UP. -/
def sendData (s : State) (p : Nat) (bs : List Byte) : State :=
  if (getPort s p).st = .up then modPort s p fun x => pumpQ { x with sendQ := x.sendQ ++ dataFrames (bs.length + 1) bs } else s

/-- Forward bytes to every child. -/
def broadcast (s : State) (bs : List Byte) : State := forEach (childPorts s) s fun s p => sendData s p bs

/-! ## Loss of a port (R408, R424, R425, R430) -/

/-- Whether a plan's convoys use a port, as sender or receiver. -/
def planUsesPort (pl : Plan) (p : Nat) : Bool :=
  (pl.itins.any fun it => it.legs.any fun l => match l.body with | .convoy c => c.net == 1 && c.way.toNat == p | _ => false) ||
    pl.links.any fun l => l.port.val == p

/-- Engagements in execution whose convoys use a port. -/
def portEngs (s : State) (p : Nat) : List Nat :=
  (List.range 64).filter fun e =>
    let g := getEng s e
    (g.st == .ready || g.st == .shadow) && (curPlan g).any fun pl => planUsesPort pl p

/-- An engagement without its port: its consignments in circuits complete with FENCED at the next circuit boundary, and it is
SUSPENDED until it is re-placed. -/
def suspendForPort (s : State) (e : Nat) : State :=
  let s1 := forEach (consWhere s fun q => q.eng.val == e && q.st == .started) s fun s x => condemn s x.1 x.2 stFenced
  modEng s1 e fun g => { g with st := .suspended, live0 := true, replacing := true, swapAt := none, nextPlan := none, nextSt := none, nextBound := none, swapWith := none }

/-- What a port forgets when its link goes. -/
def clearLink (x : Port) : Port :=
  { x with group := [], tagBits := [], prevGroup := [], phase := 0, fails := 0, naksFor := 0, naksGot := 0, nakSent := false }

/-- A port goes LOST: its state and vector 21, LOSTN flooded, and the engagements that use it. -/
def losePort (s : State) (p : Nat) : State :=
  if (getPort s p).st = .lost then s
  else
    let s1 := modPort s p fun x => { clearLink x with st := .lost, lostCnt := satAdd x.lostCnt 1, lostHeld := true, waitRetry := true }
    let s2 := fireVector s1 21
    let me := s.hzl.devnum.toNat
    let s3 := cutWaybills { s2 with hzl := { s2.hzl with seenLost := (me, p) :: s2.hzl.seenLost } } me p
    let s4 := forEach (upPorts s3) s3 fun s q => sendCtrl s q 1 (ctrlWord 6 (packNat [(p, 0, 3), (me, 3, 6)]))
    forEach (portEngs s4 p) s4 suspendForPort

/-- PORT_LOST (R430): the frame lock of a port that is UP is lost, or a lane of it squelched, for 64 beats. -/
def portLost (s : State) (p : Nat) : State := if (getPort s p).st = .up then losePort s p else s

def execPortLost (port : Fin 8) (s : State) : Host.Outcome State Fault Refusal := .next (portLost s port)

/-- A LOSTN notice is recorded and flooded once, and what it breaks is noted (R167, R422, R430). -/
def lostNotice (s : State) (p body : Nat) : State :=
  let key := (bitsOf body 3 6, bitsOf body 0 3)
  if s.hzl.seenLost.contains key then s
  else
    let s1 := cutWaybills { s with hzl := { s.hzl with seenLost := key :: s.hzl.seenLost } } key.1 key.2
    forEach ((upPorts s1).filter (· ≠ p)) s1 fun s q => sendCtrl s q 1 (ctrlWord 6 (bitsOf body 0 9))

def execLostn (port : Fin 8) (body : BitVec 60) (s : State) : Host.Outcome State Fault Refusal := .next (lostNotice s port body.toNat)

/-! ## Control words of the retry and of the keys -/

/-- The frames sent before USEQ `n` are acknowledged, where `n` is one of those outstanding or the next. -/
def dropAcked (x : Port) (n : Word) : Port :=
  if n = x.txSeq ∨ x.unacked.any fun f => f.1 == n then
    let rest := x.unacked.dropWhile fun f => f.1 != n
    pumpQ { x with unacked := rest, naksGot := if rest.length < x.unacked.length then 0 else x.naksGot }
  else x

def ackWord (s : State) (p body : Nat) : State := modPort s p fun x => dropAcked x (BitVec.ofNat 32 body)

def execAck (port : Fin 8) (body : BitVec 60) (s : State) : Host.Outcome State Fault Refusal := .next (ackWord s port body.toNat)

/-- A receiver sends ACK with the next USEQ it expects. -/
def ackSend (s : State) (p : Nat) : State :=
  if (getPort s p).st = .up then sendCtrl s p 1 (ctrlWord 3 (getPort s p).rxSeq.toNat) else s

def execAckSend (port : Fin 8) (s : State) : Host.Outcome State Fault Refusal := .next (ackSend s port)

/-- A NAK: the sender resends from its USEQ; the eighth for one USEQ makes the port LOST. -/
def nakWord (s : State) (p body : Nat) : State :=
  let n := BitVec.ofNat 32 body
  let x0 := getPort s p
  if x0.st = .up ∧ x0.unacked.any (fun f => f.1 == n) then
    let s1 := modPort s p fun x =>
      let y := dropAcked x n
      { y with resend := y.unacked, replay := satAdd y.replay y.unacked.length, naksGot := y.naksGot + 1 }
    if 8 ≤ (getPort s1 p).naksGot then losePort s1 p else s1
  else s

def execNak (port : Fin 8) (body : BitVec 60) (s : State) : Host.Outcome State Fault Refusal := .next (nakWord s port body.toNat)

/-- REKEY marks the switch to a key generation: the receiver's nonce starts again at 0 (R423, R447). -/
def rekeyWord (s : State) (p body : Nat) : State :=
  if (getPort s p).st = .up then modPort s p fun x => { x with rxGen := BitVec.ofNat 11 body, rxCtr := 0 } else s

def execRekey (port : Fin 8) (body : BitVec 60) (s : State) : Host.Outcome State Fault Refusal := .next (rekeyWord s port body.toNat)

/-! ## What frames deliver (R424–R426) -/

/-- The receive slots of an engagement's plan that hold slot `x` of port `p`. -/
def slotOwner (g : Eng) (p x : Nat) : Option PlanLink :=
  (curPlan g).bind fun pl => pl.links.find? fun l => l.port.val == p && decide (l.first ≤ x) && decide (x < l.first + l.n)

/-- The bytes of one slot, marked where the slot is bad, on their way to the Waystation: available at the start of sender beat `b` (R424, R426). -/
def landSlot (s : State) (e k b : Nat) (l : PlanLink) (x : Nat) (bs : List Byte) (bad : Bool) : State :=
  match l.dest with
  | none => s
  | some (core, addr, n) =>
    let o := 500 * (x - l.first)
    let f : Flight := { due := 8 * b, core := physOf s core, ctx := { eng := Fin.ofNat 64 e, core := core, circuit := k, leg := 0 }, cons := none
                        what := .slot addr n o (markAll bad (bs.take (min 500 (n - o)))) }
    if b ≤ s.alm.beat.toNat then landOne s f else { s with flights := s.flights ++ [f] }

/-- A circuit word that arrives over the engagement's control slot: kept for its circuit, sent on down the tree, and a live
one leaves Halt (R276, R511). -/
def wordArrives (s : State) (p e k : Nat) (w : Nat) : State :=
  let g := getEng s e
  let c := circOfWord k (circuitBeat g k) (circuitBeat g k + 2 * engPeriod g) w
  let s1 := if g.circuits.any fun x => x.k == k then s else modEng s e fun g => { g with circuits := g.circuits ++ [c] }
  let s2 := sendWord s1 e c (some p)
  if c.live then leaveHalt s2 5 else s2

/-- What an owned slot brings. A bad control slot brings no word. -/
def ownedArrives (s : State) (p : Nat) (slot : Fin 64 × Nat × Nat) (bs : List Byte) (bad : Bool) : State :=
  match slotOwner (getEng s slot.1) p slot.2.2 with
  | none => s
  | some l =>
    match l.dest with
    | some _ => landSlot s slot.1 slot.2.1 (circuitBeat (getEng s slot.1) slot.2.1 + slot.2.2 + 41 + (getPort s p).f.toNat) l slot.2.2 bs bad
    | none => if bad then s else wordArrives s p slot.1 slot.2.1 (leNat (bs.take 8))

/-- Send NAK for the USEQ expected; the eighth for one USEQ makes the port LOST. -/
def sendNak (s : State) (p : Nat) : State :=
  let s1 := modPort s p fun x => { x with nakSent := true, nakCnt := satAdd x.nakCnt 1, naksFor := x.naksFor + 1 }
  let s2 := sendCtrl s1 p 1 (ctrlWord 4 (getPort s p).rxSeq.toNat)
  if 8 ≤ (getPort s2 p).naksFor then losePort s2 p else s2

/-- What an unowned frame brings: the frame expected is accepted, a gap is NAKed once, a bad resent frame again. -/
def unownedArrives (s : State) (p : Nat) (resent : Bool) (bs : List Byte) (bad : Bool) : State :=
  let x := getPort s p
  let q : Word := BitVec.ofNat 32 (leNat (bs.take 4))
  if bad then (if x.nakSent && !resent then s else sendNak s p)
  else if q = x.rxSeq then
    modPort s p fun x => { x with rxSeq := x.rxSeq + 1, rxData := (bs.drop 4).take 496, nakSent := false, naksFor := 0 }
  else if x.nakSent ∨ 2 ^ 31 ≤ (q - x.rxSeq).toNat then s
  else sendNak s p

/-! ## Groups (R423) -/

/-- The additional data of a group: the FTYPE and CTRL fields of its frames, most significant bit first. -/
def groupAad (fs : List RxFrame) : List Byte :=
  (leBytes 34 (fs.foldl (fun n f => n * 2 ^ 68 + f.ctrl.toNat + f.ftype.toNat * 2 ^ 64) 0)).reverse

/-- The tag that the quarters of the next group carry, most significant first. -/
def groupTag (ts : List Word) : BitVec 128 := BitVec.ofNat 128 (ts.foldl (fun n t => n * 2 ^ 32 + t.toNat) 0)

/-- Open a group: its plaintext if its tag verifies. -/
def openGroup (x : Port) (fs : List RxFrame) (tag : BitVec 128) : Option (List Byte) :=
  Config.gcmOpen (Config.linkKey x.secret x.prevGen) (BitVec.ofNat 96 x.prevCtr) (groupAad fs) (fs.flatMap RxFrame.payload) tag

/-- What one frame of a checked group delivers: `plain` is none where the tag failed. -/
def frameDelivers (p : Nat) (plain : Option (List Byte)) (s : State) (f : RxFrame × Nat) : State :=
  let bs := ((plain.getD []).drop (500 * f.2)).take 500
  let bad := f.1.bad || plain.isNone
  let full := if bs.length = 500 then bs else List.replicate 500 0
  match f.1.ftype.toNat, f.1.slot with
  | 1, some x => ownedArrives s p x full bad
  | 2, _ => unownedArrives s p false full bad
  | 3, _ => unownedArrives s p true full bad
  | _, _ => s

/-- Four tag failures within one epoch make the port LOST (R424). -/
def noteTag (s : State) (p : Nat) (ok : Bool) : State :=
  if ok then s
  else
    let s1 := modPort s p fun x => { x with tagFail := satAdd x.tagFail 1, tagFailEpoch := x.tagFailEpoch + 1 }
    if 4 ≤ (getPort s1 p).tagFailEpoch then losePort s1 p else s1

/-- The fourth frame of a group has arrived: the group before it is checked and delivered, and this one waits for its tag. -/
def closeGroup (s : State) (p : Nat) : State :=
  let x := getPort s p
  let s1 := modPort s p fun y => { y with prevGroup := y.group, prevGen := y.rxGen, prevCtr := y.rxCtr, rxCtr := y.rxCtr + 1, group := [], tagBits := [] }
  if x.prevGroup.isEmpty then s1
  else
    let plain := openGroup x x.prevGroup (groupTag x.tagBits)
    noteTag (forEach x.prevGroup.zipIdx s1 (frameDelivers p plain)) p plain.isSome

/-! ## Frames (R420, R424) -/

/-- Symbol errors a codeword corrects. -/
def symLimit : Nat := 7

/-- Count an uncorrectable frame; the sixteenth within 1,024 beats makes the port LOST (R430). -/
def countUe (s : State) (p : Nat) : State :=
  let now := s.alm.beat
  let s1 := modPort s p fun x =>
    { x with ue := satAdd x.ue 1, ueBeats := now :: x.ueBeats.filter fun b => decide (now.toNat < b.toNat + 1024) }
  if 16 ≤ (getPort s1 p).ueBeats.length then losePort s1 p else s1

/-- A beat frame is decoded and joins its group. -/
def takeFrame (s : State) (p : Nat) (ftype : BitVec 4) (f : Frame) (slot : Option (Fin 64 × Nat × Nat)) : State :=
  if (getPort s p).st = .up then
    let bad := decide (symLimit < f.symErrs)
    let s1 := if bad then countUe s p else s
    if (getPort s1 p).st = .up then
      let r : RxFrame := { ftype := ftype, ctrl := f.ctrl, payload := (f.payload ++ List.replicate 500 0).take 500, bad := bad, slot := slot }
      let s2 := modPort s1 p fun x => { x with group := x.group ++ [r], tagBits := x.tagBits ++ [f.tagp] }
      if (getPort s2 p).group.length = 4 then closeGroup s2 p else s2
    else s1
  else s

/-- OWNED_SLOT_FRAME (R426): slot `x` of a circuit arrives and is decoded F + 5 beats after it was sent. A LOST port's slots
land poison; before alignment owned frames are ignored (R430, R432). -/
def ownedFrame (s : State) (p e k x : Nat) (f : Frame) : State :=
  let slot := (Fin.ofNat 64 e, k, x)
  if (getPort s p).st = .lost then ownedArrives s p slot (List.replicate 500 0) true
  else if (getPort s p).st = .up then
    let s1 := if (slotOwner (getEng s e) p x).isSome then advanceTo s (circuitBeat (getEng s e) k + x + (getPort s p).d.toNat) else s
    takeFrame s1 p 1 f (if s1.alm.aligned then some slot else none)
  else s

def execOwnedSlotFrame (port : Fin 8) (eng : Fin 64) (circuit slot : Nat) (f : Frame) (s : State) : Host.Outcome State Fault Refusal :=
  .next (ownedFrame s port eng circuit slot f)

def unownedDataFrame (s : State) (p : Nat) (f : Frame) : State := takeFrame s p 2 f none

def execUnownedDataFrame (port : Fin 8) (f : Frame) (s : State) : Host.Outcome State Fault Refusal := .next (unownedDataFrame s port f)

def unownedReplayFrame (s : State) (p : Nat) (f : Frame) : State := takeFrame s p 3 f none

def execUnownedReplayFrame (port : Fin 8) (f : Frame) (s : State) : Host.Outcome State Fault Refusal := .next (unownedReplayFrame s port f)

def idleFrame (s : State) (p : Nat) (f : Frame) : State := takeFrame s p 0 f none

def execIdleFrame (port : Fin 8) (f : Frame) (s : State) : Host.Outcome State Fault Refusal := .next (idleFrame s port f)

/-! ## LINK_CONVOY (R304) -/

/-- Cut a payload into slots of 500 bytes. -/
def slotPieces : Nat → List MByte → List (List MByte)
  | 0, _ => []
  | n + 1, bs => if bs.isEmpty then [] else bs.take 500 :: slotPieces n (bs.drop 500)

/-- The payload of a convoy crosses the junction to its port's link slots, 500 bytes a beat from the third beat on (R303, R304, log 136); a port
that is not UP carries idle frames in them (R430). -/
def linkRun (s : State) (ctx : LegCtx) (l : ConvoyLeg) : State :=
  convoyLeg s ctx l 1 fun s p =>
    forEach (slotPieces l.nslot (wsGather s p l.desc)).zipIdx s fun s x =>
      launch s ctx (8 * (s.alm.beat.toNat + 3 + x.2)) (.send (Fin.ofNat 8 l.way.toNat) x.1)

def execLinkConvoy (ctx : LegCtx) (leg : ConvoyLeg) (s : State) : Host.Outcome State Fault Refusal := .next (linkRun s ctx leg)

/-! ## Training (R427, R431) -/

/-- The phase after phase `n`: stored coefficients skip phases 2 and 3. -/
def nextPhase (x : Port) (n : Nat) : Nat := if n = 1 ∧ x.coeffs then 4 else n + 1

/-- Flight time from 16 round trips less 10 beats of pipeline, halved and rounded up. -/
def flightTime (roundTrip : Nat) : Nat := cdiv (roundTrip - 10) 2

/-- A phase fails: training restarts, and after three failures the port waits for its next try. -/
def trainFails (x : Port) : Port :=
  if x.fails + 1 < 3 then { x with st := .training, phase := 1, fails := x.fails + 1, coeffs := false }
  else { x with st := if x.lostHeld then .lost else .down, phase := 0, fails := 0, waitRetry := true, coeffs := false }

/-- Phase 7 passes: a fresh link key, and the port is UP. -/
def trainedPort (secret : Nat) (now : Beat) (x : Port) : Port :=
  { clearLink x with
    st := .up, secret := secret, gen := 0, rxGen := 0, txFrom := now, rxCtr := 0, prevGen := 0, prevCtr := 0, coeffs := true
    lostHeld := false, waitRetry := false, ueBeats := [], tagFailEpoch := 0, txSeq := 0, sendQ := [], unacked := [], resend := [], rxSeq := 0 }

/-- A phase passes. -/
def trainPasses (s : State) (p phase peer peerPort : Nat) (peerVersion : Word) (roundTrip : Nat) : State :=
  if phase = 7 then freshen (modPort s p (trainedPort s.free s.alm.beat))
  else if phase = 6 then
    let f := flightTime roundTrip
    if 8 < f then modPort s p trainFails
    else modPort s p fun x =>
      { x with phase := 7, peer := BitVec.ofNat 6 peer, peerPort := BitVec.ofNat 3 peerPort, peerVer := peerVersion, f := BitVec.ofNat 4 f, d := BitVec.ofNat 5 (f + 5) }
  else modPort s p fun x => { x with st := .training, phase := nextPhase x phase }

/-- Whether a port may take a phase now: the ports are released by the lock of the PLL (R497), and phase 1 starts a DOWN or
SLEEP port that does not wait for its next try. -/
def canTrain (s : State) (p phase : Nat) : Bool :=
  let x := getPort s p
  s.alm.pllLock && !inReset s && (decide (s.pwr.st.toNat < 2) || s.pwr.exiting) &&
    (if x.st = .training then decide (phase = x.phase)
     else decide (phase = 1) && (x.st == .down || x.st == .sleep && x.laneMv == 900) && !x.waitRetry)

/-- PORT_TRAIN: one training phase ends; a change of the port's state fires vector 21. -/
def portTrain (s : State) (p phase : Nat) (ok : Bool) (peer peerPort : Nat) (peerVersion : Word) (roundTrip : Nat) : State :=
  if canTrain s p phase then
    let s1 := if (getPort s p).st = .down then modPort s p fun x => { x with coeffs := false } else s
    let s2 := if ok then trainPasses s1 p phase peer peerPort peerVersion roundTrip else modPort s1 p trainFails
    if (getPort s2 p).st = (getPort s p).st then s2 else fireVector s2 21
  else s

def execPortTrain (port : Fin 8) (phase : Nat) (ok : Bool) (peer : Fin 64) (peerPort : Fin 8) (peerVersion : Word) (roundTrip : Nat) (s : State) :
    Host.Outcome State Fault Refusal := .next (portTrain s port phase ok peer peerPort peerVersion roundTrip)

/-- PORT_RETRY: a DOWN or LOST port starts training again. -/
def portRetry (s : State) (p : Nat) : State :=
  let x := getPort s p
  if x.waitRetry && (x.st == .down || x.st == .lost) && s.alm.pllLock then
    fireVector (modPort s p fun x => { x with st := .training, phase := 1, fails := 0, waitRetry := false, coeffs := false }) 21
  else s

def execPortRetry (port : Fin 8) (s : State) : Host.Outcome State Fault Refusal := .next (portRetry s port)

/-- WAKE_PATTERN_DETECT (R428, R516): activity on a port in SLEEP wakes the device while HZL_WAKE is 1; in Halt a port
interrupts the Factor. -/
def wakePattern (s : State) (p : Nat) : State :=
  if s.pwr.st = 1 then wake s 2 p
  else if s.pwr.hzlWake && (s.pwr.st == 3 || (getPort s p).st == .sleep) then wake s 2 p
  else s

def execWakePatternDetect (port : Fin 8) (s : State) : Host.Outcome State Fault Refusal := .next (wakePattern s port)

/-! ## Route formation (R18, R285, R429) -/

/-- Whether a version has the major and minor version of the Oluolawell that runs here (R18). -/
def sameVersion (s : State) (v : Word) : Bool := fieldOf v 16 16 == fieldOf s.fac.ver 16 16

/-- Whether the Route is formed (R429): distinct numbers, every device reachable, no two devices more than 4 hops apart, no tree link with F
above 4 (R285), and every device and every peer of this one with its own major and minor version (R18). -/
def routeOk (s : State) (ns : List Node) : Bool :=
  let ds := ns.map fun n => n.1.val
  let all := List.range s.hzl.ndev.toNat
  ds.Nodup && decide (1 ≤ s.hzl.ndev.toNat) && (all.all fun d => (distances ns).any fun x => x.1 == d) && (ns.all fun n => decide (n.1.val < s.hzl.ndev.toNat)) &&
    (ns.all fun n => sameVersion s n.2.1) && ((nodeLinks ns s.hzl.devnum.toNat).all fun l => sameVersion s (getPort s l.1).peerVer) &&
    (all.all fun d => (parentLink ns d).all fun l => decide (l.2.2 ≤ 4)) && (all.all fun a => all.all fun b => decide (treeHops ns a b ≤ 4))

/-- The device takes its place in the tree; any device but device 0 waits for ALIGN (R266, R269). -/
def joinRoute (s : State) (ns : List Node) : State :=
  let s1 := placeInTree s ns
  let root := s1.hzl.devnum == 0
  { s1 with
    hzl := { s1.hzl with formed := true, root := root, seenLost := [] }
    alm := { s1.alm with devnum := s1.hzl.devnum, master := root, aligned := root || (s1.alm.aligned && !s1.alm.master) } }

/-- The device runs alone, as its own beat master. -/
def runAlone (s : State) : State :=
  let s1 := forEach (List.range 8) s fun s p => modPort s p fun x => { x with tree := false, upstream := false }
  { s1 with
    hzl := { s1.hzl with formed := false, root := false, parent := 0, children := 0, nodes := [], seenLost := [] }
    alm := { s1.alm with devnum := s1.hzl.devnum, master := true, aligned := true } }

/-- ROUTE_FORMATION, once no port is in training. A device that the nodes do not name, or whose Route fails, runs alone. -/
def formRoute (s : State) (ns : List Node) : State :=
  if s.alm.pllLock && !inReset s && s.hzl.ports.all fun p => p.st != .training then
    if routeOk s ns && ns.any fun n => n.1.val == s.hzl.devnum.toNat then joinRoute s ns else runAlone s
  else s

def execRouteFormation (nodes : List (Fin 64 × Word × List (Fin 8 × Fin 64 × Nat))) (s : State) : Host.Outcome State Fault Refusal :=
  .next (formRoute s nodes)

end Sys2Proof.Machine
end

