-- ==== Sys2Proof/Machine/Power.lean ====
section
/-! DEFINITION. Power states, regulators, supplies and the Toll (R510–R539). -/

namespace Sys2Proof.Machine

def pwrMod (s : State) (f : Pwr → Pwr) : State := { s with pwr := f s.pwr }

/-! ## Entry conditions (R514) -/

/-- An engagement with a circuit of LIVE 1 committed or running. -/
def liveEng (s : State) : Option Nat := (List.range 64).find? fun e => (getEng s e).circuits.any fun c => c.live && !circuitOver s c

/-- An engagement in a state among those listed. -/
def engIn (s : State) (l : List EngState) : Option Nat := (List.range 64).find? fun e => l.contains (getEng s e).st

/-- The engagement of a consignment that is in a queue. -/
def queuedEng (s : State) : Option Nat :=
  match consWhere s fun q => decide (q.st ≠ .ended) with
  | (c, q) :: _ => (getQ s c q).map fun e => e.eng.val
  | [] => none

/-- An engagement that spans devices and is in states 2–5. -/
def spanEng (s : State) : Option Nat :=
  (List.range 64).find? fun e => (getEng s e).route && [EngState.loading, .ready, .shadow, .suspended].contains (getEng s e).st

/-- The engagement that meets the dispatcher's condition for a target state. -/
def refusal1 (s : State) (target : Nat) : Option Nat :=
  if target = 1 then liveEng s
  else if target = 2 then (queuedEng s).orElse fun _ => (engIn s [.placing, .loading]).orElse fun _ => spanEng s
  else engIn s [.placing, .loading, .ready, .shadow, .suspended]

/-- Whether a unit, by its code, refuses a target state. -/
def unitRefuses (s : State) (target unit : Nat) : Bool :=
  match unit with
  | 1 => (refusal1 s target).isSome
  | 2 => s.decks.any fun d => d.2.prog.isSome || deckActs s d.2
  | 3 => s.bst.busy || s.bst.susp
  | 4 => s.cus.tenancy == .switching || (target == 3 && s.cus.tenancy != .none)
  | 5 => decide (2 ≤ target) && !s.prt.writes.isEmpty || (target == 3 && s.gran.any fun g => g.2.flag != granNone)
  | 6 => decide (2 ≤ target) && s.mbx.any fun p => p.pi != p.wmark || !p.recs.isEmpty
  | 7 => decide (2 ≤ target) && ((s.hzl.ports.any fun p => p.st == .training) || (s.alm.master && s.hzl.formed && Config.otherDeviceAwake s.free))
  | 8 => target == 3 && !s.pcie.d3hot
  | _ => false

/-- The first unit, in code order, that refuses. -/
def refusingUnit (s : State) (target : Nat) : Option Nat := [1, 2, 3, 4, 5, 6, 7, 8].find? (unitRefuses s target)

/-- WAITS completes with the state unchanged. -/
def refuseEntry (s : State) (unit : Nat) : State :=
  let e := if unit = 1 then refusal1 s s.pwr.target.toNat else none
  pwrMod s fun p =>
    { p with refused := satAdd p.refused 1, refUnit := BitVec.ofNat 4 unit, refTarget := p.target,
             refEng := BitVec.ofNat 6 (e.getD 0), refEngValid := e.isSome }

/-- The entry sequence begins; FACTOR_UP reads 0 from the start of an entry to Camp (R517). -/
def beginEntry (s : State) : State :=
  let s1 := pwrMod s fun p => { p with entering := true }
  { s1 with fac := { s1.fac with atWaits := true, up := s1.fac.up && decide (s.pwr.target.toNat < 2) } }

/-- WAITS (R514): the Factor asks for the state TARGET names. The free index advances for unit 7's view of other devices. -/
def waitsNow (s : State) : State :=
  if s.pwr.target = s.pwr.st then { s with fac := { s.fac with atWaits := true } }
  else if s.pwr.target = 0 then pwrMod s fun p => { p with st := 0 }
  else match refusingUnit s s.pwr.target.toNat with
    | some u => freshen (refuseEntry s u)
    | none => freshen (beginEntry s)

/-- Whether the Factor can execute WAITS. -/
def factorFree (s : State) : Bool := s.fac.up && !s.fac.atWaits && !s.pwr.entering && !s.pwr.exiting && decide (s.pwr.st.toNat < 2)

def waits (s : State) : State := if factorFree s then waitsNow s else s

def execWaits (s : State) : Host.Outcome State Fault Refusal := .next (waits s)

/-! ## Entry and exit (R510–R513, R516–R517) -/

/-- A regulator switched off. -/
def pumpOff (p : Pump) : Pump := { p with on := false }
def coreOff (c : Core) : Core := { c with ivrOn := false, varr := 0, pumps := c.pumps.map pumpOff }

/-- A port that is UP goes to SLEEP with its coefficients stored (R427, R428). -/
def sleepPort (s : State) (p : Nat) : State :=
  if (getPort s p).st = .up then fireVector (modPort s p fun x => { x with st := .sleep, coeffs := true }) 21 else s

/-- What is off, and what is kept, in Camp (R510, R512, R519): a programmed deck will need calibration, and a device that is
not the beat master an ALIGN. -/
def enterCamp (s : State) : State :=
  let s1 := forEach (List.range 8) s sleepPort
  let s2 := mapDecks s1 fun _ d => if d.jDone then { d with uncal := true } else d
  { s2 with
    cores := s2.cores.map coreOff
    alm := { s2.alm with aligned := s2.alm.aligned && s2.alm.master }
    cus := { s2.cus with mgmtSessions := [] }
    smc := { s2.smc with ready := false }
    pwr := { s2.pwr with upAtEntry := BitVec.ofNat 8 (((upPorts s).map fun p => 2 ^ p).sum) } }

/-- In Deep Camp all but the always-on and VSB domains are off, and Waystations and stacked memory are lost. -/
def enterDeepCamp (s : State) : State :=
  let s1 := enterCamp (smClear (wsClear s))
  { s1 with fac := { s1.fac with running := false, up := false }, alm := { s1.alm with pllLock := false } }

/-- The entry sequence completes: in Halt and Camp the GPIO outputs keep the levels that the new state gives them, in Deep Camp they are high
impedance (R562). -/
def entryComplete (s : State) : State :=
  if s.pwr.entering then
    let s1 := if s.pwr.target = 2 then enterCamp s else if s.pwr.target = 3 then enterDeepCamp s else s
    let s2 := pwrMod s1 fun p => { p with entering := false, st := p.target, epochsPassed := 0 }
    { s2 with gpio := { on := s2.gpio.on && s.pwr.target != 3, held := gpioLevels s2 s.pwr.target } }
  else s

def execPowerEntryComplete (s : State) : Host.Outcome State Fault Refusal := .next (entryComplete s)

/-- The Factor writes TARGET 0: in Halt the device returns to Trek (R511). -/
def targetTrek (s : State) : State :=
  if s.fac.running && decide (s.pwr.st.toNat < 2) then leaveHalt (pwrMod s fun p => { p with target := 0 }) 6 else s

def execTargetTrek (s : State) : Host.Outcome State Fault Refusal := .next (targetTrek s)

def execHostPcieWake (s : State) : Host.Outcome State Fault Refusal := .next (wake s 1 0)

/-- The EPOCHS-th epoch boundary after entry (R516). -/
def epochTimer (s : State) : State := if s.pwr.epochs ≠ 0 ∧ s.pwr.epochs.toNat ≤ s.pwr.epochsPassed then wake s 4 0 else s

def execEpochTimerWake (s : State) : Host.Outcome State Fault Refusal := .next (epochTimer s)

/-- A deck the exit from Camp waits for: programmed, not sealed, on a core that serves, and not yet calibrated (R122). -/
def awaitsCal (s : State) (x : Nat × Deck) : Bool :=
  deckDone x.2 && !deckSealed x.2 && x.2.uncal && match logicalOfPhys s x.1 with | some n => !isFenced s (n / 768) | none => false

/-- Whether every port that slept has trained or failed, and every deck is calibrated (R517). -/
def exitDone (s : State) : Bool :=
  ((setBits s.pwr.upAtEntry.toNat 8).all fun p => (getPort s p).st != .sleep && (getPort s p).st != .training) &&
    !s.decks.any fun x => awaitsCal s x

/-- The exit from Camp completes: the time of Camp counts for no Patrol lap (R340), the device is in Trek, the Factor takes messages, and the request for Camp is served. -/
def campExit (s : State) : State :=
  if decide (s.pwr.st = 2) && s.pwr.exiting && exitDone s then
    let s0 := forEach [0, 1] s fun s i => modStack s i fun k => { k with lapEpoch := k.lapEpoch + s.pwr.epochsPassed }
    let s1 := retarget (pwrMod s0 fun p => { p with st := 0, exiting := false, adminTarget := 0 })
    let s2 := { s1 with fac := { s1.fac with up := s1.fac.running && !s1.fac.resumePending && !inReset s1, atWaits := false } }
    forEach (List.range 17) s2 flushCompletions
  else s

def execCampExit (s : State) : Host.Outcome State Fault Refusal := .next (campExit s)

/-- 1 ms with no consignment queued: Oluolawell writes TARGET 1 and executes WAITS, unless a hint holds Trek or Camp is
asked for (R515). -/
def haltIdle (s : State) : State :=
  if factorFree s && decide (s.pwr.st = 0) && decide (s.pwr.hint ≠ 2) && decide (chooseTarget s = 0) && (queuedEng s).isNone then
    waitsNow (pwrMod s fun p => { p with target := 1 })
  else s

def execHaltIdleTimer (s : State) : Host.Outcome State Fault Refusal := .next (haltIdle s)

/-- The hint in force runs out (R515). -/
def hintExpiry (s : State) : State := retarget (pwrMod s fun p => { p with hint := 0, hintMs := 0 })

def execPowerHintExpiry (s : State) : Host.Outcome State Fault Refusal := .next (hintExpiry s)

/-! ## Supplies (R523–R525) -/

/-- A rail's monitor reading. -/
def setRail (s : State) (r : Rail) (ok : Bool) : State :=
  match r with
  | .vcore => pwrMod s fun p => { p with vcoreOk := ok }
  | .vaux => pwrMod s fun p => { p with vauxOk := ok }
  | .vsb => pwrMod s fun p => { p with vsbOk := ok }

/-- VCORE or VAUX below its warning level: the shut-down sequence runs to its last step, power-on reset (R524, R525). VSB
has no warning level. -/
def supplyWarning (s : State) (r : Rail) : State := if r = .vsb then s else beginReset (setRail s r false) 1 true false false

def execSupplyWarning (rail : Rail) (s : State) : Host.Outcome State Fault Refusal := .next (supplyWarning s rail)
def execSupplyValid (rail : Rail) (s : State) : Host.Outcome State Fault Refusal := .next (setRail s rail true)

/-! ## Regulators (R520–R522, R536) -/

/-- Record a lockout. -/
def noteLockout (s : State) (phys string : Nat) : State :=
  pwrMod s fun p => { p with lockPhys := BitVec.ofNat 6 phys, lockString := BitVec.ofNat 4 string, lockCount := satAdd p.lockCount 1 }

/-- A lockout on a spare removes it. -/
def dropSpare (s : State) (phys : Nat) : State :=
  if s.ldg.spares.contains phys then saveCoreMap { s with ldg := { s.ldg with spares := s.ldg.spares.erase phys } } else s

/-- The IVR of a core is off until the next cold reset; programming on the core stops as for a reset (R175). -/
def lockIvr (s : State) (phys : Nat) : State :=
  let s1 := modCore s phys fun c => { c with ivrOn := false, ivrLock := true, varr := 0 }
  dropSpare (noteLockout (mapDecks s1 fun k d => if k / 768 = phys then stopDeck false s.alm.beat.toNat d else d) phys 15) phys

/-- A string's pump is off until the next cold reset, and its loop in progress stops. -/
def lockPump (s : State) (phys string : Nat) : State :=
  let s1 := modCore s phys fun c => { c with pumps := vmod c.pumps string fun p => { p with on := false, lockout := true } }
  dropSpare (noteLockout (mapDecks s1 fun k d => if k / 64 = phys * 12 + string then stopDeck false s.alm.beat.toNat d else d) phys string) phys

/-- A trip in operation locks the regulator out at once; the fence of its core is CORE_FENCE (R398). -/
def regulatorTrip (s : State) (phys : Nat) (pump : Option Nat) : State :=
  match pump with
  | some st => if (vget {} (getCore s phys).pumps st).lockout then s else lockPump s phys st
  | none => if (getCore s phys).ivrLock then s else lockIvr s phys

def execRegulatorLockout (phys : Fin 34) (pump : Option (Fin 12)) (s : State) : Host.Outcome State Fault Refusal :=
  .next (regulatorTrip s phys (pump.map Fin.val))

/-- Retries after a short (R520). -/
def maxRetries : Nat := 3

/-- Whether regulators may start: option loading has ended, and the device is not asleep but for the exit from Camp. -/
def regulatorsRun (s : State) : Bool := !inReset s && (decide (s.pwr.st.toNat < 2) || s.pwr.exiting)

/-- IVR_START: the soft start to 1.20 V, or a short; after three retries the IVR is locked out. A spare's stays off until
its takeover (R519). -/
def ivrStart (s : State) (phys : Nat) (shorted : Bool) : State :=
  let c := getCore s phys
  if !regulatorsRun s || c.ivrOn || c.ivrLock || s.ldg.spares.contains phys then s
  else if !shorted then modCore s phys fun c => { c with ivrOn := true, ivrRetries := 0, varr := 1200 }
  else if c.ivrRetries < maxRetries then modCore s phys fun c => { c with ivrRetries := c.ivrRetries + 1 }
  else lockIvr s phys

def execIvrStart (phys : Fin 34) (shorted : Bool) (s : State) : Host.Outcome State Fault Refusal := .next (ivrStart s phys shorted)

/-- PUMP_START: the soft start to standby level, or a short. -/
def pumpStart (s : State) (phys string : Nat) (shorted : Bool) : State :=
  let p := vget {} (getCore s phys).pumps string
  let put (f : Pump → Pump) : State := modCore s phys fun c => { c with pumps := vmod c.pumps string f }
  if !regulatorsRun s || p.on || p.lockout then s
  else if !shorted then put fun p => { p with on := true, retries := 0 }
  else if p.retries < maxRetries then put fun p => { p with retries := p.retries + 1 }
  else lockPump s phys string

def execPumpStart (phys : Fin 34) (string : Fin 12) (shorted : Bool) (s : State) : Host.Outcome State Fault Refusal :=
  .next (pumpStart s phys string shorted)

/-- A core in standby: no programmed unsealed deck, no reservation, no programming work (R522). -/
def inStandby (s : State) (phys : Nat) : Bool :=
  !(s.decks.any fun x => x.1 / 768 == phys && (deckBusy x.2 || deckDone x.2 && !deckSealed x.2)) &&
    (getCore s phys).pageOwner.isEmpty && (getCore s phys).itins.isEmpty &&
    !(s.engs.any fun g => g.st != .free && g.st != .resident && g.decks.any fun lg => physOf s (lg / 768) == phys)

/-- VARR_STEP: to 1.20 V, or to 0.90 V for a core in standby. The step is whole in one command (R522). -/
def varrStep (s : State) (phys : Nat) (up : Bool) : State :=
  let c := getCore s phys
  if !c.ivrOn then s
  else if up then (if c.varr = 900 then modCore s phys fun c => { c with varr := 1200 } else s)
  else if c.varr = 1200 ∧ inStandby s phys then modCore s phys fun c => { c with varr := 900 }
  else s

def execVarrStep (phys : Fin 34) (up : Bool) (s : State) : Host.Outcome State Fault Refusal := .next (varrStep s phys up)

/-- LANE_SUPPLY_STEP: to 0.70 V at SLEEP entry, back to 0.90 V at the exit; a step not begun when the port is LOST is
skipped (R431, R522). -/
def laneStep (s : State) (p : Nat) (sleep : Bool) : State :=
  let x := getPort s p
  if x.st = .lost then s
  else if sleep then (if x.st = .sleep ∧ x.laneMv = 900 ∧ s.pwr.exiting = false then modPort s p fun x => { x with laneMv := 700 } else s)
  else if x.laneMv = 700 ∧ (s.pwr.exiting ∨ x.st ≠ .sleep) then modPort s p fun x => { x with laneMv := 900 }
  else s

def execLaneSupplyStep (port : Fin 8) (sleep : Bool) (s : State) : Host.Outcome State Fault Refusal := .next (laneStep s port sleep)

/-! ## The Toll (R528–R530) -/

/-- A sample of the input power joins the running windows, which begin when option loading ends. -/
def tollSample (s : State) (q : Nat) : State :=
  if inReset s || s.pwr.st == 3 then s
  else { s with tol := { s.tol with sum1 := s.tol.sum1 + q, n1 := s.tol.n1 + 1, sum100 := s.tol.sum100 + q, n100 := s.tol.n100 + 1 } }

def execTollSample (quarterWatts : Nat) (s : State) : Host.Outcome State Fault Refusal := .next (tollSample s quarterWatts)

/-- The average of a window, as its field holds it. -/
def windowAvg (sum n : Nat) : BitVec 12 := BitVec.ofNat 12 (min 4095 (sum / n))

/-- A window ends: its average stands in TOL_PWR; a 100 ms average above LIMIT sets OVER and fires vector 19. A window with
no sample publishes nothing. -/
def windowEnd (s : State) (hundred : Bool) : State :=
  if hundred then
    if s.tol.n100 = 0 then s
    else
      let a := windowAvg s.tol.sum100 s.tol.n100
      let above := decide (4 * s.tol.limit.toNat * s.tol.n100 < s.tol.sum100)
      let s1 := { s with tol := { s.tol with avg100 := a, sum100 := 0, n100 := 0, overLimit := s.tol.overLimit || above } }
      if above then fireVector s1 19 else s1
  else if s.tol.n1 = 0 then s
  else { s with tol := { s.tol with avg1 := windowAvg s.tol.sum1 s.tol.n1, sum1 := 0, n1 := 0 } }

def execTollWindowEnd (hundredMs : Bool) (s : State) : Host.Outcome State Fault Refusal := .next (windowEnd s hundredMs)

end Sys2Proof.Machine
end

