-- ==== Sys2Proof/Machine/Waybill.lean ====
section
/-! DEFINITION. Waybills: the Lead's checks and broadcast, segments, layer records, quantisation, target images, and the
reports (R157–R168, R193–R196, R255). -/

namespace Sys2Proof.Machine

/-! ## Quantisation (R193, R194, R196) -/

/-- A layer's integer weights in index order, its E4M3 output scales and its second-level scale. -/
structure QLayer where
  q : Array Int
  sOut : Array Byte
  sLayer : Word

/-- The largest weight of a format. -/
def wMax (f : WFmt) : Nat := match f with | .w8 => 127 | .w4 => 7 | _ => 1

/-- Absolute value of an FP32 word. -/
def wabs (x : Word) : Word := x &&& 0x7FFFFFFF

/-- The range statistic of an output's weights: their largest magnitude, or 1.5 × their mean magnitude for WT. -/
def rangeOf (f : WFmt) (k : Nat) (ws : List Word) : Word :=
  match f with
  | .wt => (fdiv (fmul (fq 3 2) (ws.foldl (fun a w => (fadd a (wabs w)).1) 0)).1 (fint k)).1
  | _ => ws.foldl (fun m w => if (fp m).lt (fp (wabs w)) then wabs w else m) 0

/-- The weights of output `o`. -/
def rowOf (w : Array Word) (k o : Nat) : List Word := (List.range k).map fun i => w.getD (o * k + i) 0

/-- quantise_layer of R193 on decoded weights. -/
def quantiseLayer (f : WFmt) (n k : Nat) (w : Array Word) : QLayer :=
  let m := wMax f
  let r := (List.range n).map fun o => rangeOf f k (rowOf w k o)
  let rmax := r.foldl (fun m x => if (fp m).lt (fp x) then x else m) 0
  let sL := (fdiv rmax (fint (m * 448 : Nat))).1
  if (fp sL).isZero then { q := Array.replicate (n * k) 0, sOut := Array.replicate n 0, sLayer := fint 1 }
  else
    let sOut := r.map fun x => e4m3Up (fdiv x (fmul (fint m) sL).1).1
    let q := (sOut.zipIdx).flatMap fun (x : Byte × Nat) =>
      let sc := (fmul (toFp (fdec fmtE4m3 x.1.toNat)).1 sL).1
      (rowOf w k x.2).map fun v => if (fp sc).isZero then 0 else clampI (-(m : Int)) m (fp (fdiv v sc).1).rne
    { q := q.toArray, sOut := sOut.toArray, sLayer := sL }

/-- A pre-quantised weight: none for a forbidden code (R161). -/
def codeWeight (f : WFmt) (c : Nat) : Option Int := if c = 2 ^ (codeBits f - 1) then none else some (signed (codeBits f) c)

/-- The code at index `i` of a packed array. -/
def codeAt (f : WFmt) (d : Array Byte) (i : Nat) : Nat :=
  bitsOf (d.getD (i * codeBits f / 8) 0).toNat (i * codeBits f % 8) (codeBits f)

/-- An output scale of a record: non-negative and not NaN (R194); the spec does not say whether −0 (0x80) is non-negative, and the model refuses it
(log 132). -/
def scaleOk (b : Byte) : Bool := decide (b.toNat < 0x7F)

/-- A second-level scale of a record: positive, finite and normal (R194). -/
def sLayerOk (w : Word) : Bool := decide (0x00800000 ≤ w.toNat) && decide (w.toNat < 0x7F800000)

/-- The layer of a record of source 0x00. -/
def preQuantised (f : WFmt) (n k : Nat) (data scales : Array Byte) (sLayer : Word) : Option QLayer :=
  let qs := (List.range (n * k)).map fun i => codeWeight f (codeAt f data i)
  if qs.all Option.isSome && sLayerOk sLayer && (List.range n).all fun o => scaleOk (scales.getD o 0xFF) then
    some { q := (qs.map fun x => x.getD 0).toArray, sOut := scales, sLayer := sLayer }
  else none

/-- The layer of a record whose elements are E4M3 bytes or BF16 pairs; none where an element is NaN or infinite. -/
def quantisedFrom (bf16 : Bool) (f : WFmt) (n k : Nat) (raw : Array Byte) : Option QLayer :=
  let elems := (List.range (n * k)).map fun i =>
    if bf16 then fdec fmtBf16 ((raw.getD (2 * i) 0).toNat + 256 * (raw.getD (2 * i + 1) 0).toNat) else fdec fmtE4m3 (raw.getD i 0).toNat
  if elems.all FVal.isFin then some (quantiseLayer f n k (elems.map fun v => (toFp v).1).toArray) else none

/-! ## Packed sources (R255) -/

/-- The region an image describes; none where its preamble is not that of R241 and R255. -/
def imageRegion (bs : List Byte) (fmt : BitVec 4) (nblk : Nat) : Option Region :=
  let slot := leAt bs 33 1
  let r : Region := { eng := 0, fmt := fmt, slot := BitVec.ofNat 2 slot, kv := false, prot := false, base := 0, nblk := nblk }
  if leAt bs 32 1 = fmt.toNat ∧ 1 ≤ slot ∧ slot ≤ 3 ∧ leAt bs 36 4 = nblk ∧ leAt bs 40 8 = ovfOff r ∧ zeroAt bs 48 16 ∧ leAt bs 35 1 = 0 then some r else none

/-- Blocks of an image that are in overflow form. -/
def imageOvf (bs : List Byte) (r : Region) : List Nat := (List.range r.nblk).filter fun j => bitOf (leAt bs (hdrOff j + 2) 1) 0

/-- Bytes of an image with a compact overflow area. -/
def imageLen (bs : List Byte) (r : Region) : Nat := ovfOff r + (imageOvf bs r).length * ovfEntry r

/-- Expand block `j` of an image. -/
def imageBlock (bs : List Byte) (r : Region) (j : Nat) : Expanded :=
  let n := slotBytes r.fmt r.slot
  let h := (bs.drop (hdrOff j)).take 8
  let body := (bs.drop (bodyOff r j)).take n
  let rest := if bitOf (leAt h 2 1) 0 then (bs.drop (ovfOff r + leAt h 4 4 * 32)).take (rawBytes r.fmt - n) else List.replicate (rawBytes r.fmt - n) 0
  expandBlock r.fmt r.slot (markAll false (bs.take 32)) (markAll false (h.take 4)) (markAll false (body ++ rest)) j

/-! ## Layer records (R160, R161, R168) -/

/-- A record's header. -/
structure LRec where
  recLen : Nat
  layerId : Nat
  wfmt : Nat
  src : Nat
  flags : Nat
  pmode : Nat
  k : Nat
  n : Nat
  sLayer : Nat
  scaleOff : Nat
  dataOff : Nat
  dataLen : Nat
  spare : Bool

def recordAt (bs : List Byte) : LRec :=
  { recLen := leAt bs 0 4, layerId := leAt bs 4 4, wfmt := leAt bs 8 1, src := leAt bs 9 1, flags := leAt bs 10 1, pmode := leAt bs 11 1, k := leAt bs 12 4,
    n := leAt bs 16 4, sLayer := leAt bs 20 4, scaleOff := leAt bs 24 8, dataOff := leAt bs 32 8, dataLen := leAt bs 40 8, spare := zeroAt bs 48 16 }

/-- Bytes of weight data a source needs; a packed image says its own. -/
def dataNeeded (r : LRec) (data : List Byte) : Option Nat :=
  match r.src with
  | 0 => some (cdiv (r.n * r.k * codeBits (wfmtOf r.wfmt)) 8)
  | 1 => some (r.n * r.k)
  | 2 => some (2 * r.n * r.k)
  | 3 => (imageRegion data 3 (cdiv (r.n * r.k) 256)).map (imageLen data)
  | 4 => (imageRegion data 1 (cdiv (r.n * r.k) 256)).map (imageLen data)
  | _ => none

/-- Whether a record agrees with the manifest's layer and has the form of R160 and R161 (R168, row 7). -/
def recordOk (l : MLayer) (r : LRec) (bs : List Byte) : Bool :=
  decide (1 ≤ r.wfmt) && decide (r.wfmt ≤ 3) && decide (r.src ≤ 4) && r.wfmt == l.fmt && decide (r.pmode < 3) && r.pmode == l.pmode && r.k == l.k && r.n == l.n &&
    decide (r.flags < 2) && bitOf r.flags 0 == bitOf l.flags 0 && r.spare && decide (64 ≤ r.dataOff) && decide (r.dataOff + r.dataLen ≤ r.recLen) &&
    (if r.src = 0 then decide (64 ≤ r.scaleOff) && decide (r.scaleOff + r.n ≤ r.recLen) else r.sLayer == 0 && r.scaleOff == 0) &&
    dataNeeded r ((bs.drop r.dataOff).take r.dataLen) == some r.dataLen

/-- The layer a record gives, or the status that refuses it (R168, rows 7–9). -/
def recordLayer (prot : Bool) (l : MLayer) (bs : List Byte) : Byte ⊕ QLayer :=
  let r := recordAt bs
  let f := wfmtOf r.wfmt
  let data := (bs.drop r.dataOff).take r.dataLen
  let orBad (x : Option QLayer) : Byte ⊕ QLayer := match x with | some q => .inr q | none => .inl stBadFormat
  if !recordOk l r bs then .inl stBadFormat
  else if prot ∧ 3 ≤ r.src then .inl stPolicy
  else match r.src with
    | 0 => orBad (preQuantised f r.n r.k data.toArray ((bs.drop r.scaleOff).take r.n).toArray (BitVec.ofNat 32 r.sLayer))
    | 1 => orBad (quantisedFrom false f r.n r.k data.toArray)
    | 2 => orBad (quantisedFrom true f r.n r.k data.toArray)
    | src =>
      let fmt : BitVec 4 := if src = 3 then 3 else 1
      match imageRegion data fmt (cdiv (r.n * r.k) 256) with
      | some g =>
        let xs := (List.range g.nblk).map (imageBlock data g)
        if xs.any Expanded.crcFail then .inl stIntegrity
        else orBad (quantisedFrom (src == 4) f r.n r.k (xs.flatMap fun x => plainOf x.bytes).toArray)
      | none => .inl stBadFormat

/-! ## Target images (R43, R165, R196) -/

/-- The output of the layer that local output `p` of a block is, if it is one of the block's (R43, R45). -/
def blockOutput (f : WFmt) (b : BlockDesc) (part : Nat × Nat) (p : Nat) : Option Nat :=
  if (blockOutputs f b).contains p then some (part.2 * fmtOutputs f + (blockOutputs f b).idxOf p) else none

/-- The weight that a deck holds in a compute row for local output `p`: 0 outside its blocks (R43, R44). -/
def placedWeight (d : PlanDeck) (k : Nat) (q : QLayer) (row p : Nat) : Int :=
  let held := (d.blocks.zip d.parts).filterMap fun x =>
    if x.1.firstRow ≤ row ∧ row < x.1.firstRow + x.1.rowCount then
      (blockOutput d.fmt x.1 x.2 p).map fun o => q.q.getD (o * k + x.2.1 * 2048 + (row - x.1.firstRow)) 0
    else none
  held.headD 0

/-- The output table's entry for local output `p`: its scale and COLSUM (R165, R196). -/
def placedOutput (d : PlanDeck) (k : Nat) (q : QLayer) (p : Nat) : Byte × Int :=
  match (d.blocks.zip d.parts).findSome? fun x => blockOutput d.fmt x.1 x.2 p with
  | some o => (q.sOut.getD o 0, ((List.range 2048).map fun row => placedWeight d k q row p).sum)
  | none => (0, 0)

/-- A deck's target image is written and complete. -/
def targetDeck (s : State) (e : Nat) (pl : Plan) (k : Nat) (q : QLayer) (d : PlanDeck) : State :=
  let at_ := targetPlace pl d
  let r : TargetRef := { eng := BitVec.ofNat 6 e, fmt := d.fmt, image := at_.1, table := at_.2, sDeck := q.sLayer, complete := true }
  writeTarget { s with targets := sput s.targets (logicalDeck d.addr) r } r (placedWeight d k q) (placedOutput d k q)

/-! ## Programming from a waybill (R164, R166, R168) -/

/-- Whether a tile-deck is complete from this waybill. -/
def deckOfWaybill (d : Deck) (e : Nat) (wb : BitVec 64) : Bool :=
  deckDone d && match d.header with | some h => h.owned && h.eng.toNat == e && h.wbId == wb | none => false

/-- Whether a logical core's number waits for a spare: the core that serves it is the fenced one (R402). -/
def awaitsSpare (s : State) (c : Nat) : Bool := let m := vget {} s.ldg.map c; m.fenced && m.failed.contains m.phys

/-- Start on a deck whose target image is complete: a complete deck is skipped, a partial one resumed, one that holds anything
else erased first. A deck of a core that waits for its spare waits with it (R166). One that cannot be erased or programmed notes
the status of row 10 (R168, log 147). -/
def startDeck (s : State) (e : Nat) (wb : BitVec 64) (lg : Nat) : State :=
  let k := physDeck s lg
  let d := getDeck s k
  if isOut s (lg / 768) || decide (10000 ≤ d.cycles) || d.outOfService then noteStatus s e stCapacity
  else if awaitsSpare s (lg / 768) then s
  else if deckOfWaybill d e wb then modEng s e fun g => { g with waybill := g.waybill.map fun w => { w with skipped := w.skipped + 1 } }
  else if deckBusy d then s
  else if deckPartial d then resumeDeck s k
  else if deckErased d then queueProgram s lg
  else queueErase s k

/-- A layer's decks take their targets and start. -/
def useLayer (s : State) (e : Nat) (wb : BitVec 64) (id k : Nat) (q : QLayer) : State :=
  match (getEng s e).plan with
  | none => s
  | some pl =>
    let ds := pl.decks.filter fun d => d.blocks.any fun b => b.layerId.toNat == id
    let s1 := forEach ds s fun s d => targetDeck s e pl k q d
    forEach ds s1 fun s d => startDeck s e wb (logicalDeck d.addr)

/-- Whether this device's placement holds blocks of a layer. -/
def layerHere (g : Eng) (id : Nat) : Bool := ((g.plan.map Plan.decks).getD []).any fun d => d.blocks.any fun b => b.layerId.toNat == id

/-- Act on one layer record. -/
def takeRecord (s : State) (e : Nat) (w : Waybill) (bs : List Byte) : State :=
  let g := getEng s e
  let id := leAt bs 4 4
  match (manifestLayers g.manifest).find? fun l => l.op == 1 && l.layerId == id with
  | none => noteStatus s e stBadFormat
  | some l =>
    if !layerHere g id then s
    else match recordLayer w.prot l bs with
      | .inl st => noteStatus s e st
      | .inr q => useLayer s e w.wbId id l.k q

/-- Whether the record that begins the plaintext still to be cut runs past PLAIN_LEN. -/
def runsPast (w : Waybill) : Bool :=
  decide (w.plainLen < w.used + 64) || (decide (64 ≤ w.plain.length) && decide (w.plainLen < w.used + leAt w.plain 0 4))

/-- Cut the verified plaintext into records. A record whose length cannot be one is refused and ends the cutting; so does one that runs past
PLAIN_LEN, once every segment has verified: one that runs into a failing segment is row 6's (R168). -/
def takeRecords : Nat → State → Nat → State
  | 0, s, _ => s
  | n + 1, s, e =>
    match (getEng s e).waybill with
    | none => s
    | some w =>
      let len := leAt w.plain 0 4
      let bad := (decide (64 ≤ w.plain.length) && decide (len < 64)) || (runsPast w && decide (w.nextSeg = w.nSeg))
      if w.lostRecs || decide (w.used = w.plainLen) then modEng s e fun g => { g with waybill := some { w with plain := [] } }
      else if bad then noteStatus (modEng s e fun g => { g with waybill := some { w with lostRecs := true, plain := [] } }) e stBadFormat
      else if runsPast w ∨ w.plain.length < 64 ∨ w.plain.length < len then s
      else
        let s1 := modEng s e fun g => { g with waybill := some { w with used := w.used + len, plain := w.plain.drop len } }
        takeRecords n (takeRecord s1 e w (w.plain.take len)) e

/-! ## Header and wrap table (R157, R158, R168 rows 2–5) -/

/-- Bytes of header and wrap table. -/
def frontLen (bs : List Byte) : Nat := 256 + 256 * leAt bs 21 1

/-- Row 2, for a waybill of `len` bytes whose first bytes are given. -/
def waybillFormOk (bs : List Byte) (len : Nat) : Bool :=
  decide (256 ≤ len) && leAt bs 0 4 == 0x4C425957 && leAt bs 4 2 == 0x0100 && leAt bs 6 2 == 0x0100 && decide (1 ≤ leAt bs 21 1) && decide (leAt bs 21 1 ≤ 64) &&
    decide (1 ≤ leAt bs 24 4) && decide (leAt bs 20 1 < 2) && zeroAt bs 22 2 && zeroAt bs 28 4 && zeroAt bs 96 160 && decide (frontLen bs ≤ len) &&
    (List.range (leAt bs 21 1)).all fun i => zeroAt bs (256 + 256 * i + 145) 7 && zeroAt bs (256 + 256 * i + 212) 44

/-- The wrap entry of this device. -/
def wrapEntry (bs : List Byte) : Option (List Byte) :=
  ((List.range (leAt bs 21 1)).map fun i => (bs.drop (256 + 256 * i)).take 256).find? fun w => leAt w 0 48 == Config.devId.toNat

/-- The key that wraps a device's content key: ECDH, then HKDF-SHA-384 with salt WB_ID and info "WYBL-KEK" and DEV_ID (R158). -/
def waybillKek (bs w : List Byte) : BitVec 256 :=
  let info : List Byte := [0x57, 0x59, 0x42, 0x4C, 0x2D, 0x4B, 0x45, 0x4B] ++ w.take 48
  BitVec.ofNat 256 (leNat ((Config.hkdfSha384 (Config.ecdhIdentity ((w.drop 48).take 97)) ((bs.drop 8).take 8) info 32).take 32))

/-- Customs unwraps the content key: the key, or the status of row 4 or 5. -/
def unwrapKey (bs : List Byte) : Byte ⊕ BitVec 256 :=
  match wrapEntry bs with
  | none => .inl stPolicy
  | some w =>
    match Config.gcmOpen (waybillKek bs w) (BitVec.ofNat 96 (leAt w 152 12)) (bs.take 256) ((w.drop 164).take 32) (BitVec.ofNat 128 (leAt w 196 16)) with
    | some k => .inr (BitVec.ofNat 256 (leNat k))
    | none => .inl stIntegrity

/-- The waybill a header and wrap table begin on this device: at the Lead, or from device `dev`. -/
def openWaybill (bs : List Byte) (lead : Bool) (dev addr len : Nat) : Waybill :=
  let w : Waybill :=
    { lead := lead, leadDev := dev, addr := addr, len := len, wbId := BitVec.ofNat 64 (leAt bs 8 8), ivBase := BitVec.ofNat 64 (leAt bs 88 8), nSeg := leAt bs 24 4,
      plainLen := leAt bs 32 8, prot := bitOf (leAt bs 20 1) 0, aad := Config.sha384 (bs.take (frontLen bs)), key := none, off := frontLen bs }
  match unwrapKey bs with
  | .inl st => { w with status := st, finished := true }
  | .inr k => { w with key := some k }

/-- Send a waybill's bytes on, away from its Lead (R163). -/
def sendWay (s : State) (lead : Nat) (bs : List Byte) : State := forEach (wayPorts s lead) s fun s p => sendData s p bs

/-! ## PROGRAM_WAYBILL (R162, R338) -/

/-- Whether a waybill of the engagement is in progress. -/
def waybillRuns (g : Eng) : Bool := g.waybill.isSome

/-- The Lead's checks in their order, then the header and wrap table go down the tree. An engagement with no placement has no
admitted manifest to match. -/
def programWaybill (s : State) (mb : Mb) : State :=
  takeMsg s mb 0x10 fun s w =>
    let e := engField w
    let g := getEng s e
    let addr := wordAt w 2
    let len := wordAt w 3
    let front := winBytes s addr (min len 16640)
    if !s.ptl.stDone then finishMsg s mb w stBusy []
    else if waybillRuns g then finishMsg s mb w stBusy []
    else if !waybillFormOk front len || (msgGrans w).any fun k => !granNamed s mb k then finishMsg s mb w stBadFormat []
    else if s.fac.ver.toNat < leAt front 16 4 ∨ g.plan = none ∨ leAt front 40 48 ≠ g.manifestHash.toNat then finishMsg s mb w stPolicy []
    else
      let s1 := pushRec s mb w { opcode := 0, seq := 0, eng := e, grans := ownGrans s mb w }
      sendWay (modEng s1 e fun g => { g with waybill := some (openWaybill front true s1.hzl.devnum.toNat addr len) }) s1.hzl.devnum.toNat
        (front.take (frontLen front))

def execProgramWaybill (mb : Mb) (s : State) : Host.Outcome State Fault Refusal := .next (programWaybill s mb)

/-! ## WAYBILL_SEGMENT (R159, R164, R168 row 6) -/

/-- The nonce of a segment. -/
def segNonce (w : Waybill) (idx : Nat) : BitVec 96 := BitVec.ofNat 96 (w.ivBase.toNat + idx * 2 ^ 64)

/-- The plaintext of a segment; none where row 6 refuses it, which the model lets a SEG_LEN outside R159's range do too (log 132). -/
def segPlain (w : Waybill) (bs : List Byte) : Option (List Byte) :=
  let len := leAt bs 0 4
  let idx := leAt bs 4 4
  match w.key with
  | none => none
  | some k =>
    if idx ≠ w.nextSeg ∨ len = 0 ∨ 1048576 < len ∨ w.plainLen < w.total + len ∨ (idx + 1 = w.nSeg ∧ w.total + len < w.plainLen) then none
    else Config.gcmOpen k (segNonce w idx) (leBytes 48 w.aad.toNat ++ bs.take 16) ((bs.drop 32).take len) (BitVec.ofNat 128 (leAt bs 16 16))

/-- This device uses a segment. -/
def useSegment (s : State) (e : Nat) (w : Waybill) (bs : List Byte) : State :=
  match segPlain w bs with
  | none => noteStatus (modEng s e fun g => { g with waybill := some { w with finished := true, plain := [] } }) e stIntegrity
  | some p =>
    let w1 := { w with nextSeg := w.nextSeg + 1, total := w.total + p.length, plain := w.plain ++ p, finished := decide (w.nextSeg + 1 = w.nSeg) }
    takeRecords (p.length + w.plain.length + 2) (modEng s e fun g => { g with waybill := some w1 }) e

/-- The segment the Lead sends next from its window, and whether a unit of it is poisoned (R331). -/
def leadSegment (s : State) (w : Waybill) : List Byte × Bool :=
  let n := 32 + leNat (winBytes s (w.addr + w.off) 4)
  let ms := winRead s (w.addr + w.off) (min n (w.len - w.off))
  (plainOf ms, anyMark ms)

/-- Another device's waybill begins here with its header and wrap table, where the device is placed for the engagement. -/
def joinWaybill (s : State) (e lead : Nat) (bs : List Byte) : State :=
  if (getEng s e).plan.isSome && (getEng s e).waybill.isNone && waybillFormOk bs bs.length then
    modEng s e fun g => { g with waybill := some (openWaybill bs false lead 0 0) }
  else s

/-- Whether no more segments of a waybill are used here. -/
def waybillShut (w : Waybill) : Bool := w.finished || w.stopped || w.cutAt.isSome

/-- WAYBILL_SEGMENT: the Lead takes its next segment from its window; any other device the bytes it receives from `lead`. Both send it on to
the children of the tree, seen from the Lead. -/
def waybillSegment (s : State) (e lead : Nat) (bytes : List Byte) : State :=
  if !s.fac.up then s
  else match (getEng s e).waybill with
    | none => sendWay (joinWaybill s e lead bytes) lead bytes
    | some w =>
      if w.lead then
        if w.nSeg ≤ w.sent then s
        else
          let x := leadSegment s w
          let w1 := { w with sent := w.sent + 1, off := w.off + x.1.length }
          let s1 := sendWay (modEng s e fun g => { g with waybill := some w1 }) s.hzl.devnum.toNat x.1
          if waybillShut w1 then s1 else useSegment s1 e w1 (if x.2 then [] else x.1)
      else
        let s1 := sendWay s lead bytes
        if waybillShut w then s1 else useSegment s1 e w bytes

def execWaybillSegment (eng lead : Fin 64) (bytes : List Byte) (s : State) : Host.Outcome State Fault Refusal := .next (waybillSegment s eng lead bytes)

/-! ## WAYBILL_REPORT (R166, R167) -/

/-- Whether a tile-deck has completed or stopped for good: nothing is under way on it, and no takeover will program it. -/
def deckSettled (s : State) (e lg : Nat) (wb : BitVec 64) : Bool :=
  let d := getDeck s (physDeck s lg)
  deckOfWaybill d e wb || (!deckBusy d && !(isFenced s (lg / 768) && !isOut s (lg / 768)))

/-- Whether this device reports now (R166, R167): cut off from the Lead, at the next circuit boundary. -/
def localOver (s : State) (e : Nat) (w : Waybill) : Bool :=
  match w.cutAt with
  | some b => decide (b ≤ s.alm.beat.toNat)
  | none => (w.finished || w.stopped) && (getEng s e).decks.all fun lg => deckSettled s e lg w.wbId

/-- The status this device reports: FENCED where a lost port cuts it off, the first it met, or ABORTED_RESET (R166, R167). -/
def localStatus (w : Waybill) : Byte :=
  if w.cutAt.isSome then stFenced else if w.status ≠ stOk then w.status else if w.stopped then stAborted else stOk

/-- The reply when every placed device has reported: the status of the lowest-numbered failing device, which it names. -/
def waybillReply (w : Waybill) : Byte × List Word :=
  let bad := (sortBy Prod.fst w.reports).find? fun r => r.2 != stOk
  match bad with
  | some r => (r.2, [packWord [(r.1, 0, 6), (1, 6, 1)], wordOf w.done, wordOf w.skipped])
  | none => (stOk, [0, wordOf w.done, wordOf w.skipped])

/-- The waybill ends here: the content key goes (R446), and an engagement all of whose devices reported OK has its waybill. -/
def endWaybill (s : State) (e : Nat) (ok : Bool) : State :=
  checkReady (modEng s e fun g => { g with waybill := none, loaded := g.loaded || ok }) e

/-- The Lead records a report and replies after the last. -/
def takeReport (s : State) (e dev : Nat) (w : Waybill) (st : Byte) (done skipped : Nat) : State :=
  let w1 := { w with reports := w.reports ++ [(dev, st)], done := w.done + done, skipped := w.skipped + skipped }
  if w1.reports.length < (getEng s e).devices then modEng s e fun g => { g with waybill := some w1 }
  else
    let r := waybillReply w1
    endWaybill (finishRecs s (fun x => x.opcode == 0x10 && x.eng == e) r.1 r.2) e (r.1 == stOk)

/-- Another device's report: of one that a lost port cuts off, FENCED, at the next circuit boundary (R167). -/
def takeOther (s : State) (e dev : Nat) (w : Waybill) (st : Byte) (done skipped : Nat) : State :=
  match w.cuts.find? fun x => x.1 == dev with
  | some x => if x.2 ≤ s.alm.beat.toNat then takeReport s e dev w stFenced done skipped else s
  | none => takeReport s e dev w st done skipped

/-- WAYBILL_REPORT: this device's own report follows from its state; another's comes with its counts. -/
def waybillReport (s : State) (e dev : Nat) (st : Byte) (done skipped : Nat) : State :=
  match (getEng s e).waybill with
  | none => s
  | some w =>
    if !s.fac.up || w.reports.any fun r => r.1 == dev then s
    else if dev = s.hzl.devnum.toNat then
      if !localOver s e w then s
      else if w.lead then takeReport s e dev w (localStatus w) 0 0
      else endWaybill s e (localStatus w == stOk)
    else if w.lead then takeOther s e dev w st done skipped
    else s

def execWaybillReport (eng : Fin 64) (dev : Fin 64) (status : Byte) (done skipped : Nat) (s : State) : Host.Outcome State Fault Refusal :=
  .next (waybillReport s eng dev status done skipped)

end Sys2Proof.Machine
end

