-- ==== Sys2Proof/Machine/Recovery.lean ====
section
/-! DEFINITION. Fences, shadow plans, spare takeover and the return of a core (R398–R408). -/

namespace Sys2Proof.Machine

/-! ## The return to the original itineraries (R278, R402, R405, R407) -/

/-- The segment of a logical core's Roads slots, as a stop (R22). -/
def segStop (c : Nat) : BitVec 4 := BitVec.ofNat 4 (2 ^ (c / 8))

/-- Restore the tracker histories of an engagement's newest counted buffer on the logical cores that `on` names; before a first buffer counts, they
are as admission cleared them (R201, R407). -/
def restoreHist (s : State) (e : Nat) (on : Nat → Bool) : State :=
  let kept := keptHistories (getEng s e)
  putHistories s (((trackerAddrs (getEng s e)).zipIdx.map fun x => (x.1, kept.getD x.2 emptyHistory)).filter fun h => on h.1.1)

/-- Name the swap that brings an engagement back to its original itineraries and READY at the next epoch boundary. -/
def nameReturn (s : State) (e : Nat) : State :=
  match (getEng s e).plan with
  | some p =>
    let p1 := { p with anchor := (getEng s e).anchor }
    let s1 := loadStandby (writeImages s e p1) (Fin.ofNat 64 e) p1
    nameSwap (modEng s1 e fun g => { g with nextPlan := some p1, nextSt := some .ready }) e (nextEpoch s)
  | none => s

/-- Whether every link port that an engagement's plan uses is UP. -/
def portsOk (s : State) (e : Nat) : Bool :=
  match (getEng s e).plan with
  | some pl => (List.range 8).all fun p => !planUsesPort pl p || (getPort s p).st == .up
  | none => true

/-- Engagements in SHADOW or SUSPENDED that used a core come back where all their cores and ports are in service. -/
def returnEngs (s : State) (c : Nat) : State :=
  forEach ((strandedEngs s c).filter fun e => coresOk s e && portsOk s e) s fun s e => nameReturn (restoreHist s e fun x => x == c) e

/-! ## UNFENCE_CORE (R405, R499) -/

/-- The core returns to its logical number: its decks reopen and become uncalibrated, and the engagements swap back. -/
def returnCore (s : State) (c : Nat) : State :=
  let p := physOf s c
  let s1 := mapMod s c fun m => { m with fenced := false, out := false, failed := m.failed.erase p, cause := 0 }
  let s2 := openDecks (modCore s1 p fun k => { k with stops := segStop c, fValid := false, fCause := 0, fEng := 0, fLeg := 0, running := true }) (coreDeckKeys s1 p)
  saveCoreMap (tidyTakeover (returnEngs s2 c))

/-- UNFENCE_CORE. The physical core that a spare has replaced becomes a spare. -/
def unfenceCore (s : State) (mb : Mb) (checkOk : Bool) : State :=
  takeMsg s mb 0x41 fun s w =>
    let c := bitsOf (wordAt w 1) 0 5
    let m := vget {} s.ldg.map c
    if fenceBusy s then finishMsg s mb w stBusy []
    else if !mapFenced m then finishMsg s mb w stOk []
    else if m.cause.toNat = 4 then finishMsg s mb w stFenced []
    else if !checkOk then finishMsg (mapMod s c fun m => { m with cause := 6 }) mb w stFenced []
    else if m.fenced then
      let s1 := returnCore s c
      if (strandedEngs s1 c).all fun e => (getEng s1 e).swapAt.isNone then finishMsg s1 mb w stOk []
      else pushRec s1 mb w { opcode := 0, seq := 0, eng := c, grans := [] }
    else
      match m.failed with
      | p :: r =>
        let s1 := mapMod s c fun m => { m with failed := r, cause := if r.isEmpty then 0 else m.cause }
        let s2 := { s1 with ldg := { s1.ldg with spares := sortBy id (p :: s1.ldg.spares) } }
        finishMsg (saveCoreMap s2) mb w stOk []
      | [] => finishMsg s mb w stOk []

def execUnfenceCore (mb : Mb) (checkOk : Bool) (s : State) : Host.Outcome State Fault Refusal := .next (unfenceCore s mb checkOk)

/-! ## The fence (R398–R401, R403, R407) -/

/-- Whether the cause of a fence holds (R398, R411). -/
def fenceCause (s : State) (c : Nat) (cause : Nat) : Bool :=
  let p := physOf s c
  let k := getCore s p
  let m := vget {} s.ldg.map c
  match cause with
  | 1 => !(recsWhere s fun r => r.opcode == 0x40 && r.eng == c).isEmpty
  | 2 => k.fValid && k.fCause != 4
  | 3 => k.fValid && k.fCause == 4
  | 4 => k.ivrLock || k.pumps.any fun x => x.lockout
  | 5 => s.ldg.thr != 0 && decide (s.ldg.thr.toNat ≤ m.unrep)
  | _ => false

/-- A core's Drover stops: its legs and their effects are abandoned, its stop goes dead, and its counters clear (R86, R230, R305, R500); the
staging space of its fetches ends as reserved (R315). -/
def stopCore (s : State) (p : Nat) : State :=
  modCore (dropFlights s p) p fun c =>
    { c with
      running := false, stops := 0, groups := [], reads := [], kvLate := [], acks := [], issued := [], oldImage := [], pageOld := [], quant := []
      holdUntil := 0, busFree := Vector.replicate 12 0, stageFree := 0, meFree := 0, vecFree := 0, laneFree := Vector.replicate 8 0
      chanFree := Vector.replicate 4 0, cvtNan := 0, cvtSat := 0, meSat := 0, meNan := 0, attSubst := 0, attSkip := 0, stallHolds := 0
      stallGiveup := 0, xOvf := 0, xCrc := 0, prtLate := 0, prtTail := 0 }

/-- A tile that a fence or a reset of its core stops: no deck is active, strikes and the Assayer's work on it are abandoned, its input stage is
empty and its counters clear (R47, R86, R114, R500). -/
def stoppedTile (t : Tile) : Tile := { temp := t.temp, thermPause := t.thermPause, bankB := t.bankB }

/-- The tiles of a core stop. -/
def stopTiles (s : State) (p : Nat) : State :=
  { s with tiles := s.tiles.filterMap fun t => if t.1 / 192 = p then (if stoppedTile t.2 = {} then none else some (t.1, stoppedTile t.2)) else some t }

/-- Programming on a core stops as for a reset, the Assayer's measurements are discarded, and its open latches close (R114, R175, R499). -/
def stopCoreDecks (s : State) (p : Nat) : State :=
  mapDecks s fun k d => if k / 768 = p then { stopDeck false s.alm.beat.toNat d with opened := false, calPend := none, sweepPend := none, flagged := [] } else d

/-- Whether an engagement's itineraries, original or shadow, run on a core. -/
def usesCore (s : State) (c e : Nat) : Bool :=
  let g := getEng s e
  let on (p : Option Plan) : Bool := match p with | some p => p.itins.any fun i => i.core.val == c | none => false
  (g.st == .ready || g.st == .shadow || g.st == .suspended) && (on g.plan || on g.shadowPlan)

/-- A started consignment goes back to the token after its newest counted buffer and carries REPLAYED. -/
def replayCons (s : State) (e : Nat) (x : Nat × Nat) : State :=
  let b := (countedBufs (getEng s e)).find? fun b => b.consignor == x.1 && b.qslot == x.2
  let n := match b with | some b => b.token + 1 | none => 0
  modQ s x.1 x.2 fun q => { q with next := n, done := n, replayed := true }

/-- Every started consignment of an engagement replays, and its circuits are forgotten. -/
def replayEng (s : State) (e : Nat) : State :=
  let s1 := forEach (consWhere s fun q => q.eng.val == e && q.st == .started) s fun s x => replayCons s e x
  restoreHist (modEng s1 e fun g => { g with circuits := [] }) e fun c => !(getCore s1 (physOf s1 c)).dead

/-- A swap that has been named is withdrawn with its standby banks (R408). -/
def withdrawSwap (s : State) (e : Nat) : State :=
  let g := getEng s e
  if g.swapAt.isSome ∧ g.nextSt ≠ some .free then
    let s1 := modEng s e fun g => { g with swapAt := none, nextPlan := none, nextSt := none, nextBound := none, swapWith := none }
    let kept (i : Itin) : Option Itin := if i.eng.val ≠ e then some i else if i.len = 0 then none else some { i with standby := none, remove := false }
    { s1 with cores := s1.cores.map fun c => { c with itins := c.itins.filterMap kept } }
  else s

/-- The engagements whose swaps a fence withdraws: those that use the core, and the other engagement of a REBIND that one of them takes part in (R408). -/
def swapsLost (s : State) (es : List Nat) : List Nat :=
  es ++ (List.range 64).filter fun x => !es.contains x && (match (getEng s x).swapWith with | some o => es.contains o.val | none => false)

/-- Matrix-engine time of a plan on a core, in beats. -/
def engineBeats (pl : Plan) (c : Nat) : Nat :=
  cdiv (((pl.itins.filter fun i => i.core.val == c).flatMap fun i => i.legs.map fun l => match l.body with | .matrix d => matrixLatency d | _ => 0).sum) 8

/-- Bytes of stacked memory that a plan's fetches reserve in a circuit (R252, R327). -/
def planReads (pl : Plan) : Nat :=
  ((planLegs pl).map fun l => match l.leg.body with | .porter k => if k.desc.op = 5 then planBytes pl k.desc else 0 | _ => 0).sum

/-- Read rate of stacked memory that other engagements leave free, in bytes per beat (R328, R401). -/
def freeRate (s : State) (e : Nat) : Nat :=
  5120 - ((admitted s [e]).map fun x => match curPlan (getEng s x) with | some p => cdiv (planReads p) (max 1 (engPeriod (getEng s x))) | none => 0).sum

/-- b_sh of R401: the reserved bytes of the shadow copies of the decks on fenced cores, raw where they are protected; twinned copies share one. -/
def shadowReads (s : State) (pl : Plan) : Nat :=
  (((pl.decks.filter fun d => isFenced s d.addr.core || isOut s d.addr.core).filterMap fun d => d.shadow.map fun r => (r, fmtOutputs d.fmt)).eraseDups.map fun x =>
    match pl.regions.find? fun y => y.region == x.1.region with
    | some y => 8 * x.2 * (if y.prot then rawBytes y.fmt else 8 + slotBytes y.fmt y.slot)
    | none => 0).sum

/-- The period of a shadow plan, in units of 256 beats (R401). -/
def shadowPeriod (s : State) (e : Nat) (pl : Plan) : Nat :=
  let tme := ((List.range 32).map (engineBeats pl)).foldl max 0
  cdiv (max (getEng s e).period (max (cdiv (shadowReads s pl) (freeRate s e)) tme)) 256

/-- Whether a shadow plan fits: it places the decks, regions and memory of the original, its period is R401's, its legs run on the cores that are
left, and it meets every rule of R227 and R280 there; the decks of the fenced core and a bound on the period are no bar to it. -/
def shadowPlanFits (s : State) (e : Nat) (pl : Plan) : Bool :=
  let g := getEng s e
  (match g.plan with | some p => p.decks == pl.decks && p.regions == pl.regions && p.smPages == pl.smPages | none => false) &&
    g.shadowOk && decide (0 < freeRate s e) && planOk s e pl && pl.period == shadowPeriod s e pl &&
    (resourceCodes.filter fun c => c != 0x01 && c != 0x12).all (resourceOk s e [] pl)

/-- The pages a shadow plan uses beside the original one's. -/
def addPages (s : State) (e : Nat) (pl : Plan) : State :=
  forEach (List.range 34) s fun s p => modCore s p fun c => { c with pageOwner := (planPages s pl p).foldl (fun m a => sput m a e) c.pageOwner }

/-- Step 4 of R400: the engagement enters SHADOW where a shadow plan fits, and SUSPENDED otherwise. -/
def degradeEng (plans : List (Fin 64 × Plan)) (spare : Bool) (s : State) (e : Nat) : State :=
  let s1 := replayEng (modEng s e fun g => { g with live0 := true, takeover := spare, replacing := false, pShadow := 0, shadowPlan := none }) e
  match (plans.find? fun x => x.1.val == e && shadowPlanFits s1 e x.2) with
  | some x =>
    let s2 := loadStandby (writeImages (addPages s1 e x.2) e x.2) x.1 x.2
    nameSwap (modEng s2 e fun g => { g with st := .shadow, nextPlan := some x.2, nextSt := none }) e (swapBeat s (getEng s e).route)
  | none => modEng s1 e fun g => { g with st := .suspended }

/-- Whether a spare is left for one more takeover. -/
def spareLeft (s : State) : Bool :=
  decide (((List.range 32).filter fun c => let m := vget {} s.ldg.map c; m.fenced && !m.out && m.failed.contains m.phys).length < s.ldg.spares.length)

/-- With no spare left, SUSPENDED engagements complete their consignments with FENCED, and tile-decks of a waybill on the core are
refused (R168 row 10, R403). -/
def endStranded (s : State) (c : Nat) (e : Nat) : State :=
  let s1 := if (getEng s e).decks.any fun lg => lg / 768 == c then noteStatus s e stCapacity else s
  if (getEng s e).st = .suspended ∧ usesCore s c e then endAll s1 (fun q => q.eng.val == e) stFenced else s1

/-- CORE_FENCE: the steps of R400. A second fence of a number strikes the spare that is taking it over (R403). -/
def fenceRun (s : State) (c : Nat) (cause : BitVec 4) (plans : List (Fin 64 × Plan)) : State :=
  let p := physOf s c
  let m := vget {} s.ldg.map c
  if m.out || (m.fenced && m.failed.contains p) then finishRecs s (fun r => r.opcode == 0x40 && r.eng == c) stOk []
  else
    let spare := spareLeft s
    let s1 := stopCoreDecks (stopTiles (stopCore s p) p) p
    let s2 := mapMod s1 c fun m => { m with fenced := true, cause := cause, failed := p :: m.failed, out := !spare }
    let es := (List.range 64).filter (usesCore s2 c)
    let s3 := forEach (swapsLost s2 es) s2 withdrawSwap
    let s4 := forEach es s3 (degradeEng plans spare)
    let s5 := if spare then s4 else forEach (List.range 64) s4 fun s e => endStranded s c e
    finishRecs (saveCoreMap (tidyTakeover s5)) (fun r => r.opcode == 0x40 && r.eng == c) stOk []

def coreFence (s : State) (c : Nat) (cause : BitVec 4) (plans : List (Fin 64 × Plan)) : State :=
  if fenceCause s c cause.toNat && s.fac.up then fenceRun s c cause plans else s

def execCoreFence (core : Fin 32) (cause : BitVec 4) (plans : List (Fin 64 × Plan)) (s : State) : Host.Outcome State Fault Refusal :=
  .next (coreFence s core cause plans)

/-! ## Spare takeover (R402) -/

/-- Engagements whose tile-decks a takeover programs, or a waybill in progress owes the core (R402, R408). -/
def takeoverDecks (s : State) (c : Nat) : List Nat :=
  (List.range 64).flatMap fun e =>
    let g := getEng s e
    if g.st == .ready || g.st == .shadow || g.st == .suspended || g.st == .loading then g.decks.filter fun lg => lg / 768 == c else []

/-- Of those, the ones the takeover waits for. -/
def awaitedDecks (s : State) (c : Nat) : List Nat :=
  (List.range 64).flatMap fun e =>
    let g := getEng s e
    if g.st == .ready || g.st == .shadow || g.st == .suspended then g.decks.filter fun lg => lg / 768 == c else []

/-- Steps 1 to 3: the lower-numbered spare takes the number, is erased where it is programmed, and is programmed. A former core that UNFENCE_CORE
made a spare (R405) takes a number of any segment: the spec gives it no stop there, and the model lets it use the segment of the core it replaces, as R22
lets physical cores 32 and 33 (log 133). -/
def assignSpare (s : State) (c : Nat) (p : Nat) : State :=
  let s1 := mapMod { s with ldg := { s.ldg with spares := s.ldg.spares.erase p } } c fun m => { m with phys := p, unrep := 0 }
  let used := (coreDeckKeys s1 p).filter fun k => !deckErased (getDeck s1 k)
  let s2 := forEach used s1 queueErase
  let s3 := forEach (takeoverDecks s2 c) s2 fun s lg => if (getDeck s (physDeck s lg)).erasing then s else queueProgram s lg
  saveCoreMap s3

/-- Steps 4 and 5: once the decks are complete and calibrated the core runs, and the engagements swap back. -/
def finishTakeover (s : State) (c : Nat) : State :=
  if (awaitedDecks s c).all fun lg => let d := getDeck s (physDeck s lg); deckDone d && !d.uncal then
    let s1 := mapMod s c fun m => { m with fenced := false }
    let s2 := modCore s1 (physOf s1 c) fun k => { k with running := true, stops := segStop c }
    saveCoreMap (tidyTakeover (returnEngs s2 c))
  else s

/-- SPARE_TAKEOVER: the spare is assigned, and the takeover ends when its decks are ready. -/
def spareTakeover (s : State) (c : Nat) : State :=
  let m := vget {} s.ldg.map c
  if !m.fenced || m.out || !s.fac.up then s
  else if m.failed.contains m.phys then
    match sortBy id s.ldg.spares with
    | p :: _ => finishTakeover (assignSpare s c p) c
    | [] => s
  else finishTakeover s c

def execSpareTakeover (core : Fin 32) (s : State) : Host.Outcome State Fault Refusal := .next (spareTakeover s core)

end Sys2Proof.Machine
end

