-- ==== Sys2Proof/Machine/Reset.lean ====
section
/-! DEFINITION. Device resets: their sources, the end of the stretch, option loading, and the Factor's return
(R264, R372, R456, R489–R509, R576). -/

namespace Sys2Proof.Machine

/-! ## Sources (R489–R492) -/

/-- A warm source ends an entry to a power state, and a device in Camp begins its exit (R531, log 29). -/
def rouse (s : State) : State :=
  if s.pwr.entering then abortEntry s
  else if s.pwr.st = 2 ∧ s.pwr.exiting = false then { s with pwr := { s.pwr with exiting := true, wake := 0, wakePort := 0 } }
  else s

/-- A source of either class. In Deep Camp only a cold source, or one that wakes, finds anything to reset (log 29). -/
def deviceReset (s : State) (src : Nat) (cold : Bool) : State :=
  if cold then beginReset s src true false false
  else if s.pwr.st = 3 then s
  else beginReset (rouse s) src false false false

/-- Power-on reset, source 1; without VSB the contents of its domain are lost (R489, R523). -/
def powerOnReset (s : State) (vsbLost : Bool) : State := beginReset s 1 true vsbLost false

def execPowerOnReset (vsbLost : Bool) (s : State) : Host.Outcome State Fault Refusal := .next (powerOnReset s vsbLost)

/-- PERST_N, source 2: a reset from its assertion to its deassertion. In Deep Camp the cold start it brings joins it
(R513, R516). -/
def perstChange (s : State) (asserted : Bool) : State :=
  if !asserted then { s with rst := { s.rst with perstLow := false } }
  else if s.rst.perstLow then s
  else
    let s1 := if s.pwr.st = 3 then wake s 1 0 else rouse s
    let s2 := beginReset s1 2 false false false
    { s2 with rst := { s2.rst with perstLow := true } }

def execPerstN (asserted : Bool) (s : State) : Host.Outcome State Fault Refusal := .next (perstChange s asserted)

/-- RST_N as an input, source 3: low for at least 1 µs, and not while the device drives the pin (R491). -/
def rstNInput (s : State) (lowNs : Nat) : State :=
  if lowNs < 1000 ∨ s.rst.rstNDriven then s else deviceReset s 3 s.rst.rstnCold

def execRstNInput (lowNs : Nat) (s : State) : Host.Outcome State Fault Refusal := .next (rstNInput s lowNs)

/-- The Factor watchdog, source 4: it runs while the Factor does. -/
def factorWatchdog (s : State) : State := if s.fac.running && decide (s.pwr.st.toNat < 2) then deviceReset s 4 false else s

def execFactorWatchdog (s : State) : Host.Outcome State Fault Refusal := .next (factorWatchdog s)

/-- Thermal shutdown, source 6, in every power state (R527). -/
def thermalShutdown (s : State) : State := beginReset s 6 true false true

def execThermalShutdown (s : State) : Host.Outcome State Fault Refusal := .next (thermalShutdown s)

/-- The bytes of a forwarded reset request: its class (log 30). -/
def resetRequestBytes (cold : Bool) : List Byte := [0x07, if cold then 1 else 0]

/-- A Route-requested reset, source 7 (R492): from the beat master, device 0 of a formed Route, it goes down the tree and
is then performed where ROUTE_EN is 1; from any other device it is discarded and logged. -/
def routeReset (s : State) (sender : Nat) (cold : Bool) : State :=
  if !s.fac.up then s
  else if sender ≠ 0 ∨ s.hzl.formed = false ∨ s.alm.master then
    logViolation s { addr := BitVec.ofNat 32 sender, req := BitVec.ofNat 16 sender, src := 6, write := true, cid := 0x1F }
  else
    let s1 := broadcast s (resetRequestBytes cold)
    if s.rst.routeEn then deviceReset s1 7 cold else s1

def execRouteResetRequest (sender : Fin 64) (cold : Bool) (s : State) : Host.Outcome State Fault Refusal := .next (routeReset s sender cold)

/-- Customs tamper, source 8: low for 10 µs or longer with VSB present; the keys are destroyed first (R460, R576). -/
def tamper (s : State) (lowNs : Nat) : State :=
  if lowNs < 10000 ∨ s.pwr.vsbOk = false then s else beginReset (destroyKeys s) 8 true false false

def execTamper (lowNs : Nat) (s : State) : Host.Outcome State Fault Refusal := .next (tamper s lowNs)

/-! ## The end of the stretch (R493, R507) -/

/-- Whether every monitored supply is valid and PERST_N is high. -/
def mayRelease (s : State) : Bool := !s.rst.perstLow && s.pwr.vcoreOk && s.pwr.vauxOk && s.pwr.vsbOk

/-- The stretch ends: RST_N is released, RST_CAUSE written, and option loading begins. -/
def stretchEnd (s : State) : State :=
  if s.rst.stretching && mayRelease s then
    { s with rst :=
      { s.rst with
        stretching := false, loading := true, loadCold := s.rst.stCold, rstNDriven := false,
        first := s.rst.stFirst, cls := s.rst.stCold, olrestart := s.rst.stOlrestart, vsbLost := s.rst.stVsbLost,
        seen := s.rst.stSeen } }
  else s

def execStretchEnd (s : State) : Host.Outcome State Fault Refusal := .next (stretchEnd s)

/-! ## The option block (R495) -/

/-- The copies' bases: sectors 4 and 5. -/
def optionBase (i : Nat) : Nat := (4 + i) * 65536

/-- A copy whose MAGIC and CRC verify. -/
def optionCopy (s : State) (i : Nat) : Option (List Byte) :=
  let bs := bstBytes s (optionBase i) 64
  if bs.take 4 = [0x4F, 0x50, 0x54, 0x42] ∧ leNat (bs.drop 60) = (crc32 (bs.take 60)).toNat then some bs else none

def optionSeq (bs : List Byte) : Nat := pkgNat bs 4 4

/-- The copy that is used: the valid one with the higher SEQ. -/
def optionBlock (s : State) : Option (List Byte) :=
  match optionCopy s 0, optionCopy s 1 with
  | some a, some b => if optionSeq a < optionSeq b then some b else some a
  | some a, none => some a
  | none, b => b

def optWord (bs : List Byte) (o : Nat) : Word := BitVec.ofNat 32 (pkgNat bs o 4)

/-- THR of the option block. -/
def optThr (s : State) (bs : List Byte) : State := bstMod s fun b => { b with thr := BitVec.ofNat 3 (pkgNat bs 20 1) }

/-- RSTCFG: the value of RST_CFG, its LOCK with it. -/
def optRstCfg (s : State) (bs : List Byte) : State :=
  let v := optWord bs 8
  { s with rst := { s.rst with rstnCold := flagOf v 0, routeEn := flagOf v 1, lock := s.rst.lock || flagOf v 31 } }

/-- The registers with a bit in LOCKS, in its order. -/
def lockOrder : List LockReg := [.almCfg, .hzlRoute, .asyCalCfg, .ldgCfg, .bstEccCfg]

def optLocks (s : State) (bs : List Byte) : State :=
  forEach lockOrder.zipIdx s fun s (x : LockReg × Nat) => if bitOf (pkgNat bs 21 1) x.2 then setLock s x.1 else s

/-- The fields that only a cold reset loads, stored as the block holds them (log 144). -/
def optCold (s : State) (bs : List Byte) : State :=
  let s1 := writeAlmCfg s (optWord bs 12)
  { s1 with
    hzl := { s1.hzl with devnum := BitVec.ofNat 6 (pkgNat bs 16 1), ndev := BitVec.ofNat 7 (pkgNat bs 17 1) }
    asy := { s1.asy with interval := BitVec.ofNat 5 (pkgNat bs 18 1) }
    ldg := { s1.ldg with thr := BitVec.ofNat 4 (pkgNat bs 19 1) } }

/-- Step 3, with the locks that are set when the phase ends. With no valid copy the registers keep their reset values and
the device runs alone. -/
def loadOptions (s : State) (cold : Bool) : State :=
  match optionBlock s with
  | some bs => optLocks (optRstCfg (optThr (if cold then optCold s bs else s) bs) bs) bs
  | none =>
    let s1 := { bstMod s (fun b => { b with thr := 3 }) with rst := { s.rst with rstnCold := false, routeEn := false } }
    if cold then { s1 with hzl := { s1.hzl with devnum := 0, ndev := 1 } } else s1

/-! ## The core map and the deck records (R4, R169–R171, R402, R494, R501) -/

/-- The live stops of a physical core: on the segments of the numbers it serves in service (R22, R305). -/
def servedStops (s : State) (p : Nat) : BitVec 4 :=
  ((List.range 32).filter fun c => physOf s c == p && !isFenced s c && !isOut s c).foldl (fun m c => m ||| BitVec.ofNat 4 (2 ^ (c / 8))) 0

/-- Step 4: LDG_MAP and the spares as the core map record has them; the stops of the cores follow. -/
def loadCoreMap (s : State) : State :=
  match s.bst.coreMap with
  | some (m, sp) =>
    let s1 := { s with ldg := { s.ldg with map := Vector.ofFn fun i => m.getD i.val (vget {} s.ldg.map i.val), spares := sp } }
    tidyTakeover { s1 with cores := Vector.ofFn fun p => { getCore s1 p.val with stops := servedStops s1 p.val } }
  | none => s

/-- TIL_SPARE_MAP from the spare-map log (R170). -/
def spareMapOf (log : List (Nat × Nat × Nat)) : Sparse Word :=
  log.foldl (fun m (e : Nat × Nat × Nat) => sset 0 m e.1 (mapSpare (sget 0 m e.1) e.2.1 e.2.2)) []

/-- The spare-map log of a deck: what row S13 holds, and what the last erase saved and programming has not written back (R132, R170). -/
def loadedLog (log : List EraseEnt) (k : Nat) (d : Deck) : List (Nat × Nat × Nat) := d.spareLog ++ (savedLog log k).filter fun e => !d.spareLog.contains e

/-- The registers a deck's record gives (R55, R56, R178). -/
def loadedReg (log : List EraseEnt) (k : Nat) (d : Deck) : DeckReg :=
  let l := loadedLog log k d
  let base : DeckReg := { sparesUsed := l.length, spareMap := spareMapOf l, cycles := d.cycles, part := deckPartial d }
  match d.header with
  | some h => if d.jDone then recordReg { d with reg := base } h else base
  | none => base

/-- COLSUM from the output table, with the DCOLSUM of each adjusted finding added (R171). -/
def loadedColsum (d : Deck) : Sparse Int :=
  d.slots.foldl (fun m (x : FSlot) =>
    if x.adjusted && !x.retired then smod 0 m x.finding.output.toNat fun v => v + x.dcolsum.toInt else m) (tabColsum d.outTab)

/-- The ring record that a finding slot gives (R171). -/
def loadedFinding (now : Beat) (x : FSlot) : Finding :=
  { x.finding with
    beat := now, hterm := if x.adjusted then x.hterm else 0, rung := if x.adjusted then 3 else 0
    st := if x.adjusted then stAdjusted else if x.waiting then stWaiting else stOpen }

/-- The groups whose checks the restored findings mask: those for which no rung fits (R134, log 135). -/
def loadedMasks (d : Deck) : Word :=
  d.slots.foldl (fun m (x : FSlot) =>
    if !x.retired && !x.adjusted && chooseRung d x.finding == 4 then m ||| groupBits x.finding.group else m) 0

/-- Step 6 for one deck: its record is read, and every restored deck is uncalibrated (R122, R501). -/
def loadDeck (log : List EraseEnt) (k : Nat) (d0 : Deck) : Deck :=
  let d := readRecord log k d0
  let d1 := { d with reg := loadedReg log k d, colsum := if d.jDone then loadedColsum d else [], scales := if d.jDone then tabScales d.outTab else [],
                     sDeck := match d.header with | some h => h.sDeck | none => 0, uncal := true }
  { d1 with masked := loadedMasks d1 }

/-- The findings of every deck record that are not retired, by SEQ. -/
def heldRecords (s : State) : List Finding :=
  sortBy (fun (f : Finding) => f.seq.toNat) (s.decks.flatMap fun x => (x.2.slots.filter fun f => !f.retired).map (loadedFinding s.alm.beat))

/-- The error ledger's ring from the deck records; SEQ goes on after the highest. -/
def loadRing (s : State) : State :=
  let fs := heldRecords s
  { s with asy := { s.asy with ring := fs.take ringSize, outside := fs.drop ringSize,
                               nextSeq := fs.foldl (fun m f => if m.toNat ≤ f.seq.toNat then f.seq + 1 else m) s.asy.nextSeq } }

/-- An engagement that a deck record names as owner is RESIDENT (R498), as Oluolawell's data knows it (log 28). -/
def loadResident (s : State) (e : Nat) : State :=
  if recordNames s e then
    let g := match s.bst.resident.find? fun x => x.1 == e with | some x => x.2 | none => {}
    modEng s e fun _ => { g with st := .resident, decks := recordDecks s e }
  else s

/-- Step 6. -/
def loadDecks (s : State) : State :=
  forEach (List.range 64) (loadRing (mapDecks s fun k d => loadDeck s.bst.eraseLog k d)) loadResident

/-- Step 5 and R456: with a switch record, the public decks of the outgoing tenant gain their mark before any deck can
open, and the switch ends. -/
def finishSwitchRecord (s : State) : State :=
  match s.cus.swRec with
  | some _ => cusMod (sealOutgoing s) fun c => { c with swRec := none, switches := satAdd c.switches 1, consentBeat := beat200 s }
  | none => s

/-- The options of the phase that is ending. -/
def loadedState (s : State) (smba : BitVec 2) : State :=
  if s.rst.loadCold then
    let s1 := loadDecks (finishSwitchRecord (loadCoreMap (loadOptions s true)))
    { s1 with smc := { s1.smc with addr := 0x58 + smba.setWidth 7 } }
  else loadOptions s false

/-- OPTION_LOADING (R494, R497): the phase runs to its end and the units are released; RECOV_N low holds the Factor out of
image start. -/
def optionLoading (s : State) (smba : BitVec 2) (recovN : Bool) : State :=
  if s.rst.loading && !s.rst.stretching then
    let s1 := loadedState s smba
    let s2 := { s1 with rst := { s1.rst with loading := false, perstSeen := false, recovN := recovN } }
    if recovN then gpioConfigure (startImage s2) else s2
  else s

def execOptionLoading (smba : BitVec 2) (recovN : Bool) (s : State) : Host.Outcome State Fault Refusal := .next (optionLoading s smba recovN)

/-! ## The Factor's return (R372, R375, R460, R481, R497) -/

/-- Consignor resets that waited for the Factor, before any message is taken (R375, R496). -/
def pendingCrst (s : State) : State :=
  let ps := setBits s.fac.crstPending.toNat 17
  forEach ps { s with fac := { s.fac with crstPending := 0 } } performCrst

/-- FACTOR_UP becomes 1: a trial image is confirmed; what waited for the Factor is done. -/
def factorUp (s : State) : State :=
  let s1 := pendingCrst (confirmImage { s with fac := { s.fac with up := true, resumePending := false, atWaits := false } })
  let s2 := if s1.cus.switchWaits then switchFactor s1 else s1
  forEach (List.range 17) s2 flushCompletions

/-- Whether the Factor may come up: it runs, no reset is under way, and the device is not in Camp. -/
def mayComeUp (s : State) : Bool := s.fac.running && !s.fac.up && !inReset s && decide (s.pwr.st.toNat < 2) && !s.pwr.entering

/-- FACTOR_READY, after a cold reset. -/
def factorReady (s : State) : State := if mayComeUp s && !s.fac.resumePending then factorUp s else s

def execFactorReady (s : State) : Host.Outcome State Fault Refusal := .next (factorReady s)

/-- FACTOR_RESUME, after a warm reset: vector 22 fires, and a device in Halt is in Trek (R363, R372, R531). -/
def factorResume (s : State) : State :=
  if mayComeUp s && s.fac.resumePending then
    let s1 := factorUp s
    fireVector (retarget { s1 with pwr := { s1.pwr with st := 0 } }) 22
  else s

def execFactorResume (s : State) : Host.Outcome State Fault Refusal := .next (factorResume s)

end Sys2Proof.Machine
end

