-- ==== Sys2Proof/Machine/Dispatch.lean ====
section
/-! DEFINITION. One arm per command: each calls the meaning of its command. -/

namespace Sys2Proof.Machine

/-- The effect of a command on everything but the queue. -/
def exec (i : Instr) (s : State) : Host.Outcome State Fault Refusal :=
  match i with
  | .hello mb => Sys2Proof.Machine.execHello mb s
  | .admitModel mb => Sys2Proof.Machine.execAdmitModel mb s
  | .placementCommit eng plan => Sys2Proof.Machine.execPlacementCommit eng plan s
  | .release mb => Sys2Proof.Machine.execRelease mb s
  | .rebind mb fromPlan toPlan => Sys2Proof.Machine.execRebind mb fromPlan toPlan s
  | .programWaybill mb => Sys2Proof.Machine.execProgramWaybill mb s
  | .waybillSegment eng lead bytes => Sys2Proof.Machine.execWaybillSegment eng lead bytes s
  | .waybillReport eng dev status done skipped => Sys2Proof.Machine.execWaybillReport eng dev status done skipped s
  | .verifyDecks mb => Sys2Proof.Machine.execVerifyDecks mb s
  | .seal mb => Sys2Proof.Machine.execSeal mb s
  | .unseal mb => Sys2Proof.Machine.execUnseal mb s
  | .eraseDecks mb => Sys2Proof.Machine.execEraseDecks mb s
  | .submit mb => Sys2Proof.Machine.execSubmit mb s
  | .cancel mb => Sys2Proof.Machine.execCancel mb s
  | .queryLedger mb => Sys2Proof.Machine.execQueryLedger mb s
  | .queryHealth mb => Sys2Proof.Machine.execQueryHealth mb s
  | .readErrorLedger mb => Sys2Proof.Machine.execReadErrorLedger mb s
  | .fenceCore mb => Sys2Proof.Machine.execFenceCore mb s
  | .unfenceCore mb checkOk => Sys2Proof.Machine.execUnfenceCore mb checkOk s
  | .spdmTunnel mb => Sys2Proof.Machine.execSpdmTunnel mb s
  | .keyDeliver mb => Sys2Proof.Machine.execKeyDeliver mb s
  | .powerHint mb => Sys2Proof.Machine.execPowerHint mb s
  | .debugConsent mb => Sys2Proof.Machine.execDebugConsent mb s
  | .resetEngagement mb => Sys2Proof.Machine.execResetEngagement mb s
  | .undefinedOpcode mb => Sys2Proof.Machine.execUndefinedOpcode mb s
  | .mbxInDb via page value => Sys2Proof.Machine.execMbxInDb via page value s
  | .mbxOutAck via page value => Sys2Proof.Machine.execMbxOutAck via page value s
  | .inboundSlotWrite via page outbound slot word value => Sys2Proof.Machine.execInboundSlotWrite via page outbound slot word value s
  | .crst via page => Sys2Proof.Machine.execCrst via page s
  | .mbxClrErr via page => Sys2Proof.Machine.execMbxClrErr via page s
  | .mbxGranReq via page value => Sys2Proof.Machine.execMbxGranReq via page value s
  | .mbxGranWrite granule value => Sys2Proof.Machine.execMbxGranWrite granule value s
  | .tilClrOvf t inc => Sys2Proof.Machine.execTilClrOvf t inc s
  | .tilClrClip t incDense incLimit => Sys2Proof.Machine.execTilClrClip t incDense incLimit s
  | .corClrNan core inc => Sys2Proof.Machine.execCorClrNan core inc s
  | .corClrSat core inc => Sys2Proof.Machine.execCorClrSat core inc s
  | .clrMe core incSat incNan => Sys2Proof.Machine.execClrMe core incSat incNan s
  | .clrAtt core incSubst incSkip => Sys2Proof.Machine.execClrAtt core incSubst incSkip s
  | .clrStall core incHolds incGiveup => Sys2Proof.Machine.execClrStall core incHolds incGiveup s
  | .xpkClrOvf core inc => Sys2Proof.Machine.execXpkClrOvf core inc s
  | .xpkClrCrc core inc => Sys2Proof.Machine.execXpkClrCrc core inc s
  | .clrLate core inc => Sys2Proof.Machine.execClrLate core inc s
  | .clrTail core inc => Sys2Proof.Machine.execClrTail core inc s
  | .prtStgClr => Sys2Proof.Machine.execPrtStgClr s
  | .hzlClrErr port incUe incTag incLost => Sys2Proof.Machine.execHzlClrErr port incUe incTag incLost s
  | .hzlClrRty port incNak incReplay => Sys2Proof.Machine.execHzlClrRty port incNak incReplay s
  | .bucketOvfClear stack => Sys2Proof.Machine.execBucketOvfClear stack s
  | .ueLogRemove => Sys2Proof.Machine.execUeLogRemove s
  | .ptlInjArm value => Sys2Proof.Machine.execPtlInjArm value s
  | .violLogRemove => Sys2Proof.Machine.execViolLogRemove s
  | .evict => Sys2Proof.Machine.execEvict s
  | .rstCtlWarm key => Sys2Proof.Machine.execRstCtlWarm key s
  | .rstCtlCold key => Sys2Proof.Machine.execRstCtlCold key s
  | .drvFaultClear core => Sys2Proof.Machine.execDrvFaultClear core s
  | .bstWarnClear => Sys2Proof.Machine.execBstWarnClear s
  | .lockSet reg value => Sys2Proof.Machine.execLockSet reg value s
  | .almBeatLoRead => Sys2Proof.Machine.execAlmBeatLoRead s
  | .registerWrite offset value be => Sys2Proof.Machine.execRegisterWrite offset value be s
  | .unprivilegedAccess offset write req => Sys2Proof.Machine.execUnprivilegedAccess offset write req s
  | .bar4Read addr len ide req => Sys2Proof.Machine.execBar4Read addr len ide req s
  | .bar4Write addr data ide poisoned req => Sys2Proof.Machine.execBar4Write addr data ide poisoned req s
  | .configRequest power => Sys2Proof.Machine.execConfigRequest power s
  | .bstProgram stores => Sys2Proof.Machine.execBstProgram stores s
  | .bstErase stores => Sys2Proof.Machine.execBstErase stores s
  | .bstSuspend stores => Sys2Proof.Machine.execBstSuspend stores s
  | .bstResume stores => Sys2Proof.Machine.execBstResume stores s
  | .bstAbort stores => Sys2Proof.Machine.execBstAbort stores s
  | .bstProgramDone => Sys2Proof.Machine.execBstProgramDone s
  | .eraseSegmentEnd last verifyOk => Sys2Proof.Machine.execEraseSegmentEnd last verifyOk s
  | .bstArrayRead offset bitErrs fetch taken => Sys2Proof.Machine.execBstArrayRead offset bitErrs fetch taken s
  | .flashRefresh => Sys2Proof.Machine.execFlashRefresh s
  | .firmwareUpdate client hdr => Sys2Proof.Machine.execFirmwareUpdate client hdr s
  | .svnFuseRaise client => Sys2Proof.Machine.execSvnFuseRaise client s
  | .factorReady => Sys2Proof.Machine.execFactorReady s
  | .factorResume => Sys2Proof.Machine.execFactorResume s
  | .pllLock => Sys2Proof.Machine.execPllLock s
  | .epochBoundary => Sys2Proof.Machine.execEpochBoundary s
  | .alignSend => Sys2Proof.Machine.execAlignSend s
  | .align port body => Sys2Proof.Machine.execAlign port body s
  | .epochInEdge edgeBeat => Sys2Proof.Machine.execEpochInEdge edgeBeat s
  | .referenceLost fallbackValid => Sys2Proof.Machine.execReferenceLost fallbackValid s
  | .relock => Sys2Proof.Machine.execRelock s
  | .commit eng circuit => Sys2Proof.Machine.execCommit eng circuit s
  | .circuitStart core eng circuit word => Sys2Proof.Machine.execCircuitStart core eng circuit word s
  | .bankSwap eng => Sys2Proof.Machine.execBankSwap eng s
  | .droverWatchdog core eng leg => Sys2Proof.Machine.execDroverWatchdog core eng leg s
  | .strike ctx leg => Sys2Proof.Machine.execStrike ctx leg s
  | .select ctx leg => Sys2Proof.Machine.execSelect ctx leg s
  | .reduce ctx leg => Sys2Proof.Machine.execReduce ctx leg s
  | .matrix ctx d => Sys2Proof.Machine.execMatrix ctx d s
  | .attend ctx d => Sys2Proof.Machine.execAttend ctx d s
  | .vecAdd ctx d => Sys2Proof.Machine.execVecAdd ctx d s
  | .vecSub ctx d => Sys2Proof.Machine.execVecSub ctx d s
  | .vecMul ctx d => Sys2Proof.Machine.execVecMul ctx d s
  | .vecFma ctx d => Sys2Proof.Machine.execVecFma ctx d s
  | .vecMin ctx d => Sys2Proof.Machine.execVecMin ctx d s
  | .vecMax ctx d => Sys2Proof.Machine.execVecMax ctx d s
  | .vecAbs ctx d => Sys2Proof.Machine.execVecAbs ctx d s
  | .vecCompare ctx d => Sys2Proof.Machine.execVecCompare ctx d s
  | .vecSelect ctx d => Sys2Proof.Machine.execVecSelect ctx d s
  | .vecConvert ctx d => Sys2Proof.Machine.execVecConvert ctx d s
  | .vecQuantise ctx d => Sys2Proof.Machine.execVecQuantise ctx d s
  | .vecExp ctx d => Sys2Proof.Machine.execVecExp ctx d s
  | .vecExp2 ctx d => Sys2Proof.Machine.execVecExp2 ctx d s
  | .vecLog2 ctx d => Sys2Proof.Machine.execVecLog2 ctx d s
  | .vecReciprocal ctx d => Sys2Proof.Machine.execVecReciprocal ctx d s
  | .vecRsqrt ctx d => Sys2Proof.Machine.execVecRsqrt ctx d s
  | .vecSqrt ctx d => Sys2Proof.Machine.execVecSqrt ctx d s
  | .vecSigmoid ctx d => Sys2Proof.Machine.execVecSigmoid ctx d s
  | .vecTanh ctx d => Sys2Proof.Machine.execVecTanh ctx d s
  | .vecSilu ctx d => Sys2Proof.Machine.execVecSilu ctx d s
  | .vecGeluTanh ctx d => Sys2Proof.Machine.execVecGeluTanh ctx d s
  | .vecGeluErf ctx d => Sys2Proof.Machine.execVecGeluErf ctx d s
  | .vecRotary ctx d => Sys2Proof.Machine.execVecRotary ctx d s
  | .vecSum ctx d => Sys2Proof.Machine.execVecSum ctx d s
  | .vecReduceMax ctx d => Sys2Proof.Machine.execVecReduceMax ctx d s
  | .vecReduceMin ctx d => Sys2Proof.Machine.execVecReduceMin ctx d s
  | .vecSumOfSquares ctx d => Sys2Proof.Machine.execVecSumOfSquares ctx d s
  | .vecMinAndMax ctx d => Sys2Proof.Machine.execVecMinAndMax ctx d s
  | .vecDbf8Encoding ctx d => Sys2Proof.Machine.execVecDbf8Encoding ctx d s
  | .vecRmsnorm ctx d => Sys2Proof.Machine.execVecRmsnorm ctx d s
  | .vecLayernorm ctx d => Sys2Proof.Machine.execVecLayernorm ctx d s
  | .vecSoftmax ctx d => Sys2Proof.Machine.execVecSoftmax ctx d s
  | .vecScaleTracker ctx d => Sys2Proof.Machine.execVecScaleTracker ctx d s
  | .vecInputPlaneBundles ctx d tag => Sys2Proof.Machine.execVecInputPlaneBundles ctx d tag s
  | .frameMulticast ctx leg => Sys2Proof.Machine.execFrameMulticast ctx leg s
  | .waystationCopy ctx leg => Sys2Proof.Machine.execWaystationCopy ctx leg s
  | .roadsConvoy ctx leg => Sys2Proof.Machine.execRoadsConvoy ctx leg s
  | .linkConvoy ctx leg => Sys2Proof.Machine.execLinkConvoy ctx leg s
  | .stackedMemoryRead ctx leg => Sys2Proof.Machine.execStackedMemoryRead ctx leg s
  | .readDataArrival core index bytes errs => Sys2Proof.Machine.execReadDataArrival core index bytes errs s
  | .stackedMemoryWrite ctx leg replay => Sys2Proof.Machine.execStackedMemoryWrite ctx leg replay s
  | .kvBlockWrite ctx leg => Sys2Proof.Machine.execKvBlockWrite ctx leg s
  | .stackedMemoryCopy eng chan desc => Sys2Proof.Machine.execStackedMemoryCopy eng chan desc s
  | .sharedWindowMove eng chan desc toWindow => Sys2Proof.Machine.execSharedWindowMove eng chan desc toWindow s
  | .staticRegionPack eng chan desc => Sys2Proof.Machine.execStaticRegionPack eng chan desc s
  | .writeDrain err => Sys2Proof.Machine.execWriteDrain err s
  | .deadline core index => Sys2Proof.Machine.execDeadline core index s
  | .hold port body => Sys2Proof.Machine.execHold port body s
  | .holdStart eng => Sys2Proof.Machine.execHoldStart eng s
  | .consignmentComplete consignor qslot outBytes => Sys2Proof.Machine.execConsignmentComplete consignor qslot outBytes s
  | .msixCoalesceExpiry page => Sys2Proof.Machine.execMsixCoalesceExpiry page s
  | .tempRead t quarterDeg => Sys2Proof.Machine.execTempRead t quarterDeg s
  | .calibration d => Sys2Proof.Machine.execCalibration d s
  | .coefficientWrite d => Sys2Proof.Machine.execCoefficientWrite d s
  | .sweep d => Sys2Proof.Machine.execSweep d s
  | .findingLocate d group openCols => Sys2Proof.Machine.execFindingLocate d group openCols s
  | .repairReprogram seq => Sys2Proof.Machine.execRepairReprogram seq s
  | .spareSubstitute seq => Sys2Proof.Machine.execSpareSubstitute seq s
  | .neighbourAdjust seq => Sys2Proof.Machine.execNeighbourAdjust seq s
  | .closingSweep seq => Sys2Proof.Machine.execClosingSweep seq s
  | .programDeck d => Sys2Proof.Machine.execProgramDeck d s
  | .programLoop d row => Sys2Proof.Machine.execProgramLoop d row s
  | .journalPulse d => Sys2Proof.Machine.execJournalPulse d s
  | .deckErase d => Sys2Proof.Machine.execDeckErase d s
  | .eraseLoop d verified => Sys2Proof.Machine.execEraseLoop d verified s
  | .programmingResumption => Sys2Proof.Machine.execProgrammingResumption s
  | .patrolVisit stack err validCopies => Sys2Proof.Machine.execPatrolVisit stack err validCopies s
  | .bucketLeak stack => Sys2Proof.Machine.execBucketLeak stack s
  | .phyGroupLost stack group => Sys2Proof.Machine.execPhyGroupLost stack group s
  | .stackBringup fail0 fail1 => Sys2Proof.Machine.execStackBringup fail0 fail1 s
  | .ownedSlotFrame port eng circuit slot f => Sys2Proof.Machine.execOwnedSlotFrame port eng circuit slot f s
  | .unownedDataFrame port f => Sys2Proof.Machine.execUnownedDataFrame port f s
  | .unownedReplayFrame port f => Sys2Proof.Machine.execUnownedReplayFrame port f s
  | .idleFrame port f => Sys2Proof.Machine.execIdleFrame port f s
  | .ack port body => Sys2Proof.Machine.execAck port body s
  | .ackSend port => Sys2Proof.Machine.execAckSend port s
  | .nak port body => Sys2Proof.Machine.execNak port body s
  | .rekey port body => Sys2Proof.Machine.execRekey port body s
  | .lostn port body => Sys2Proof.Machine.execLostn port body s
  | .portLost port => Sys2Proof.Machine.execPortLost port s
  | .portTrain port phase ok peer peerPort peerVersion roundTrip => Sys2Proof.Machine.execPortTrain port phase ok peer peerPort peerVersion roundTrip s
  | .portRetry port => Sys2Proof.Machine.execPortRetry port s
  | .wakePatternDetect port => Sys2Proof.Machine.execWakePatternDetect port s
  | .routeFormation nodes => Sys2Proof.Machine.execRouteFormation nodes s
  | .perstN asserted => Sys2Proof.Machine.execPerstN asserted s
  | .flr => Sys2Proof.Machine.execFlr s
  | .hotReset => Sys2Proof.Machine.execHotReset s
  | .pcieFatalError => Sys2Proof.Machine.execPcieFatalError s
  | .tdiError => Sys2Proof.Machine.execTdiError s
  | .ideFailure => Sys2Proof.Machine.execIdeFailure s
  | .getVersion p => Sys2Proof.Machine.execGetVersion p s
  | .getCapabilities p => Sys2Proof.Machine.execGetCapabilities p s
  | .negotiateAlgorithms p suiteOffered => Sys2Proof.Machine.execNegotiateAlgorithms p suiteOffered s
  | .getDigests p => Sys2Proof.Machine.execGetDigests p s
  | .getCertificate p slot offset len => Sys2Proof.Machine.execGetCertificate p slot offset len s
  | .challenge p slot nonce => Sys2Proof.Machine.execChallenge p slot nonce s
  | .getMeasurements p index sign nonce => Sys2Proof.Machine.execGetMeasurements p index sign nonce s
  | .keyExchange p slot mutAuth pub => Sys2Proof.Machine.execKeyExchange p slot mutAuth pub s
  | .finish p session leafKey sigOk => Sys2Proof.Machine.execFinish p session leafKey sigOk s
  | .heartbeat p session => Sys2Proof.Machine.execHeartbeat p session s
  | .keyUpdate p session => Sys2Proof.Machine.execKeyUpdate p session s
  | .endSession p session => Sys2Proof.Machine.execEndSession p session s
  | .setCertificate p slot chain => Sys2Proof.Machine.execSetCertificate p slot chain s
  | .chunkSend p handle seqNo last data => Sys2Proof.Machine.execChunkSend p handle seqNo last data s
  | .chunkGet p handle seqNo => Sys2Proof.Machine.execChunkGet p handle seqNo s
  | .vendorDefinedRequest p session req => Sys2Proof.Machine.execVendorDefinedRequest p session req s
  | .smbusBlockRead address command write pecOk => Sys2Proof.Machine.execSmbusBlockRead address command write pecOk s
  | .smbusMctp address eid pecOk => Sys2Proof.Machine.execSmbusMctp address eid pecOk s
  | .smbusAddressWake address => Sys2Proof.Machine.execSmbusAddressWake address s
  | .mgmtTlsConnect key suiteOk => Sys2Proof.Machine.execMgmtTlsConnect key suiteOk s
  | .mgmtEnrol client key role => Sys2Proof.Machine.execMgmtEnrol client key role s
  | .mgmtEvict client => Sys2Proof.Machine.execMgmtEvict client s
  | .mgmtReset client cold => Sys2Proof.Machine.execMgmtReset client cold s
  | .mgmtDebugEnable client => Sys2Proof.Machine.execMgmtDebugEnable client s
  | .mgmtPowerRequest client target => Sys2Proof.Machine.execMgmtPowerRequest client target s
  | .tenantSwitch => Sys2Proof.Machine.execTenantSwitch s
  | .tamper lowNs => Sys2Proof.Machine.execTamper lowNs s
  | .powerOnReset vsbLost => Sys2Proof.Machine.execPowerOnReset vsbLost s
  | .rstNInput lowNs => Sys2Proof.Machine.execRstNInput lowNs s
  | .factorWatchdog => Sys2Proof.Machine.execFactorWatchdog s
  | .thermalShutdown => Sys2Proof.Machine.execThermalShutdown s
  | .routeResetRequest sender cold => Sys2Proof.Machine.execRouteResetRequest sender cold s
  | .stretchEnd => Sys2Proof.Machine.execStretchEnd s
  | .optionLoading smba recovN => Sys2Proof.Machine.execOptionLoading smba recovN s
  | .waits => Sys2Proof.Machine.execWaits s
  | .powerEntryComplete => Sys2Proof.Machine.execPowerEntryComplete s
  | .targetTrek => Sys2Proof.Machine.execTargetTrek s
  | .hostPcieWake => Sys2Proof.Machine.execHostPcieWake s
  | .epochTimerWake => Sys2Proof.Machine.execEpochTimerWake s
  | .campExit => Sys2Proof.Machine.execCampExit s
  | .haltIdleTimer => Sys2Proof.Machine.execHaltIdleTimer s
  | .supplyWarning rail => Sys2Proof.Machine.execSupplyWarning rail s
  | .supplyValid rail => Sys2Proof.Machine.execSupplyValid rail s
  | .ivrStart phys shorted => Sys2Proof.Machine.execIvrStart phys shorted s
  | .pumpStart phys string shorted => Sys2Proof.Machine.execPumpStart phys string shorted s
  | .regulatorLockout phys pump => Sys2Proof.Machine.execRegulatorLockout phys pump s
  | .varrStep phys up => Sys2Proof.Machine.execVarrStep phys up s
  | .laneSupplyStep port sleep => Sys2Proof.Machine.execLaneSupplyStep port sleep s
  | .tollSample quarterWatts => Sys2Proof.Machine.execTollSample quarterWatts s
  | .tollWindowEnd hundredMs => Sys2Proof.Machine.execTollWindowEnd hundredMs s
  | .coreFence core cause plans => Sys2Proof.Machine.execCoreFence core cause plans s
  | .spareTakeover core => Sys2Proof.Machine.execSpareTakeover core s
  | .powerHintExpiry => Sys2Proof.Machine.execPowerHintExpiry s
  | .holdoverTimeout => Sys2Proof.Machine.execHoldoverTimeout s
  | .heartbeatTimeout p session => Sys2Proof.Machine.execHeartbeatTimeout p session s
  | .debugPortAccess target => Sys2Proof.Machine.execDebugPortAccess target s
  | .smbusEndpointReady => Sys2Proof.Machine.execSmbusEndpointReady s

end Sys2Proof.Machine
end

