-- ==== Sys2Proof/WellFormed.lean ====
section
/-! DEFINITION. Which commands are well formed: what the environment supplies has the shape the spec gives it.  The
operands that the machine itself judges (a leg's fields, a message, a placement) are not judged here; `exec` is total
and gives a meaning to ill-formed commands too. -/

namespace Sys2Proof

/-- A codeword has 40 symbols (R323). -/
def cwErrOk (e : CwErr) : Bool := match e with | some l => l.length == 40 | none => true

/-- A link frame carries 500 payload bytes (R420). -/
def frameOk (f : Frame) : Bool := f.payload.length == 500

/-- A Route has at most 64 devices (00_scope.md), and a device reports each of its eight ports at most once. -/
def nodesOk (ns : List (Fin 64 × Word × List (Fin 8 × Fin 64 × Nat))) : Bool :=
  decide (ns.length ≤ 64) && ns.all fun n => decide (n.2.2.map fun l => l.1).Nodup

/-- Whether a command is well formed. -/
def Instr.wf (i : Instr) : Bool :=
  match i with
  | .hello .. => true
  | .admitModel .. => true
  | .placementCommit .. => true
  | .release .. => true
  | .rebind .. => true
  | .programWaybill .. => true
  | .waybillSegment _ _ bs => decide (0 < bs.length)
  | .waybillReport .. => true
  | .verifyDecks .. => true
  | .seal .. => true
  | .unseal .. => true
  | .eraseDecks .. => true
  | .submit .. => true
  | .cancel .. => true
  | .queryLedger .. => true
  | .queryHealth .. => true
  | .readErrorLedger .. => true
  | .fenceCore .. => true
  | .unfenceCore .. => true
  | .spdmTunnel .. => true
  | .keyDeliver .. => true
  | .powerHint .. => true
  | .debugConsent .. => true
  | .resetEngagement .. => true
  | .undefinedOpcode .. => true
  | .mbxInDb .. => true
  | .mbxOutAck .. => true
  | .inboundSlotWrite .. => true
  | .crst .. => true
  | .mbxClrErr .. => true
  | .mbxGranReq .. => true
  | .mbxGranWrite .. => true
  | .tilClrOvf .. => true
  | .tilClrClip .. => true
  | .corClrNan .. => true
  | .corClrSat .. => true
  | .clrMe .. => true
  | .clrAtt .. => true
  | .clrStall .. => true
  | .xpkClrOvf .. => true
  | .xpkClrCrc .. => true
  | .clrLate .. => true
  | .clrTail .. => true
  | .prtStgClr => true
  | .hzlClrErr .. => true
  | .hzlClrRty .. => true
  | .bucketOvfClear .. => true
  | .ueLogRemove => true
  | .ptlInjArm .. => true
  | .violLogRemove => true
  | .evict => true
  | .rstCtlWarm .. => true
  | .rstCtlCold .. => true
  | .drvFaultClear .. => true
  | .bstWarnClear => true
  | .lockSet .. => true
  | .almBeatLoRead => true
  | .registerWrite .. => true
  | .unprivilegedAccess .. => true
  | .bar4Read _ n _ _ => decide (1 ≤ n) && decide (n ≤ 4096)
  | .bar4Write _ d _ _ _ => decide (1 ≤ d.length) && decide (d.length ≤ 4096)
  | .configRequest .. => true
  | .bstProgram .. => true
  | .bstErase .. => true
  | .bstSuspend .. => true
  | .bstResume .. => true
  | .bstAbort .. => true
  | .bstProgramDone => true
  | .eraseSegmentEnd .. => true
  | .bstArrayRead _ _ fetch taken => fetch || !taken
  | .flashRefresh => true
  | .firmwareUpdate .. => true
  | .svnFuseRaise .. => true
  | .factorReady => true
  | .factorResume => true
  | .pllLock => true
  | .epochBoundary => true
  | .alignSend => true
  | .align .. => true
  | .epochInEdge .. => true
  | .referenceLost .. => true
  | .relock => true
  | .commit .. => true
  | .circuitStart .. => true
  | .bankSwap .. => true
  | .droverWatchdog .. => true
  | .strike .. => true
  | .select .. => true
  | .reduce .. => true
  | .matrix .. => true
  | .attend .. => true
  | .vecAdd .. => true
  | .vecSub .. => true
  | .vecMul .. => true
  | .vecFma .. => true
  | .vecMin .. => true
  | .vecMax .. => true
  | .vecAbs .. => true
  | .vecCompare .. => true
  | .vecSelect .. => true
  | .vecConvert .. => true
  | .vecQuantise .. => true
  | .vecExp .. => true
  | .vecExp2 .. => true
  | .vecLog2 .. => true
  | .vecReciprocal .. => true
  | .vecRsqrt .. => true
  | .vecSqrt .. => true
  | .vecSigmoid .. => true
  | .vecTanh .. => true
  | .vecSilu .. => true
  | .vecGeluTanh .. => true
  | .vecGeluErf .. => true
  | .vecRotary .. => true
  | .vecSum .. => true
  | .vecReduceMax .. => true
  | .vecReduceMin .. => true
  | .vecSumOfSquares .. => true
  | .vecMinAndMax .. => true
  | .vecDbf8Encoding .. => true
  | .vecRmsnorm .. => true
  | .vecLayernorm .. => true
  | .vecSoftmax .. => true
  | .vecScaleTracker .. => true
  | .vecInputPlaneBundles .. => true
  | .frameMulticast .. => true
  | .waystationCopy .. => true
  | .roadsConvoy .. => true
  | .linkConvoy .. => true
  | .stackedMemoryRead .. => true
  | .readDataArrival _ _ n errs => decide (0 < n) && errs.all fun e => cwErrOk e.2
  | .stackedMemoryWrite .. => true
  | .kvBlockWrite .. => true
  | .stackedMemoryCopy .. => true
  | .sharedWindowMove .. => true
  | .staticRegionPack .. => true
  | .writeDrain e => cwErrOk e
  | .deadline .. => true
  | .hold .. => true
  | .holdStart .. => true
  | .consignmentComplete .. => true
  | .msixCoalesceExpiry .. => true
  | .tempRead .. => true
  | .calibration .. => true
  | .coefficientWrite .. => true
  | .sweep .. => true
  | .findingLocate _ _ cs => cs.all fun c => decide (c < 36)
  | .repairReprogram .. => true
  | .spareSubstitute .. => true
  | .neighbourAdjust .. => true
  | .closingSweep .. => true
  | .programDeck .. => true
  | .programLoop _ r => decide (r < 2059) || r == 2061
  | .journalPulse .. => true
  | .deckErase .. => true
  | .eraseLoop .. => true
  | .programmingResumption => true
  | .patrolVisit _ e _ => cwErrOk e
  | .bucketLeak .. => true
  | .phyGroupLost .. => true
  | .stackBringup .. => true
  | .ownedSlotFrame _ _ _ _ f => frameOk f
  | .unownedDataFrame _ f => frameOk f
  | .unownedReplayFrame _ f => frameOk f
  | .idleFrame _ f => frameOk f
  | .ack .. => true
  | .ackSend .. => true
  | .nak .. => true
  | .rekey .. => true
  | .lostn .. => true
  | .portLost .. => true
  | .portTrain _ p _ _ _ _ _ => decide (1 ≤ p) && decide (p ≤ 7)
  | .portRetry .. => true
  | .wakePatternDetect .. => true
  | .routeFormation ns => nodesOk ns
  | .perstN .. => true
  | .flr => true
  | .hotReset => true
  | .pcieFatalError => true
  | .tdiError => true
  | .ideFailure => true
  | .getVersion .. => true
  | .getCapabilities .. => true
  | .negotiateAlgorithms .. => true
  | .getDigests .. => true
  | .getCertificate .. => true
  | .challenge .. => true
  | .getMeasurements .. => true
  | .keyExchange .. => true
  | .finish .. => true
  | .heartbeat .. => true
  | .keyUpdate .. => true
  | .endSession .. => true
  | .setCertificate .. => true
  | .chunkSend .. => true
  | .chunkGet .. => true
  | .vendorDefinedRequest .. => true
  | .smbusBlockRead .. => true
  | .smbusMctp .. => true
  | .smbusAddressWake .. => true
  | .mgmtTlsConnect .. => true
  | .mgmtEnrol .. => true
  | .mgmtEvict .. => true
  | .mgmtReset .. => true
  | .mgmtDebugEnable .. => true
  | .mgmtPowerRequest .. => true
  | .tenantSwitch => true
  | .tamper .. => true
  | .powerOnReset .. => true
  | .rstNInput .. => true
  | .factorWatchdog => true
  | .thermalShutdown => true
  | .routeResetRequest .. => true
  | .stretchEnd => true
  | .optionLoading .. => true
  | .waits => true
  | .powerEntryComplete => true
  | .targetTrek => true
  | .hostPcieWake => true
  | .epochTimerWake => true
  | .campExit => true
  | .haltIdleTimer => true
  | .supplyWarning .. => true
  | .supplyValid .. => true
  | .ivrStart .. => true
  | .pumpStart .. => true
  | .regulatorLockout .. => true
  | .varrStep .. => true
  | .laneSupplyStep .. => true
  | .tollSample .. => true
  | .tollWindowEnd .. => true
  | .coreFence .. => true
  | .spareTakeover .. => true
  | .powerHintExpiry => true
  | .holdoverTimeout => true
  | .heartbeatTimeout .. => true
  | .debugPortAccess .. => true
  | .smbusEndpointReady => true

end Sys2Proof
end

