-- ==== Sys2Proof/Safety.lean ====
section
/-! DEFINITION. The terms in which claims about the block are stated: the memories' canonical form, the conditions under
which a command's own effect takes place, and the frames. -/

namespace Sys2Proof.Machine

/-- Every memory of bytes has its canonical form. -/
def MemoryOk (s : State) : Prop := s.mem.wf = true

/-- Every waiting command is well formed. -/
def QueueOk (s : State) : Prop := ∀ c ∈ s.pending, c.wf = true

/-- The state with command `c` at the front of its queue. -/
def queued (c : Instr) (s : State) : State := { s with pending := c :: s.pending }

/-! ## Mailbox messages (R356–R358) -/

/-- The Factor takes the next message of page `mb`, which has opcode `op` and passes every check made before the opcode's
own. -/
def Accepted (s : State) (mb : Mb) (op : Nat) : Prop :=
  msgPosted s mb = true ∧ msgOpcode (msgAt s mb) = op ∧ entryStatus s mb (msgAt s mb) = stOk

/-- The state in which an accepted message is acted on: the watermark has passed it and its granules are held. -/
def taken (s : State) (mb : Mb) : State := granHold (commitMsg s mb) (ownGrans s mb (msgAt s mb))

/-- The reply that ends the message of page `mb` that was taken in `s`, from the state `t` its effect leaves. -/
def answered (s t : State) (mb : Mb) (st : Byte) (payload : List Word) : State := finishMsg t mb (msgAt s mb) st payload

/-! ## Host accesses -/

/-- The state in which a host access that is served takes effect: it wakes the device and completes successfully. -/
def hostServed (s : State) : State := setResp (hostTouch s) .ok

/-- A write to a page register reaches it (R370, R415). -/
def PageOpen (s : State) (via : PageAccess) (page : Mb) : Prop :=
  pageReachable via page = true ∧ hostBlocked s = false ∧ ¬((hostTouch s).cus.tdi = .run ∧ via = .bar2 false) ∧
    (getMb (hostTouch s) page).crstBusy = false

/-! ## Legs (R262, R273, R277, R282) -/

/-- The Drover fetches leg `f` for a context, and issues it: its beat has not passed, its core runs, its circuit is live and has started, and the
leg has not issued. -/
def Fetches (s : State) (ctx : LegCtx) (f : Fetched) : Prop :=
  legFetched s ctx = some f ∧ s.alm.beat.toNat ≤ f.cyc / 8 ∧ legIssues (atCycle s f.cyc) ctx = true ∧ legDone s ctx = false

/-- A leg that the Drover issues is the one that a command names. -/
def Issued (s : State) (ctx : LegCtx) (b : LegBody) (f : Fetched) : Prop :=
  Fetches s ctx f ∧ legMalformed s (physOf s ctx.core) f.base f.bits = false ∧ legSpelt s (physOf s ctx.core) f.base f.bits b = true

/-- The physical core a leg runs on. -/
def legPhys (s : State) (ctx : LegCtx) (f : Fetched) : Nat := physOf (atLeg s ctx f.cyc) ctx.core

/-- A core's state at a leg's issue cycle. -/
def legCore (s : State) (ctx : LegCtx) (f : Fetched) : Core := getCore (atLeg s ctx f.cyc) (legPhys s ctx f)

/-- A vector leg is issued, its descriptor is in range, its unit is free, its accesses meet no others, and its ranges lie in the engagement's
pages. -/
def VecReady (s : State) (ctx : LegCtx) (vop : Byte) (d : VecDesc) (f : Fetched) : Prop :=
  Issued s ctx (.vector vop d) f ∧ vecOk vop.toNat d = true ∧ (legCore s ctx f).vecFree ≤ f.cyc ∧
    banksFree (legCore s ctx f) (vecUse vop.toNat d f.cyc) = true ∧
    foreignRange (atLeg s ctx f.cyc) (legPhys s ctx f) ctx.eng (vecRanges vop.toNat d) = none

/-- The state that a vector leg leaves: its unit is taken for the operation's cycles, and `out` is under way to the Waystation and the counters. -/
def vecUnderWay (s : State) (ctx : LegCtx) (vop : Byte) (d : VecDesc) (f : Fetched) (out : VecOut) : State :=
  let p := legPhys s ctx f
  let fin := f.cyc + (vopCycles vop.toNat d.fmtIn d.n).getD 0
  launch (takeUnit (atLeg s ctx f.cyc) p fin (vecUse vop.toNat d f.cyc)) ctx fin
    (.write (out.1.map fun x => (p, x.1, x.2)) out.2.1 (out.2.2.map fun q => (wsKey p q.1, q.2)))

/-- A PORTER leg of one OP is issued, its fields are in range, its channel is free and its accesses meet no others. -/
def PorterReady (s : State) (ctx : LegCtx) (l : PorterLeg) (op : Nat) (f : Fetched) : Prop :=
  Issued s ctx (.porter l) f ∧ porterOk l op = true ∧ vget 0 (legCore s ctx f).chanFree l.chan ≤ f.cyc ∧
    banksFree (legCore s ctx f) (porterUse l.desc f.cyc (readDl (atLeg s ctx f.cyc) ctx l - 2)) = true

/-- The state in which a PORTER leg takes effect: its channel is taken for `busy` beats. -/
def porterTaken (s : State) (ctx : LegCtx) (l : PorterLeg) (busy : Nat) (f : Fetched) : State :=
  takeChan (atLeg s ctx f.cyc) (legPhys s ctx f) l.chan (f.cyc + 8 * busy)
    (porterUse l.desc f.cyc (readDl (atLeg s ctx f.cyc) ctx l - 2))

/-- A convoy of one network is issued, its fields are in range, its lane is free, its accesses meet no others, and its source is the engagement's. -/
def ConvoyReady (s : State) (ctx : LegCtx) (l : ConvoyLeg) (net : Nat) (f : Fetched) : Prop :=
  Issued s ctx (.convoy l) f ∧ convoyOk l net = true ∧ laneIdle (atLeg s ctx f.cyc) (legPhys s ctx f) l.desc.lane = true ∧
    banksFree (legCore s ctx f) (convoyUse l.desc (atLeg s ctx f.cyc).alm.beat.toNat) = true ∧
    foreignRange (atLeg s ctx f.cyc) (legPhys s ctx f) ctx.eng (rowRanges l.desc.src l.desc.sstride l.desc.len l.desc.rows false) = none

/-- The state in which a convoy takes effect: its lane is taken for NSLOT beats. -/
def convoyTaken (s : State) (ctx : LegCtx) (l : ConvoyLeg) (f : Fetched) : State :=
  let t := atLeg s ctx f.cyc
  takeBanks (modCore t (legPhys s ctx f) fun c => { c with laneFree := vmod c.laneFree l.desc.lane fun _ => t.alm.beat.toNat + l.nslot })
    (legPhys s ctx f) (convoyUse l.desc t.alm.beat.toNat)

/-- The vector legs of a context, each with its operation. -/
def vecForms (ctx : LegCtx) (d : VecDesc) (tag : BitVec 16) : List (Instr × Byte) :=
  [(.vecAdd ctx d, 0x01), (.vecSub ctx d, 0x02), (.vecMul ctx d, 0x03), (.vecFma ctx d, 0x04), (.vecMin ctx d, 0x05), (.vecMax ctx d, 0x06),
   (.vecAbs ctx d, 0x07), (.vecCompare ctx d, 0x08), (.vecSelect ctx d, 0x09), (.vecConvert ctx d, 0x10), (.vecQuantise ctx d, 0x11),
   (.vecExp ctx d, 0x20), (.vecExp2 ctx d, 0x21), (.vecLog2 ctx d, 0x22), (.vecReciprocal ctx d, 0x23), (.vecRsqrt ctx d, 0x24),
   (.vecSqrt ctx d, 0x25), (.vecSigmoid ctx d, 0x26), (.vecTanh ctx d, 0x27), (.vecSilu ctx d, 0x28), (.vecGeluTanh ctx d, 0x29),
   (.vecGeluErf ctx d, 0x2A), (.vecRotary ctx d, 0x30), (.vecSum ctx d, 0x40), (.vecReduceMax ctx d, 0x41), (.vecReduceMin ctx d, 0x42),
   (.vecSumOfSquares ctx d, 0x43), (.vecMinAndMax ctx d, 0x44), (.vecDbf8Encoding ctx d, 0x50), (.vecRmsnorm ctx d, 0x60),
   (.vecLayernorm ctx d, 0x61), (.vecSoftmax ctx d, 0x62), (.vecScaleTracker ctx d, 0x70), (.vecInputPlaneBundles ctx d tag, 0x71)]

/-- The PORTER legs of a context, each with its OP. -/
def porterForms (ctx : LegCtx) (l : PorterLeg) (replay : Bool) : List (Instr × Nat) :=
  [(.frameMulticast ctx l, 1), (.waystationCopy ctx l, 2), (.stackedMemoryRead ctx l, 5), (.stackedMemoryWrite ctx l replay, 6), (.kvBlockWrite ctx l, 7)]

/-- The convoys of a context, each with its network. -/
def convoyForms (ctx : LegCtx) (l : ConvoyLeg) : List (Instr × Nat) := [(.roadsConvoy ctx l, 0), (.linkConvoy ctx l, 1)]

/-- The operands of one leg of every class. -/
structure LegOperands where
  strike : StrikeLeg
  select : SelectLeg
  reduce : ReduceLeg
  matrix : MatrixDesc
  attend : AttnDesc
  vector : VecDesc
  tag : BitVec 16
  porter : PorterLeg
  replay : Bool
  convoy : ConvoyLeg
  deriving DecidableEq, Repr

/-- Every leg command of a context, with the leg it names. -/
def legForms (ctx : LegCtx) (x : LegOperands) : List (Instr × LegBody) :=
  [(.strike ctx x.strike, .strike x.strike), (.select ctx x.select, .select x.select), (.reduce ctx x.reduce, .reduce x.reduce),
   (.matrix ctx x.matrix, .matrix x.matrix), (.attend ctx x.attend, .attend x.attend)] ++
    (vecForms ctx x.vector x.tag).map (fun v => (v.1, .vector v.2 x.vector)) ++
    (porterForms ctx x.porter x.replay).map (fun v => (v.1, .porter x.porter)) ++ (convoyForms ctx x.convoy).map (fun v => (v.1, .convoy x.convoy))

/-- A core's first schedule fault is recorded, in the state a leg leaves that is not acted on. -/
def faulted (s : State) (ctx : LegCtx) (cause : Nat) : State :=
  modCore s (physOf s ctx.core) fun k =>
    if k.fValid then k else { k with fValid := true, fCause := BitVec.ofNat 4 cause, fEng := BitVec.ofNat 6 ctx.eng.val, fLeg := ctx.leg }

/-- An effect that alone is under way comes about, once its cycle has come, as `g` says. -/
def ComesAbout (w : Land) (g : State → Flight → State) : Prop :=
  ∀ (s : State) (f : Flight) (cc : Nat), s.flights = [f] → f.what = w → f.due ≤ cc → landDue s cc = g { s with flights := [] } f

end Sys2Proof.Machine
end

