-- ==== Sys2Proof/Certificates/Slice0/Obligations.lean ====
section
/-! DEFINITION. The statements about the block: what its commands do, where they complete, what they leave unchanged, and the
invariants of a step. -/

open Sys2Proof Sys2Proof.Machine

/-- A step takes the command at the front of the queue and runs it with the queue's rest. -/
def Obligations.StepRunsTheFrontCommand : Prop :=
  ∀ (s : State) (c : Instr) (rest : List Instr), s.pending = c :: rest → step s = exec c { s with pending := rest }

/-- The model's choice (log 9): with no command waiting one beat of the clock passes: the count rises by one, and what legs have under way comes
about in it. With nothing under way only the Almanac and the counter snapshot of R458 change; with the phase-locked loop unlocked nothing
changes. -/
def Obligations.EmptyQueuePassesABeat : Prop :=
  ∀ s : State, s.pending = [] →
    ∃ t, step s = .next t ∧ t.alm.beat = (if s.alm.pllLock then s.alm.beat + 1 else s.alm.beat) ∧
      (s.flights = [] → t = { s with alm := t.alm, snap := t.snap }) ∧ (s.alm.pllLock = false → t = s) ∧
      (s.alm.pllLock = true → (s.alm.beat + 1).toNat / 200 = s.alm.beat.toNat / 200 → t.flights = (landDue s (8 * (s.alm.beat + 1).toNat)).flights ∧
        t.mem = (landDue s (8 * (s.alm.beat + 1).toNat)).mem)

/-- No command but an access of the debug port ends in a fault, and none is refused: every command completes. The model's choices in it: log
36. -/
def Obligations.CommandsComplete : Prop :=
  ∀ (c : Instr) (s : State), (∀ d, c ≠ .debugPortAccess d) → ∃ t, exec c s = .next t

/-- No command puts a command into the queue or takes one out of it. -/
def Obligations.CommandsLeaveTheQueue : Prop :=
  ∀ (c : Instr) (s t : State), exec c s = .next t → t.pending = s.pending

/-- The queue is first in, first out: a step removes its front command and nothing else, and well-formed commands stay so. -/
def Obligations.QueueIsConsumedInOrder : Prop :=
  ∀ s t : State, QueueOk s → step s = .next t → t.pending = s.pending.tail ∧ QueueOk t

/-- Every step keeps the canonical form of every memory of bytes. -/
def Obligations.StepsKeepMemoryCanonical : Prop :=
  ∀ s t : State, MemoryOk s → step s = .next t → MemoryOk t

/-- The state after reset has canonical memories and an empty queue. The model's choices in it: log 117. -/
def Obligations.ResetHasCanonicalMemory : Prop :=  MemoryOk State.reset ∧ QueueOk State.reset ∧ State.reset.pending = []

/-- What the memories' accessors read after a run of bytes was written: the run inside it, the old bytes everywhere else, in the Waystations
and in the stacked memory. -/
def Obligations.MemoriesReadWhatWasWritten : Prop :=
  (∀ (s : State) (p a : Nat) (bs : List MByte) (k : Nat),
     sget 0 (wsWrite s p a bs).mem.ws k =
       if wsKey p a ≤ k ∧ k < wsKey p a + bs.length then ((bs.map Prod.fst)[k - wsKey p a]?).getD 0 else sget 0 s.mem.ws k) ∧
  (∀ (s : State) (pa : Nat) (bs : List MByte) (k : Nat),
     sget 0 (smWrite s pa bs).mem.sm k =
       if pa ≤ k ∧ k < pa + bs.length then ((bs.map Prod.fst)[k - pa]?).getD 0 else sget 0 s.mem.sm k)

/-- A Factor message enters the ring at OUT_PI while the ring has room, no message waits before it and no completion of an earlier queue epoch is owed; only the page changes. A message that
the Factor takes and that a check before its opcode's own refuses is answered with that check's status and has no other effect, whatever its
opcode: the granules it names return to HOST before the reply, but for a malformed message, whose granule fields are not read. A message
whose opcode is not defined is answered BAD_FORMAT with the opcode echoed; LEN 0 is the model's choice (log 22). -/
def Obligations.MessagesAreAnswered : Prop :=
  (∀ (s : State) (mb : Mb) (op seq st : Byte) (payload : List Word),
     outFull (getMb s mb) = false → (getMb s mb).held = [] → owesOld (getMb s mb) = false → s.fac.up = true → (getMb s mb).irqEn = false →
     reply s mb op seq st payload = modMb s mb fun p =>
       { p with
         outRing := ssetRun 0 p.outRing ((getMb s mb).outPi.toNat % 64 * 16)
           ((factorMsg op seq mb false (statusWord st 0 0) payload ++ List.replicate 16 0).take 16)
         outPi := p.outPi + 1 }) ∧
  (∀ (s : State) (mb : Mb) (pf pt : Plan) (ok : Bool), msgPosted s mb = true → entryStatus s mb (msgAt s mb) ≠ stOk →
     ∀ x ∈ ([(0x01, .hello mb), (0x02, .admitModel mb), (0x03, .release mb), (0x04, .rebind mb pf pt), (0x10, .programWaybill mb),
         (0x11, .verifyDecks mb), (0x12, .seal mb), (0x13, .unseal mb), (0x14, .eraseDecks mb), (0x20, .submit mb), (0x21, .cancel mb),
         (0x30, .queryLedger mb), (0x31, .queryHealth mb), (0x32, .readErrorLedger mb), (0x40, .fenceCore mb), (0x41, .unfenceCore mb ok),
         (0x50, .spdmTunnel mb), (0x51, .keyDeliver mb), (0x60, .powerHint mb), (0x70, .debugConsent mb),
         (0x7F, .resetEngagement mb)] : List (Nat × Instr)),
       msgOpcode (msgAt s mb) = x.1 →
       exec x.2 s = .next (refuseMsg (commitMsg s mb) mb (msgAt s mb) (entryStatus s mb (msgAt s mb)))) ∧
  (∀ (s : State) (mb : Mb) (w : List Word) (st : Byte),
     (st ≠ stBadFormat → refuseMsg s mb w st =
       reply (granRelease (granHold s (ownGrans s mb w)) (ownGrans s mb w)) mb (BitVec.ofNat 8 (msgOpcode w)) (BitVec.ofNat 8 (msgSeq w)) st []) ∧
     (st = stBadFormat → refuseMsg s mb w st =
       reply (granRelease (granHold s []) []) mb (BitVec.ofNat 8 (msgOpcode w)) (BitVec.ofNat 8 (msgSeq w)) st [])) ∧
  (∀ (s : State) (mb : Mb), msgPosted s mb = true → opMasks (msgOpcode (msgAt s mb)) = none →
     exec (.undefinedOpcode mb) s = .next (sendOut (commitMsg s mb) mb
       [packWord [(msgOpcode (msgAt s mb), 0, 8), (msgSeq (msgAt s mb), 8, 8), (mb.val, 16, 5), (0, 21, 4), (1, 25, 1)], statusWord stBadFormat 0 0]))

/-- HELLO, QUERY_HEALTH and VERIFY_DECKS report and change nothing but their message's own trace: HELLO the firmware, the device's place and the
free entries of the queue; QUERY_HEALTH the fenced cores, spares, LOST ports, open findings, uncorrectable errors and the hottest tile;
VERIFY_DECKS the decks done and calibrated, partial, and with a finding, or SEALED where one is sealed. QUERY_LEDGER and READ_ERROR_LEDGER
write their report into the granules the message names, and no more bytes or records of it than asked; READ_ERROR_LEDGER also gives the SEQ to
ask for next and the oldest SEQ held. The model's choices in it: log 39, 85, 86. -/
def Obligations.QueriesAreAnswered : Prop :=
  ((∀ (s : State) (mb : Mb), Accepted s mb 0x01 →
     exec (.hello mb) s = .next (answered s (taken s mb) mb stOk
       [ (taken s mb).fac.ver, (taken s mb).fac.build,
         packWord [((taken s mb).hzl.devnum.toNat, 0, 6), ((taken s mb).hzl.ndev.toNat, 6, 7), (b2n (taken s mb).cus.conf, 13, 1),
           (b2n (decide (mb.val = 16)), 14, 1)],
         packWord [((getMb (taken s mb) mb).qepoch.toNat, 0, 8), (freeEntries (taken s mb) mb, 8, 9)] ])) ∧
   (∀ (s : State) (mb : Mb), Accepted s mb 0x31 →
     let t := taken s mb
     let ue (p : Ptl) : Nat := (p.stack.toList.map fun k => k.ue.toNat).sum
     exec (.queryHealth mb) s = .next (answered s t mb stOk
       [ wordOf (packNat ((List.range 32).map fun c => (b2n (mapFenced (vget {} t.ldg.map c)), c, 1))),
         packWord [(t.ldg.spares.length, 0, 2), ((t.hzl.ports.toList.filter fun p => decide (p.st = .lost)).length, 2, 8),
           (countView t (openFindings t) (openFindings t), 10, 16)],
         wordOf (countView t (ue t.ptl) (ue t.snap.ptl)), wordOf (tempView t) ])) ∧
   (∀ (s : State) (mb : Mb), Accepted s mb 0x11 →
     let ds := (engDeckKeys (taken s mb) (engField (msgAt s mb))).map (getDeck (taken s mb))
     exec (.verifyDecks mb) s = .next
       (if ds.any deckSealed then answered s (taken s mb) mb stSealed []
        else answered s (taken s mb) mb stOk
          [ wordOf (ds.filter fun d => deckDone d && !d.uncal).length, wordOf (ds.filter deckPartial).length,
            wordOf (ds.filter deckHasFinding).length ]))) ∧
  ((∀ (s : State) (mb : Mb), Accepted s mb 0x30 →
     let t := taken s mb
     let w := msgAt s mb
     let e := if bitOf (wordAt w 1) 6 then none else some (engField w)
     let es := reportEngs e
     let rep := (ledgerReport t e).take (wordAt w 3)
     exec (.queryLedger mb) s = .next (answered s (winWrite t (wordAt w 2) (markAll false rep)) mb stOk
       [ wordOf (seen t (decksHeld t es)), wordOf (seen t (deckCapacity t - decksHeld t (List.range 64))), wordOf (seen t (4 * wsHeld t es)),
         wordOf (seen t (unitsHeld t es 0x03)), wordOf (seen t (unitsHeld t es 0x07)), wordOf rep.length ])) ∧
   (∀ (s : State) (mb : Mb), Accepted s mb 0x32 →
     let t := taken s mb
     let w := msgAt s mb
     let all := sortBy (fun (f : Finding) => f.seq.toNat) t.asy.ring
     let fs := all.filter fun f => decide (wordAt w 1 ≤ f.seq.toNat) && mayRead t mb f
     let out := fs.take (wordAt w 3)
     exec (.readErrorLedger mb) s = .next (answered s (winWrite t (wordAt w 2) (markAll false (out.flatMap (findingBytes t)))) mb stOk
       [ wordOf out.length, ((fs.drop (wordAt w 3)).map Finding.seq).headD t.asy.nextSeq, (all.map Finding.seq).headD t.asy.nextSeq ])))

/-- POWER_HINT 0 to 2 stores the hint and its time, no time for hint 0, has the target chosen anew, and is answered OK; hint 2 also leaves Halt;
hint 3 is answered BAD_FORMAT. DEBUG_CONSENT of the tenant sets or clears the bits of its mask in DEBUG, counts a grant, takes the beat count
and is answered with the number of the measurement block that reports it; of anyone else, or of a scope that does not exist, POLICY. RELEASE
aborts the engagement's consignments, stops its programming and unbinds it; with no itinerary the release ends at once, else its itineraries
leave at the swap beat it names and the release ends there. RESET_ENGAGEMENT aborts its consignments, clears its trackers and the tables of
its packed regions, stops its programming, lets its next circuit carry no work, and is answered OK. The model's choices in it: log 46. -/
def Obligations.HintsConsentAndReleases : Prop :=
  (∀ (s : State) (mb : Mb), Accepted s mb 0x60 →
     let h := bitsOf (wordAt (msgAt s mb) 1) 0 2
     let t := taken s mb
     let u := retarget { t with pwr := { t.pwr with hint := BitVec.ofNat 2 h
                                                    hintMs := if h = 0 then 0 else BitVec.ofNat 32 (wordAt (msgAt s mb) 2) } }
     (h < 2 → exec (.powerHint mb) s = .next (answered s u mb stOk [])) ∧
     (h = 2 → exec (.powerHint mb) s = .next (answered s (leaveHalt u 6) mb stOk [])) ∧
     (h = 3 → exec (.powerHint mb) s = .next (answered s t mb stBadFormat []))) ∧
  (∀ (s : State) (mb : Mb), Accepted s mb 0x70 →
     let m := BitVec.ofNat 4 (wordAt (msgAt s mb) 1)
     let t := taken s mb
     (tenantRights t mb = true → wordAt (msgAt s mb) 1 < 16 → exec (.debugConsent mb) s = .next (answered s
       (if bitOf (wordAt (msgAt s mb) 2) 0 then
          { t with cus := { t.cus with scopes := t.cus.scopes ||| m, grants := t.cus.grants + 1, consentBeat := beat200 t } }
        else { t with cus := { t.cus with scopes := t.cus.scopes &&& ~~~m, consentBeat := beat200 t } }) mb stOk [6])) ∧
     (tenantRights t mb = false ∨ 16 ≤ wordAt (msgAt s mb) 1 → exec (.debugConsent mb) s = .next (answered s t mb stPolicy []))) ∧
  ((∀ (s : State) (mb : Mb), Accepted s mb 0x03 →
     let e := engField (msgAt s mb)
     let t := modEng (pushRec (stopEngProgramming (abortCons (taken s mb) e) e) mb (msgAt s mb) { opcode := 0, seq := 0, eng := e, grans := [] }) e
       fun g => { g with bound := 0 }
     (hasItins t e = false → exec (.release mb) s = .next (finishRelease t e)) ∧
     (hasItins t e = true → exec (.release mb) s = .next
       (nameSwap (modEng { t with cores := t.cores.map fun c =>
           { c with itins := c.itins.map fun i => if i.eng.val = e then { i with remove := true } else i } } e fun g =>
             { g with nextSt := some .free }) e (swapBeat t (getEng t e).route)))) ∧
   (∀ (s : State) (mb : Mb), Accepted s mb 0x7F →
     let e := engField (msgAt s mb)
     let t := stopEngProgramming (clearTables (clearTrackers (abortCons (taken s mb) e) e) e) e
     exec (.resetEngagement mb) s = .next (answered s (modEng t e fun g => { g with skipNext := true, buf0 := {}, buf1 := {} }) mb stOk [])))

/-- SUBMIT of a consignment of at least one token, of an engagement that takes consignments, queues it in the lowest free entry and acknowledges
it with QSLOT, QEPOCH and its position; with no free entry it is answered FULL and leaves no trace; with no token it is answered BAD_FORMAT,
and an engagement that takes none answers as its state says (R385): READY, SHADOW and, in a takeover or an exchange of spares, SUSPENDED take
them; a PLACING, LOADING or other SUSPENDED one is FENCED, a RESIDENT one SEALED or FENCED, a FREE one NOT_OWNER. CANCEL of a consignment that
no circuit carries yet ends it with no token done; of one in progress it marks it to stop; of none, of one that has ended and of one of
another epoch it does nothing. Each is answered OK. The model's choices in it: log 38. -/
def Obligations.ConsignmentsAreQueuedAndCancelled : Prop :=
  (∀ (s : State) (mb : Mb), Accepted s mb 0x20 →
     let t := taken s mb
     let e := engField (msgAt s mb)
     (wordAt (msgAt s mb) 7 = 0 → exec (.submit mb) s = .next (answered s t mb stBadFormat [])) ∧
     (wordAt (msgAt s mb) 7 ≠ 0 →
       ((getEng t e).st = .ready ∨ (getEng t e).st = .shadow ∨ ((getEng t e).st = .suspended ∧ ((getEng t e).takeover ∨ (getEng t e).replacing))) →
       exec (.submit mb) s = .next
         (match (List.range 256).find? fun i => (sfind (getMb t mb).queue i).isNone with
          | none => answered s t mb stFull []
          | some q =>
            let x := queueEntry t mb (msgAt s mb)
            reply { modMb t mb (fun p => { p with queue := sput p.queue q x }) with order := t.order + 1 } mb 0x20 x.seq stOk
              [packWord [(q, 0, 8), ((getMb t mb).qepoch.toNat, 8, 8), ((getMb t mb).queue.length, 16, 9)]])) ∧
     (wordAt (msgAt s mb) 7 ≠ 0 →
       ((getEng t e).st = .free → exec (.submit mb) s = .next (answered s t mb stNotOwner [])) ∧
       ((getEng t e).st = .placing ∨ (getEng t e).st = .loading ∨
           ((getEng t e).st = .suspended ∧ (getEng t e).takeover = false ∧ (getEng t e).replacing = false) ∨
           ((getEng t e).st = .resident ∧ anySealed t e = false) →
         exec (.submit mb) s = .next (answered s t mb stFenced [])) ∧
       ((getEng t e).st = .resident → anySealed t e = true → exec (.submit mb) s = .next (answered s t mb stSealed [])))) ∧
  (∀ (s : State) (mb : Mb), Accepted s mb 0x21 →
     let t := taken s mb
     let q := bitsOf (wordAt (msgAt s mb) 1) 0 8
     (∀ x : QEntry, getQ t mb q = some x → x.qepoch.toNat = bitsOf (wordAt (msgAt s mb) 1) 8 8 →
       (x.st = .queued → exec (.cancel mb) s = .next (answered s (endCons t mb q stOk) mb stOk [])) ∧
       (x.st = .started → exec (.cancel mb) s = .next (answered s (modQ t mb q fun y => { y with cancelled := true }) mb stOk []))) ∧
     ((getQ t mb q = none ∨ ∃ x, getQ t mb q = some x ∧ (x.st = .ended ∨ x.qepoch.toNat ≠ bitsOf (wordAt (msgAt s mb) 1) 8 8)) →
       exec (.cancel mb) s = .next (answered s t mb stOk [])))

/-- SEAL sets the next mark of every public deck of the engagement that is done and leaves it open, but is answered BUSY while one of its decks is
in programming or erase; UNSEAL, with every deck open and a mark left on each, sets the next mark of every private one, and is answered
SEALED or POLICY otherwise; each answers with the number of decks. ERASE_DECKS of a RESIDENT engagement whose decks are all open, and with ALL
on the privileged mailbox of every erasable deck, queues each deck for erase and stays a long-running message; it is answered POLICY, BUSY or,
with no deck to erase, OK at once. FENCE_CORE of a core in service stays a long-running message until the fence. The model's choices in it:
log 35, 47. -/
def Obligations.DeckMessages : Prop :=
  ((∀ (s : State) (mb : Mb), Accepted s mb 0x12 →
     let t := taken s mb
     let ks := engDeckKeys t (engField (msgAt s mb))
     let pub := ks.filter fun k => (getDeck t k).jDone && (getDeck t k).marks % 2 == 1
     ((ks.any fun k => deckBusy (getDeck t k)) = false →
       exec (.seal mb) s = .next (answered s
         (markDecks (forEach pub t fun s k => modDeck s k fun d => { d with opened := true }) pub) mb stOk [BitVec.ofNat 32 pub.length])) ∧
     ((ks.any fun k => deckBusy (getDeck t k)) = true → exec (.seal mb) s = .next (answered s t mb stBusy []))) ∧
   (∀ (s : State) (mb : Mb), Accepted s mb 0x13 →
     let t := taken s mb
     let ks := engDeckKeys t (engField (msgAt s mb))
     let priv := ks.filter fun k => (getDeck t k).jDone && !((getDeck t k).marks % 2 == 1)
     ((ks.any fun k => !deckOpen (getDeck t k)) = true → exec (.unseal mb) s = .next (answered s t mb stSealed [])) ∧
     ((ks.any fun k => !deckOpen (getDeck t k)) = false →
       ((priv.any fun k => 32 ≤ (getDeck t k).marks) = false →
         exec (.unseal mb) s = .next (answered s (markDecks t priv) mb stOk [BitVec.ofNat 32 priv.length])) ∧
       ((priv.any fun k => 32 ≤ (getDeck t k).marks) = true → exec (.unseal mb) s = .next (answered s t mb stPolicy []))))) ∧
  ((∀ (s : State) (mb : Mb), Accepted s mb 0x14 →
     let t := taken s mb
     let e := engField (msgAt s mb)
     let all := bitOf (wordAt (msgAt s mb) 1) 8
     let ks := if all then allErasable t else engDeckKeys t e
     let allowed : Prop := (all = true ∧ mb.val = 16) ∨ (all = false ∧ (getEng t e).st = .resident ∧ ∀ k ∈ ks, deckOpen (getDeck t k) = true)
     (¬allowed → exec (.eraseDecks mb) s = .next (answered s t mb stPolicy [])) ∧
     (allowed → (∃ k ∈ ks, deckBusy (getDeck t k) = true) → exec (.eraseDecks mb) s = .next (answered s t mb stBusy [])) ∧
     (allowed → (∀ k ∈ ks, deckBusy (getDeck t k) = false) →
       (ks = [] → exec (.eraseDecks mb) s = .next (answered s t mb stOk [0, 0])) ∧
       (ks ≠ [] → exec (.eraseDecks mb) s = .next
         (pushRec (forEach ks t queueErase) mb (msgAt s mb) { opcode := 0, seq := 0, eng := if all then 64 else e, grans := [], decks := ks })))) ∧
   (∀ (s : State) (mb : Mb), Accepted s mb 0x40 →
     let t := taken s mb
     let c := bitsOf (wordAt (msgAt s mb) 1) 0 5
     isFenced t c = false → fenceBusy t = false →
     exec (.fenceCore mb) s = .next (pushRec t mb (msgAt s mb) { opcode := 0, seq := 0, eng := c, grans := [] })))

/-- The registers of a mailbox page: a legal MBX_IN_DB moves PI, any other is logged and sets ERR; MBX_OUT_ACK moves CI and lets held messages
and completions out; CLR_ERR clears ERR; CRST starts a consignor reset, which the Factor performs at once while it is up, and when it comes up otherwise. A write to a free
inbound slot is stored; to a posted slot or the outbound ring it changes the page in nothing and is logged as a violation. The end of a page's coalescing time signals the vector if a message waits for it, and stops
the timer if none does. The model's choices in it: log 2. -/
def Obligations.PageRegistersAreWritten : Prop :=
  ((∀ (s : State) (via : PageAccess) (page : Mb) (v : Word), PageOpen s via page →
     let t := hostServed s
     let p := getMb t page
     (p.pi.toNat + 128 - p.wmark.toNat) % 128 ≤ (fieldOf v 0 7 + 128 - p.wmark.toNat) % 128 →
     (fieldOf v 0 7 + 128 - p.wmark.toNat) % 128 ≤ 64 →
     exec (.mbxInDb via page v) s = .next (modMb t page fun p => { p with pi := BitVec.ofNat 7 (fieldOf v 0 7) })) ∧
   (∀ (s : State) (via : PageAccess) (page : Mb) (v : Word), PageOpen s via page →
     let t := hostServed s
     let p := getMb t page
     ¬((p.pi.toNat + 128 - p.wmark.toNat) % 128 ≤ (fieldOf v 0 7 + 128 - p.wmark.toNat) % 128 ∧ (fieldOf v 0 7 + 128 - p.wmark.toNat) % 128 ≤ 64) →
     exec (.mbxInDb via page v) s = .next (setMbErr (logViolation t
       { addr := BitVec.ofNat 32 (pageOffset via page 0), req := Config.hostRequester, src := pageSrc via, write := true,
         cid := BitVec.ofNat 5 page.val }) page)) ∧
   (∀ (s : State) (via : PageAccess) (page : Mb) (v : Word), PageOpen s via page →
     exec (.mbxOutAck via page v) s = .next
       (flushCompletions (modMb (hostServed s) page fun p => { p with ci := BitVec.ofNat 7 (fieldOf v 0 7) }) page)) ∧
   (∀ (s : State) (via : PageAccess) (page : Mb), PageOpen s via page →
     exec (.mbxClrErr via page) s = .next (modMb (hostServed s) page fun p => { p with err := false })) ∧
   (∀ (s : State) (via : PageAccess) (page : Mb), PageOpen s via page → ((hostServed s).fac.up = true →
       exec (.crst via page) s = .next (performCrst (modMb (hostServed s) page fun p => { p with crstBusy := true }) page)) ∧
     ((hostServed s).fac.up = false →
       let t := modMb (hostServed s) page fun p => { p with crstBusy := true }
       exec (.crst via page) s = .next
         { t with fac := { t.fac with crstPending := t.fac.crstPending ||| BitVec.ofNat 17 (2 ^ page.val) } }))) ∧
  ((∀ (s : State) (via : PageAccess) (page : Mb) (slot : Fin 64) (word : Fin 16) (v : Word), PageOpen s via page →
     slotPosted (getMb (hostServed s) page) slot = false →
     exec (.inboundSlotWrite via page false slot word v) s = .next
       (modMb (hostServed s) page fun p => { p with inRing := sset 0 p.inRing (slot.val * 16 + word.val) v })) ∧
   (∀ (s : State) (via : PageAccess) (page : Mb) (out : Bool) (slot : Fin 64) (word : Fin 16) (v : Word), PageOpen s via page →
     out = true ∨ slotPosted (getMb (hostServed s) page) slot = true →
     exec (.inboundSlotWrite via page out slot word v) s = .next
       (logViolation (hostServed s)
         { addr := BitVec.ofNat 32 (pageOffset via page ((if out then 0x2000 else 0x1000) + slot.val * 64 + word.val * 4)), req := Config.hostRequester, src := pageSrc via,
           write := true, cid := BitVec.ofNat 5 page.val }))) ∧
  ((∀ (s : State) (page : Mb), (getMb s page).coalRunning = true → (getMb s page).coalPending = true →
     exec (.msixCoalesceExpiry page) s = .next
       (fireVector (modMb s page fun p => { p with coalPending := false, coalRunning := decide ((getMb s page).coal ≠ 0) }) page)) ∧
   (∀ (s : State) (page : Mb), (getMb s page).coalRunning = true → (getMb s page).coalPending = false →
     exec (.msixCoalesceExpiry page) s = .next (modMb s page fun p => { p with coalRunning := false })))

/-- Granules: MBX_GRAN_REQ hands a whole run of HOST granules of the page to the device; the privileged register takes a granule from NONE to
HOST with a consignor, from HOST to NONE and from HOST to DEVICE; the first granule of a page takes the lowest free page. The shared window: a
read of HOST granules returns their bytes, marked where they are poisoned, a write stores them; a read of any other granule is aborted and
logged, a write discarded and logged; in bounce mode a read is answered with zeros and a write discarded and logged. The model's choices in it: log 2, 11. -/
def Obligations.WindowAndGranules : Prop :=
  ((∀ (s : State) (via : PageAccess) (page : Mb) (v : Word), PageOpen s via page →
     let t := hostServed s
     let ks := (List.range (fieldOf v 16 16 + 1)).map (fieldOf v 0 16 + ·)
     (∀ k ∈ ks, k < 65536 ∧ (getGran t k).flag = granHost ∧ (page.val = 16 ∨ (getGran t k).cid.toNat = page.val)) →
     exec (.mbxGranReq via page v) s = .next (forEach ks t handOver)) ∧
   (∀ (s : State) (g : Fin 65536) (v : Word) (p : Nat), hostBlocked s = false →
     let t := hostServed s
     (getGran t g).flag = granNone → fieldOf v 0 2 = 1 → fieldOf v 2 5 < 16 →
     (sfind t.granPage (g.val / 32) = some p →
       exec (.mbxGranWrite g v) s = .next (modGran t g fun _ => { flag := granHost, cid := BitVec.ofNat 5 (fieldOf v 2 5) })) ∧
     (sfind t.granPage (g.val / 32) = none → freePages t 1 = some [p] →
       exec (.mbxGranWrite g v) s = .next
         (modGran { t with granPage := sput t.granPage (g.val / 32) p } g fun _ => { flag := granHost, cid := BitVec.ofNat 5 (fieldOf v 2 5) }))) ∧
   (∀ (s : State) (g : Fin 65536) (v : Word), hostBlocked s = false →
     (getGran (hostServed s) g).flag = granHost → fieldOf v 0 2 = 2 → exec (.mbxGranWrite g v) s = .next (handOver (hostServed s) g)) ∧
   (∀ (s : State) (g : Fin 65536) (v : Word), hostBlocked s = false →
     let t := hostServed s
     (getGran t g).flag = granHost → fieldOf v 0 2 = 0 →
     exec (.mbxGranWrite g v) s = .next (granTidy (modGran t g fun _ => {}) (g.val / 32)))) ∧
  ((∀ (s : State) (a : Word) (n : Nat) (ide : Bool) (req : BitVec 16), hostBlocked s = false →
     let t := hostTouch s
     (t.cus.tdi = .run → ide = true) → rangeHost t a.toNat n = true →
     (t.cus.bounce = false → anyMark (winRead t a.toNat n) = false →
       exec (.bar4Read a n ide req) s = .next (setResp t (.data (winBytes t a.toNat n)))) ∧
     (t.cus.bounce = false → anyMark (winRead t a.toNat n) = true →
       exec (.bar4Read a n ide req) s = .next (setResp (aerNonFatal t) (.poisoned (winBytes t a.toNat n)))) ∧
     (t.cus.bounce = true → exec (.bar4Read a n ide req) s = .next (setResp t (.data (List.replicate n 0))))) ∧
   (∀ (s : State) (a : Word) (n : Nat) (ide : Bool) (req : BitVec 16), hostBlocked s = false →
     let t := hostTouch s
     (t.cus.tdi = .run → ide = true) → rangeHost t a.toNat n = false →
     exec (.bar4Read a n ide req) s = .next (setResp (logViolation t { addr := BitVec.ofNat 32 a.toNat, req := req, src := 2, write := false, cid := 0x1F })
       .completerAbort)) ∧
   (∀ (s : State) (a : Word) (d : List Byte) (ide : Bool) (req : BitVec 16), hostBlocked s = false →
     let t := hostTouch s
     (t.cus.tdi = .run → ide = true) → 
     let u := setResp (logViolation t { addr := BitVec.ofNat 32 a.toNat, req := req, src := 2, write := true, cid := 0x1F }) .discarded
     (rangeHost t a.toNat d.length = true → t.cus.bounce = false →
       exec (.bar4Write a d ide false req) s = .next (winWrite (setResp t .ok) a.toNat (markAll false d))) ∧
     (rangeHost t a.toNat d.length = true → t.cus.bounce = true → exec (.bar4Write a d ide false req) s = .next u) ∧
     (rangeHost t a.toNat d.length = false → exec (.bar4Write a d ide false req) s = .next (aerNonFatal u))))

/-- An access of a consignor to a privileged register is aborted or discarded and logged with SRC 1; a configuration request is served once
option loading has ended, a write of the power state with it, and retried before. An FLR, a hot reset and a fatal error reset every consignor and the privileged mailbox and take every granule to
NONE; a fatal error is counted first. A TDI error and an IDE failure with a tenancy in force begin the tenant switch: the switch record is
written. EVICT with a tenancy in force begins the tenant switch and reads 1 from then on. The model's choices in it: log 2, 17. -/
def Obligations.HostEventsAndRequests : Prop :=
  ((∀ (s : State) (off : BitVec 26) (w : Bool) (req : BitVec 16), hostBlocked s = false →
     exec (.unprivilegedAccess off w req) s = .next
       (setResp (logViolation (hostTouch s) { addr := BitVec.ofNat 32 off.toNat, req := req, src := 1, write := w, cid := 0x1F })
         (if w then .discarded else .completerAbort))) ∧
   (∀ (s : State) (d3 : Bool), s.pwr.st ≠ 3 → hostBlocked s = false →
     exec (.configRequest (some d3)) s = .next { hostServed s with pcie := { (hostServed s).pcie with d3hot := d3 } } ∧
     exec (.configRequest none) s = .next (hostServed s)) ∧
   (∀ (s : State) (x : Option Bool), s.pwr.st ≠ 3 → hostBlocked s = true → exec (.configRequest x) s = .next (setResp s .crs))) ∧
  ((∀ s : State, exec .flr s = .next { forEach (List.range 17) (hostTouch s) startCrst with gran := [], granPage := [] }) ∧
   (∀ s : State, exec .hotReset s = .next { forEach (List.range 17) (hostTouch s) startCrst with gran := [], granPage := [] }) ∧
   (∀ s : State, exec .pcieFatalError s = .next
     { forEach (List.range 17) { s with pcie := { s.pcie with aerFatal := s.pcie.aerFatal + 1 } } startCrst with gran := [], granPage := [] })) ∧
  ((∀ s : State, (wake { s with cus := { s.cus with tdi := .error } } 1 0).cus.tenancy = .held →
     let t := wake { s with cus := { s.cus with tdi := .error } } 1 0
     exec .tdiError s = .next { t with cus := { t.cus with tenancy := .switching, swRec := some (t.cus.tenantId.extractLsb' 0 128) } }) ∧
   (∀ s : State, (wake (aerNonFatal s) 1 0).cus.tenancy = .held →
     let t := wake (aerNonFatal s) 1 0
     exec .ideFailure s = .next { t with cus := { t.cus with tenancy := .switching, swRec := some (t.cus.tenantId.extractLsb' 0 128) } })) ∧
  (∀ s : State, hostBlocked s = false → (hostServed s).cus.tenancy = .held →
     exec .evict s = .next (beginSwitch (wake { hostServed s with cus := { (hostServed s).cus with evict := true } } 1 0)))

/-- A clear of a tile's counters sets them to what the same cycle adds, and nothing else of the device changes but the served request. A clear
of a core's counters sets them to what the same cycle adds, on the physical core that serves the logical one, and nothing else changes.
The clears of a port's counters, of the staging high-water marks and of a bucket's interrupt. The model's choices in it: log 2. -/
def Obligations.CountersClear : Prop :=
  (∀ (s : State) (t : TileAddr), hostBlocked s = false → isOut (hostServed s) t.core = false →
     (∀ n : Nat, exec (.tilClrOvf t n) s = .next (modTile (hostServed s) (tileKey (hostServed s) t) fun k => { k with ovf := satAdd 0 n })) ∧
     (∀ n m : Nat, exec (.tilClrClip t n m) s = .next
       (modTile (hostServed s) (tileKey (hostServed s) t) fun k => { k with dense := satAdd 0 n, limit := satAdd 0 m }))) ∧
  (∀ (s : State) (c : Fin 32) (n m : Nat), hostBlocked s = false → isOut (hostServed s) c = false →
     let upd (f : Core → Core) := modCore (hostServed s) (physOf (hostServed s) c) f
     exec (.corClrNan c n) s = .next (upd fun k => { k with cvtNan := satAdd 0 n }) ∧
     exec (.corClrSat c n) s = .next (upd fun k => { k with cvtSat := satAdd 0 n }) ∧
     exec (.clrMe c n m) s = .next (upd fun k => { k with meSat := satAdd 0 n, meNan := satAdd 0 m }) ∧
     exec (.clrAtt c n m) s = .next (upd fun k => { k with attSubst := satAdd 0 n, attSkip := satAdd 0 m }) ∧
     exec (.clrStall c n m) s = .next (upd fun k => { k with stallHolds := satAdd 0 n, stallGiveup := satAdd 0 m }) ∧
     exec (.xpkClrOvf c n) s = .next (upd fun k => { k with xOvf := satAdd 0 n }) ∧
     exec (.xpkClrCrc c n) s = .next (upd fun k => { k with xCrc := satAdd 0 n }) ∧
     exec (.clrLate c n) s = .next (upd fun k => { k with prtLate := satAdd 0 n }) ∧
     exec (.clrTail c n) s = .next (upd fun k => { k with prtTail := satAdd 0 n }) ∧
     exec (.drvFaultClear c) s = .next (upd fun k => { k with fValid := false, fCause := 0, fEng := 0, fLeg := 0 })) ∧
  (∀ s : State, hostBlocked s = false →
     let t := hostServed s
     (∀ (p : Fin 8) (a b c : Nat), exec (.hzlClrErr p a b c) s = .next
       (modPort t p fun x => { x with ue := satAdd 0 a, tagFail := satAdd 0 b, lostCnt := satAdd 0 c })) ∧
     (∀ (p : Fin 8) (a b : Nat), exec (.hzlClrRty p a b) s = .next (modPort t p fun x => { x with nakCnt := satAdd 0 a, replay := satAdd 0 b })) ∧
     exec .prtStgClr s = .next { t with prt := { t.prt with rdMax := heldBytes t, wrMax := t.prt.wrNow } } ∧
     (∀ k : Fin 2, exec (.bucketOvfClear k) s = .next (modStack t k fun x => { x with ovf := false })))

/-- Writing 1 to VALID of a log removes the entry it presents; LOST clears with the last one. An injection is armed unless one is armed or the
device is in confidential mode. A read of ALM_BEAT_LO returns the low word of the count and latches its high word. A write through BAR0
that enables the four bytes of one register writes it; any other is discarded. Locked fields: while LOCK is 0 a write loads a
register's lockable fields, but for a value out of a field's range, and bit 31 locks them for good; while LOCK is 1 a write changes nothing.
The model's choices in it: log 2, 139. -/
def Obligations.RegisterCommands : Prop :=
  ((∀ (s : State) (v : Viol) (r : List Viol), hostBlocked s = false → (hostServed s).cus.viol = v :: r →
     let t := hostServed s
     exec .violLogRemove s = .next { t with cus := { t.cus with viol := r, violLost := t.cus.violLost && !r.isEmpty } }) ∧
   (∀ (s : State) (v : UeEntry) (r : List UeEntry), hostBlocked s = false → (hostServed s).ptl.ueLog = v :: r →
     let t := hostServed s
     exec .ueLogRemove s = .next { t with ptl := { t.ptl with ueLog := r, ueLost := t.ptl.ueLost && !r.isEmpty } })) ∧
  (∀ (s : State) (v : Word), hostBlocked s = false →
     let t := hostServed s
     exec (.ptlInjArm v) s = .next
       (if t.cus.conf || t.ptl.injArm then t
        else { t with ptl := { t.ptl with injArm := flagOf v 0, injStack := Fin.ofNat 2 (fieldOf v 1 1), injMask := BitVec.ofNat 10 (fieldOf v 2 10) } })) ∧
  (∀ s : State, hostBlocked s = false →
     let t := hostServed s
     exec .almBeatLoRead s = .next
       (setResp { t with alm := { t.alm with beatHi := BitVec.ofNat 32 (beatView t / 2 ^ 32) } } (.data (leBytes 4 (beatView t))))) ∧
  ((∀ (s : State) (off : BitVec 26) (v : Word), hostBlocked s = false → off.toNat % 4 = 0 →
     exec (.registerWrite off v 0xF) s = .next (regWrite (hostServed s) off.toNat v)) ∧
   (∀ (s : State) (off : BitVec 26) (v : Word) (be : BitVec 4), hostBlocked s = false → (be ≠ 0xF ∨ off.toNat % 4 ≠ 0) →
     exec (.registerWrite off v be) s = .next (setResp (hostTouch s) .discarded))) ∧
  (∀ (s : State) (v : Word), hostBlocked s = false →
     let t := hostServed s
     let k := flagOf v 31
     (t.rst.lock = true → exec (.lockSet .rstCfg v) s = .next t) ∧ (t.alm.lock = true → exec (.lockSet .almCfg v) s = .next t) ∧
     (t.hzl.lock = true → exec (.lockSet .hzlRoute v) s = .next t) ∧ (t.tol.lock = true → exec (.lockSet .tolCfg v) s = .next t) ∧
     (t.asy.lock = true → exec (.lockSet .asyCalCfg v) s = .next t) ∧ (t.ldg.lock = true → exec (.lockSet .ldgCfg v) s = .next t) ∧
     (t.bst.lock = true → exec (.lockSet .bstEccCfg v) s = .next t) ∧
     (t.rst.lock = false → exec (.lockSet .rstCfg v) s = .next { t with rst := { t.rst with rstnCold := flagOf v 0, routeEn := flagOf v 1, lock := k } }) ∧
     (t.alm.lock = false → exec (.lockSet .almCfg v) s = .next { t with alm :=
       { t.alm with src := if fieldOf v 0 2 = 3 then t.alm.src else BitVec.ofNat 2 (fieldOf v 0 2), uport := BitVec.ofNat 3 (fieldOf v 2 3)
                    epinEn := flagOf v 5, epinDly := BitVec.ofNat 4 (fieldOf v 6 4), epoutEn := flagOf v 10, lock := k } }) ∧
     (t.hzl.lock = false → exec (.lockSet .hzlRoute v) s = .next { t with hzl :=
       { t.hzl with devnum := BitVec.ofNat 6 (fieldOf v 0 6), ndev := BitVec.ofNat 7 (fieldOf v 6 7), lock := k } }) ∧
     (t.tol.lock = false → exec (.lockSet .tolCfg v) s = .next { t with tol :=
       { t.tol with units := if fieldOf v 0 12 = 0 ∨ 3072 < fieldOf v 0 12 then t.tol.units else BitVec.ofNat 12 (fieldOf v 0 12)
                    limit := if fieldOf v 12 9 = 0 ∨ 450 < fieldOf v 12 9 then t.tol.limit else BitVec.ofNat 9 (fieldOf v 12 9), lock := k } }) ∧
     (t.asy.lock = false → exec (.lockSet .asyCalCfg v) s = .next { t with asy :=
       { t.asy with interval := if fieldOf v 0 5 = 0 ∨ 16 < fieldOf v 0 5 then t.asy.interval else BitVec.ofNat 5 (fieldOf v 0 5), lock := k } }) ∧
     (t.ldg.lock = false → exec (.lockSet .ldgCfg v) s = .next { t with ldg := { t.ldg with thr := BitVec.ofNat 4 (fieldOf v 0 4), lock := k } }) ∧
     (t.bst.lock = false → exec (.lockSet .bstEccCfg v) s = .next { t with bst :=
       { t.bst with thr := if fieldOf v 0 3 = 0 ∨ 4 < fieldOf v 0 3 then t.bst.thr else BitVec.ofNat 3 (fieldOf v 0 3), lock := k } }))

/-- A write of the reset control register with the key begins a device reset of source 5, cold for COLD; without the key it does nothing. The
sources of a device reset: power-on, a fall of PERST_N, RST_N low for 1 µs, the watchdog, thermal shutdown, the Route's request and a
tamper low for 10 µs begin one of their number and class, with what each does first: PERST_N wakes a device in Deep Camp, where a
warm RST_N does nothing; a tamper destroys the keys; a request of the Route from its beat master goes down the tree, and from any other sender
it is logged and discarded. The model's choices in it: log 29, 30, 102, 103, 110. -/
def Obligations.ResetSourcesBeginAReset : Prop :=
  ((∀ s : State, hostBlocked s = false → exec (.rstCtlWarm 0xC3) s = .next (beginReset (hostServed s) 5 false false false)) ∧
   (∀ s : State, hostBlocked s = false → exec (.rstCtlCold 0xC3) s = .next (beginReset (hostServed s) 5 true false false)) ∧
   (∀ (s : State) (key : Byte), hostBlocked s = false → key ≠ 0xC3 →
     exec (.rstCtlWarm key) s = .next (hostServed s) ∧ exec (.rstCtlCold key) s = .next (hostServed s))) ∧
  ((∀ (s : State) (v : Bool), exec (.powerOnReset v) s = .next (beginReset s 1 true v false)) ∧
   (∀ s : State, exec .thermalShutdown s = .next (beginReset s 6 true false true)) ∧
   (∀ (s : State) (ns : Nat), 10000 ≤ ns → s.pwr.vsbOk = true → exec (.tamper ns) s = .next (beginReset (destroyKeys s) 8 true false false)) ∧
   (∀ (s : State) (ns : Nat), ns < 10000 → exec (.tamper ns) s = .next s) ∧
   (∀ (s : State) (ns : Nat), 1000 ≤ ns → s.rst.rstNDriven = false →
     (s.rst.rstnCold = true → exec (.rstNInput ns) s = .next (beginReset s 3 true false false)) ∧
     (s.rst.rstnCold = false → s.pwr.st ≠ 3 → exec (.rstNInput ns) s = .next (beginReset (rouse s) 3 false false false)) ∧
     (s.rst.rstnCold = false → s.pwr.st = 3 → exec (.rstNInput ns) s = .next s)) ∧
   (∀ (s : State) (ns : Nat), ns < 1000 → exec (.rstNInput ns) s = .next s) ∧
   (∀ s : State, s.fac.running = true → s.pwr.st.toNat < 2 → exec .factorWatchdog s = .next (beginReset (rouse s) 4 false false false)) ∧
   (∀ s : State, s.rst.perstLow = false →
     let t := beginReset (if s.pwr.st = 3 then wake s 1 0 else rouse s) 2 false false false
     exec (.perstN true) s = .next { t with rst := { t.rst with perstLow := true } }) ∧
   (∀ s : State, exec (.perstN false) s = .next { s with rst := { s.rst with perstLow := false } }) ∧
   (∀ (s : State) (cold : Bool), s.fac.up = true → s.hzl.formed = true → s.alm.master = false →
     (s.rst.routeEn = false → exec (.routeResetRequest 0 cold) s = .next (broadcast s (resetRequestBytes cold))) ∧
     (s.rst.routeEn = true → exec (.routeResetRequest 0 cold) s = .next (deviceReset (broadcast s (resetRequestBytes cold)) 7 cold))) ∧
   (∀ (s : State) (d : Fin 64) (cold : Bool), s.fac.up = true → (d ≠ 0 ∨ s.hzl.formed = false ∨ s.alm.master = true) →
     exec (.routeResetRequest d cold) s = .next
       (logViolation s { addr := BitVec.ofNat 32 d.val, req := BitVec.ofNat 16 d.val, src := 6, write := true, cid := 0x1F })))

/-- The SMBus endpoint: a Block Read at a mapped command code is acknowledged with the register's four bytes and the PEC; any other code, and a
write, is NACKed, counted and logged; a PEC error is counted; an MCTP packet may assign the endpoint ID. With an address the endpoint becomes
ready while the device is awake or leaves Camp, in no stretch of a reset; in Camp and Deep Camp its address wakes the device and is NACKed. The
model's choices in it: log 24. -/
def Obligations.SmbusEndpointAnswers : Prop :=
  (∀ (s : State) (a : BitVec 7) (cmd : Byte) (off : Nat), smbusAcks s a = true → smbusReg cmd.toNat = some off →
    let body : List Byte := 4 :: leBytes 4 (regRead s off).toNat
    exec (.smbusBlockRead a cmd false true) s = .next
      { s with smc := { s.smc with acked := true, reply := body ++ [pecOf ([BitVec.ofNat 8 (a.toNat * 2), cmd, BitVec.ofNat 8 (a.toNat * 2) + 1] ++ body)] } }) ∧
  (∀ (s : State) (a : BitVec 7) (cmd : Byte) (w : Bool), smbusAcks s a = true →
    exec (.smbusBlockRead a cmd w false) s = .next { s with smc := { s.smc with pecErr := satAdd s.smc.pecErr 1, acked := false, reply := [] } }) ∧
  (∀ (s : State) (a : BitVec 7) (cmd : Byte) (w : Bool), smbusAcks s a = true → smbusReg cmd.toNat = none ∨ w = true →
    exec (.smbusBlockRead a cmd w true) s = .next
      (logViolation { s with smc := { s.smc with nackMap := satAdd s.smc.nackMap 1, acked := false, reply := [] } }
        { addr := BitVec.ofNat 32 cmd.toNat, req := BitVec.ofNat 16 s.smc.addr.toNat, src := 3, write := w, cid := 0x1F })) ∧
  (∀ (s : State) (a : BitVec 7) (e : Byte), smbusAcks s a = true →
    exec (.smbusMctp a (some e) true) s = .next { s with smc := { s.smc with acked := true, reply := [], eid := e } } ∧
    exec (.smbusMctp a none true) s = .next { s with smc := { s.smc with acked := true, reply := [] } } ∧
    ∀ x, exec (.smbusMctp a x false) s = .next { s with smc := { s.smc with pecErr := satAdd s.smc.pecErr 1, acked := false, reply := [] } }) ∧
  (∀ s : State, s.smc.addr ≠ 0 → (s.pwr.st.toNat ≤ 1 ∨ s.pwr.exiting = true) → s.rst.stretching = false →
    exec .smbusEndpointReady s = .next { s with smc := { s.smc with ready := true } }) ∧
  (∀ s : State, 2 ≤ s.pwr.st.toNat →
    exec (.smbusAddressWake s.smc.addr) s = .next (wake { s with smc := { s.smc with acked := false, reply := [], ready := false } } 3 0))

/-- ADMIT of a sound manifest that may be placed, while the stacked memory is in service, takes the number of the RESIDENT engagement it repeats
and whose decks the tenant can open, or else the lowest free number, and starts its placement; it is refused in the order of its checks: BUSY
before the stacked memory's test is done, BAD_FORMAT for a manifest that is not sound, POLICY for one that packs a protected tensor or whose Route
is not held, SEALED, and CAPACITY with no free number. PLACEMENT_COMMIT of a plan in order that no resource refuses makes the engagement LOADING
and answers OK; a plan that is not in order is refused BAD_FORMAT, one that strikes a deck that stays sealed SEALED, one that a resource refuses
CAPACITY with that resource; a SUSPENDED engagement is placed anew from the next epoch boundary. REBIND between two engagements that run, with
no change in progress: kind 3 names new bindings, kinds 0 to 2 new plans, for one swap beat, and the reply gives that beat. The model's choices
in it: log 49, 82, 83, 84, 129. -/
def Obligations.AdmissionAndRebinding : Prop :=
  ((∀ (s : State) (mb : Mb), Accepted s mb 0x02 →
     let t := taken s mb
     let w := msgAt s mb
     let bs := winBytes t (wordAt w 1) (wordAt w 2)
     (t.ptl.stDone = false → exec (.admitModel mb) s = .next (answered s t mb stBusy [])) ∧
     (t.ptl.stDone = true → manifestOk bs = false → exec (.admitModel mb) s = .next (answered s t mb stBadFormat [])) ∧
     (t.ptl.stDone = true → manifestOk bs = true →
       (packsProtected bs = true → exec (.admitModel mb) s = .next (answered s t mb stPolicy [])) ∧
       (packsProtected bs = false → routeHeld t bs = false → exec (.admitModel mb) s = .next (answered s (freshen t) mb stPolicy [])) ∧
       (packsProtected bs = false → routeHeld t bs = true →
         (∀ e, residentMatch t (Config.sha384 bs) = some e → sealedToTenant t e = true → exec (.admitModel mb) s = .next (answered s (freshen t) mb stSealed [])) ∧
         (∀ e, (residentMatch t (Config.sha384 bs) = some e ∧ sealedToTenant t e = false) ∨
             (residentMatch t (Config.sha384 bs) = none ∧ freeNumber t = some e) →
           (t.ptl.inservice = true → exec (.admitModel mb) s = .next (beginPlacing (freshen t) mb w bs e)) ∧
           (t.ptl.inservice = false → exec (.admitModel mb) s = .next (answered s (freshen t) mb stCapacity (refusedWords 0 0x11)))) ∧
         (residentMatch t (Config.sha384 bs) = none → freeNumber t = none →
           exec (.admitModel mb) s = .next (answered s (freshen t) mb stCapacity (refusedWords 0 0x0A)))))) ∧
   (∀ (s : State) (e : Fin 64) (pl : Plan), (getEng s e).st = .placing →
     (planOk s e pl = false → exec (.placementCommit e pl) s = .next (refuseAdmit s e stBadFormat 0)) ∧
     (planOk s e pl = true → (getEng s e).prev = .resident → strikesSealed s pl = true →
       exec (.placementCommit e pl) s = .next (refuseAdmit s e stSealed 0)) ∧
     (planOk s e pl = true → ((getEng s e).prev ≠ .resident ∨ strikesSealed s pl = false) →
       (placeRefusal s e pl = none → exec (.placementCommit e pl) s = .next
         (answerAdmit (tidyPlacing (commitPlacement (freshen s) e pl)) e stOk
           [packWord [(e.val, 0, 6)], packWord [(pl.period, 0, 15)], BitVec.ofNat 32 pl.anchor.toNat, BitVec.ofNat 32 (pl.anchor.toNat / 2 ^ 32)])) ∧
       (∀ c, placeRefusal s e pl = some c → exec (.placementCommit e pl) s = .next (refuseAdmit (freshen s) e stCapacity c)))) ∧
   (∀ (s : State) (e : Fin 64) (pl : Plan), (getEng s e).st = .suspended → (getEng s e).takeover = false → (getEng s e).swapAt = none →
     s.ldg.takeover = false → planOk s e pl = true → refusing s e [] pl = none →
     (pl.decks.map fun d => logicalDeck d.addr) = (getEng s e).decks →
     exec (.placementCommit e pl) s = .next
       (nameSwap (modEng (loadStandby (writeImages s e pl) e pl) e fun g => { g with nextPlan := some pl, nextSt := some .ready }) e (nextEpoch s)))) ∧
  (∀ (s : State) (mb : Mb) (pf pt : Plan), Accepted s mb 0x04 →
     let t := taken s mb
     let w := msgAt s mb
     let f : Fin 64 := Fin.ofNat 64 (engField w)
     let g : Fin 64 := Fin.ofNat 64 (bitsOf (wordAt w 1) 8 6)
     let kind := bitsOf (wordAt w 1) 16 2
     rebindRange kind (wordAt w 2) (wordAt w 3) = true → f ≠ g → unbindable (getEng t f).st = false → unbindable (getEng t g).st = false →
     rebindBusy t = false → t.tol.overLimit = false →
     (kind = 3 →
       let m : BitVec 16 := BitVec.ofNat 16 ((2 ^ wordAt w 3 - 1) * 2 ^ wordAt w 2)
       let x := swapBeat t ((getEng t f).route || (getEng t g).route)
       (getEng t f).bound &&& m = m →
       let t1 := nameSwap (modEng t f fun e => { e with nextBound := some (e.bound &&& ~~~m), swapWith := some g }) f x
       exec (.rebind mb pf pt) s = .next (answered s
         (nameSwap (modEng t1 g fun e => { e with nextBound := some (e.bound ||| m), swapWith := some f }) g x) mb stOk
         [BitVec.ofNat 32 x, BitVec.ofNat 32 (x / 2 ^ 32)])) ∧
     (kind ≠ 3 → ¬(pf.itins = [] ∧ holdsCons t f = true) → planOk t f pf = true → planOk t g pt = true → strikesSealed t pf = false →
       strikesSealed t pt = false →
       rebindMoves (getEng t f) (getEng t g) kind (wordAt w 2) (wordAt w 3) pf pt = true → (getEng t f).st ≠ .resident →
       refusing t f [g.val] pf = none → refusing (withPlan t f pf) g [] pt = none → ((getEng t g).st = .resident → hasTargets t g = true) →
       let x := swapBeat t (kind == 2 || (getEng t f).route || (getEng t g).route)
       let t1 := nameRebind t f g pf (if pf.itins = [] then some .resident else none) x
       exec (.rebind mb pf pt) s = .next (answered s (nameRebind t1 g f pt (if (getEng t g).st = .resident then some .ready else none) x) mb stOk
         [BitVec.ofNat 32 x, BitVec.ofNat 32 (x / 2 ^ 32)])))

/-- PROGRAM_WAYBILL of a waybill in order opens it on the Lead and sends its header and wrap table down the tree, away from the Lead; it is
refused in the order of its checks: BUSY before the stacked memory's test is done and while a waybill of the engagement runs, BAD_FORMAT for a
header that is not in order or a granule the message does not name, POLICY for firmware that is too old or a manifest that is not the
engagement's. The Lead sends and uses its next segment, and a poisoned one is used as empty; another device uses the segment that arrives and
sends it on; the header and wrap table begin a waybill on a device that is placed for its engagement. The Lead counts reports, one of each
device, FENCED for a device that a lost port cut off, and answers after the last. The model's choices in it: log 95, 96, 97, 130, 131. -/
def Obligations.WaybillsAreCarriedOut : Prop :=
  (∀ (s : State) (mb : Mb), Accepted s mb 0x10 →
    let t := taken s mb
    let w := msgAt s mb
    let e := engField w
    let front := winBytes t (wordAt w 2) (min (wordAt w 3) 16640)
    let named : Bool := (msgGrans w).all fun k => granNamed t mb k
    let fits : Prop := leAt front 16 4 ≤ t.fac.ver.toNat ∧ (getEng t e).plan ≠ none ∧ leAt front 40 48 = (getEng t e).manifestHash.toNat
    let free : Prop := t.ptl.stDone = true ∧ (getEng t e).waybill = none
    (¬free → exec (.programWaybill mb) s = .next (answered s t mb stBusy [])) ∧
    (free → (waybillFormOk front (wordAt w 3) = false ∨ named = false) → exec (.programWaybill mb) s = .next (answered s t mb stBadFormat [])) ∧
    (free → waybillFormOk front (wordAt w 3) = true → named = true →
      (¬fits → exec (.programWaybill mb) s = .next (answered s t mb stPolicy [])) ∧
      (fits → exec (.programWaybill mb) s = .next
        (let t1 := pushRec t mb w { opcode := 0, seq := 0, eng := e, grans := ownGrans t mb w }
         let n := t1.hzl.devnum.toNat
         sendWay (modEng t1 e fun g => { g with waybill := some (openWaybill front true n (wordAt w 2) (wordAt w 3)) }) n
           (front.take (frontLen front)))))) ∧
  (∀ (s : State) (e lead : Fin 64) (bs : List Byte) (w : Waybill), s.fac.up = true → (getEng s e).waybill = some w → w.lead = false →
    (waybillShut w = false → exec (.waybillSegment e lead bs) s = .next (useSegment (sendWay s lead bs) e w bs)) ∧
    (waybillShut w = true → exec (.waybillSegment e lead bs) s = .next (sendWay s lead bs))) ∧
  (∀ (s : State) (e lead : Fin 64) (bs : List Byte) (w : Waybill), s.fac.up = true → (getEng s e).waybill = some w → w.lead = true →
    w.sent < w.nSeg →
    let x := leadSegment s w
    let w1 := { w with sent := w.sent + 1, off := w.off + x.1.length }
    let t := sendWay (modEng s e fun g => { g with waybill := some w1 }) s.hzl.devnum.toNat x.1
    (waybillShut w = false → exec (.waybillSegment e lead bs) s = .next (useSegment t e w1 (if x.2 then [] else x.1))) ∧
    (waybillShut w = true → exec (.waybillSegment e lead bs) s = .next t)) ∧
  (∀ (s : State) (e lead : Fin 64) (bs : List Byte), s.fac.up = true → (getEng s e).waybill = none →
    ((getEng s e).plan ≠ none → waybillFormOk bs bs.length = true →
      exec (.waybillSegment e lead bs) s = .next
        (sendWay (modEng s e fun g => { g with waybill := some (openWaybill bs false lead 0 0) }) lead bs)) ∧
    ((getEng s e).plan = none → exec (.waybillSegment e lead bs) s = .next (sendWay s lead bs))) ∧
  (∀ (s : State) (e d : Fin 64) (st : Byte) (n k : Nat) (w : Waybill), s.fac.up = true → (getEng s e).waybill = some w → w.lead = true →
    (∀ r ∈ w.reports, r.1 ≠ d.val) → d.val ≠ s.hzl.devnum.toNat →
    let counts (x : Byte) : Prop :=
      let w1 := { w with reports := w.reports ++ [(d.val, x)], done := w.done + n, skipped := w.skipped + k }
      exec (.waybillReport e d st n k) s = .next
        (if w.reports.length + 1 < (getEng s e).devices then modEng s e fun g => { g with waybill := some w1 }
         else endWaybill (finishRecs s (fun x => x.opcode == 0x10 && x.eng == e.val) (waybillReply w1).1 (waybillReply w1).2) e
          ((waybillReply w1).1 == stOk))
    ((∀ c ∈ w.cuts, c.1 ≠ d.val) → counts st) ∧
    (∀ c, (w.cuts.find? fun x => x.1 == d.val) = some c → c.2 ≤ s.alm.beat.toNat → counts stFenced)) ∧
  (∀ (s : State) (e d : Fin 64) (st : Byte) (n k : Nat) (w : Waybill), s.fac.up = true → (getEng s e).waybill = some w → w.lead = false →
    (∀ r ∈ w.reports, r.1 ≠ d.val) → d.val = s.hzl.devnum.toNat → localOver s e w = true →
    exec (.waybillReport e d st n k) s = .next (endWaybill s e (localStatus w == stOk)))

/-- UNFENCE_CORE of a core in service answers OK and changes nothing; of a fenced core that no spare replaces and that passes its check it
returns the core to service; of the old core of a number that a spare serves it makes that core a spare. A failed check fences it with
cause 6, a core locked out (cause 4) stays fenced, and while a fence or a takeover is under way the answer is BUSY. The model's choices in it: log 35,
133. -/
def Obligations.CoresReturnToService : Prop :=
  ∀ (s : State) (mb : Mb) (ok : Bool), Accepted s mb 0x41 →
    let t := taken s mb
    let w := msgAt s mb
    let c := bitsOf (wordAt w 1) 0 5
    let m := vget {} t.ldg.map c
    (fenceBusy t = true → exec (.unfenceCore mb ok) s = .next (answered s t mb stBusy [])) ∧
    (fenceBusy t = false →
    (mapFenced m = false → exec (.unfenceCore mb ok) s = .next (answered s t mb stOk [])) ∧
    (mapFenced m = true → m.cause = 4 → exec (.unfenceCore mb ok) s = .next (answered s t mb stFenced [])) ∧
    (mapFenced m = true → m.cause ≠ 4 → ok = false →
      exec (.unfenceCore mb ok) s = .next (answered s (mapMod t c fun m => { m with cause := 6 }) mb stFenced [])) ∧
    (m.fenced = true → m.cause ≠ 4 → ok = true →
      exec (.unfenceCore mb ok) s = .next
        (if (strandedEngs (returnCore t c) c).all fun e => (getEng (returnCore t c) e).swapAt.isNone then answered s (returnCore t c) mb stOk []
         else pushRec (returnCore t c) mb w { opcode := 0, seq := 0, eng := c, grans := [] })) ∧
    (∀ p r, mapFenced m = true → m.fenced = false → m.cause ≠ 4 → ok = true → m.failed = p :: r →
      let t1 := mapMod t c fun m => { m with failed := r, cause := if r.isEmpty then 0 else m.cause }
      exec (.unfenceCore mb ok) s = .next
        (answered s (saveCoreMap { t1 with ldg := { t1.ldg with spares := sortBy id (p :: t1.ldg.spares) } }) mb stOk [])))

/-- CORE_FENCE for a cause that holds fences a core in service while the Factor is up, and SPARE_TAKEOVER gives the number of a fenced core to
the lowest spare; a cause that does not hold fences nothing. The model's choices in it: log 55, 100, 133. -/
def Obligations.FencesAndTakeovers : Prop :=
  (∀ (s : State) (c : Fin 32) (cause : BitVec 4) (plans : List (Fin 64 × Plan)), fenceCause s c cause.toNat = true → s.fac.up = true →
    (vget {} s.ldg.map c.val).out = false → (vget {} s.ldg.map c.val).fenced = false →
    ∃ t, exec (.coreFence c cause plans) s = .next t ∧ (vget {} t.ldg.map c.val).fenced = true ∧ (vget {} t.ldg.map c.val).cause = cause ∧
      (vget {} t.ldg.map c.val).failed = physOf s c :: (vget {} s.ldg.map c.val).failed ∧
      (vget {} t.ldg.map c.val).out = !spareLeft s ∧ (getCore t (physOf s c)).running = false ∧
      (getCore t (physOf s c)).stops = 0) ∧
  (∀ (s : State) (c : Fin 32) (cause : BitVec 4) (plans : List (Fin 64 × Plan)), (fenceCause s c cause.toNat = false ∨ s.fac.up = false) →
    exec (.coreFence c cause plans) s = .next s) ∧
  (∀ (s : State) (c : Fin 32) (p : Nat) (r : List Nat), s.fac.up = true →
    let m := vget {} s.ldg.map c.val
    m.fenced = true → m.out = false → m.failed.contains m.phys = true → sortBy id s.ldg.spares = p :: r →
    exec (.spareTakeover c) s = .next (finishTakeover (assignSpare s c p) c)) ∧
  (∀ (s : State) (c : Fin 32), s.fac.up = true →
    let m := vget {} s.ldg.map c.val
    m.fenced = true → m.out = false → m.failed.contains m.phys = false →
    exec (.spareTakeover c) s = .next (finishTakeover s c))

/-- A PROGRAM or ERASE sequence in order starts its operation, and an erased sector loses its mark and what it held of an image; one of a locked
sector or of cells that are not erased sets OPERR; SUSPEND, RESUME and ABORT act on the one under way, whose cells ABORT leaves indeterminate; a
sequence out of order, or one that the operation under way does not admit, sets CMDERR and nothing else. A page program ends with its words in the
array; the last segment of an erase that verifies leaves the sector erased and marked, one that does not sets OPERR and leaves its cells
indeterminate; both flush the buffers. The model's choices in it: log 15, 143. -/
def Obligations.BootStoreCommands : Prop :=
  ((∀ (s : State) (l : List (Nat × Word)) (page : Nat) (data : List (Nat × Word)), bstProgramSeq l = some (page, data) → s.bst.busy = false →
     4 ≤ page / 65536 → bstMarked s.bst (page / 65536) = true → (∀ w ∈ bstPageWords page data, bstErased s w.1 = true) →
     exec (.bstProgram l) s = .next { s with bst :=
       { s.bst with busy := true, susp := false, opErase := false, sector := BitVec.ofNat 10 (page / 65536), page := some (page, bstPageWords page data) } }) ∧
   (∀ (s : State) (l : List (Nat × Word)) (page : Nat) (data : List (Nat × Word)), bstProgramSeq l = some (page, data) → s.bst.busy = false →
     (page / 65536 < 4 ∨ bstMarked s.bst (page / 65536) = false ∨ ∃ w ∈ bstPageWords page data, bstErased s w.1 = false) →
     exec (.bstProgram l) s = .next { s with bst := { s.bst with opErr := true, opErase := false, sector := BitVec.ofNat 10 (page / 65536) } }) ∧
   (∀ (s : State) (l : List (Nat × Word)),
     let no := { s with bst := { s.bst with cmdErr := true } }
     ((bstProgramSeq l = none ∨ s.bst.busy = true) → exec (.bstProgram l) s = .next no) ∧
     ((bstEraseSeq l = none ∨ s.bst.busy = true) → exec (.bstErase l) s = .next no) ∧
     ((bstShort 3 l = false ∨ s.bst.busy = false ∨ s.bst.opErase = false ∨ s.bst.susp = true) → exec (.bstSuspend l) s = .next no) ∧
     ((bstShort 4 l = false ∨ s.bst.busy = false ∨ s.bst.susp = false) → exec (.bstResume l) s = .next no) ∧
     ((bstShort 5 l = false ∨ s.bst.busy = false) → exec (.bstAbort l) s = .next no)) ∧
   (∀ (s : State) (l : List (Nat × Word)) (sec : Nat), bstEraseSeq l = some sec → s.bst.busy = false → 4 ≤ sec →
     exec (.bstErase l) s = .next { s with bst :=
       { s.bst with busy := true, susp := false, opErase := true, sector := BitVec.ofNat 10 sec, suspCnt := 0, seg := 0,
                    unmarked := sec :: s.bst.unmarked.erase sec, images := (dropImage s.bst sec).images } }) ∧
   (∀ (s : State) (l : List (Nat × Word)) (sec : Nat), bstEraseSeq l = some sec → s.bst.busy = false → sec < 4 →
     exec (.bstErase l) s = .next { s with bst := { s.bst with opErr := true, opErase := true, sector := BitVec.ofNat 10 sec } }) ∧
   (∀ (s : State) (l : List (Nat × Word)), bstShort 3 l = true → s.bst.busy = true → s.bst.opErase = true → s.bst.susp = false →
     exec (.bstSuspend l) s = .next { s with bst := { s.bst with susp := true, suspCnt := satAdd s.bst.suspCnt 1 } }) ∧
   (∀ (s : State) (l : List (Nat × Word)), bstShort 4 l = true → s.bst.busy = true → s.bst.susp = true →
     exec (.bstResume l) s = .next { s with bst := { s.bst with susp := false } }) ∧
   (∀ (s : State) (l : List (Nat × Word)), bstShort 5 l = true → s.bst.busy = true → s.bst.opErase = true →
     exec (.bstAbort l) s = .next
       { s with free := s.free + 65536
                mem := { s.mem with boot := ssetRun 0xFF s.mem.boot (s.bst.sector.toNat * 65536)
                                      ((List.range 65536).map fun i => Config.indeterminateByte (s.free + i)) }
                bst := { s.bst with busy := false, susp := false, page := none, prefetch := [], branch := []
                                    images := (dropImage s.bst s.bst.sector.toNat).images } }) ∧
   (∀ (s : State) (l : List (Nat × Word)) (page : Nat) (ws : List (Nat × List Word)), bstShort 5 l = true → s.bst.busy = true → s.bst.opErase = false →
     s.bst.page = some (page, ws) → exec (.bstAbort l) s = .next
       { s with free := s.free + 256
                mem := { s.mem with boot := ssetRun 0xFF s.mem.boot page ((List.range 256).map fun i => Config.indeterminateByte (s.free + i)) }
                bst := { s.bst with busy := false, susp := false, page := none, prefetch := [], branch := []
                                    images := (dropImage s.bst s.bst.sector.toNat).images } })) ∧
  ((∀ (s : State) (page : Nat) (ws : List (Nat × List Word)), s.bst.busy = true → s.bst.opErase = false → s.bst.page = some (page, ws) →
     exec .bstProgramDone s = .next
       { s with mem := { s.mem with boot := ws.foldl (fun m w => ssetRun 0xFF m w.1 (wordsBytes w.2)) s.mem.boot }
                bst := { s.bst with busy := false, page := none, prefetch := [], branch := [] } }) ∧
   (∀ (s : State) (ok : Bool), s.bst.busy = true → s.bst.opErase = true → s.bst.susp = false →
     exec (.eraseSegmentEnd false ok) s = .next { s with bst := { s.bst with seg := satAdd s.bst.seg 1 } }) ∧
   (∀ s : State, s.bst.busy = true → s.bst.opErase = true → s.bst.susp = false →
     ∃ t, exec (.eraseSegmentEnd true true) s = .next t ∧
       t = { s with mem := { s.mem with boot := t.mem.boot }
                    bst := { s.bst with seg := satAdd s.bst.seg 1, busy := false, unmarked := s.bst.unmarked.erase s.bst.sector.toNat
                                        prefetch := [], branch := [] } } ∧
       ∀ k : Nat, sget 0xFF t.mem.boot k =
         if s.bst.sector.toNat * 65536 ≤ k ∧ k < s.bst.sector.toNat * 65536 + 65536 then 0xFF else sget 0xFF s.mem.boot k) ∧
   (∀ s : State, s.bst.busy = true → s.bst.opErase = true → s.bst.susp = false →
     exec (.eraseSegmentEnd true false) s = .next
       { s with free := s.free + 65536
                mem := { s.mem with boot := ssetRun 0xFF s.mem.boot (s.bst.sector.toNat * 65536)
                                      ((List.range 65536).map fun i => Config.indeterminateByte (s.free + i)) }
                bst := { s.bst with seg := satAdd s.bst.seg 1, busy := false, opErr := true, prefetch := [], branch := [] } }))

/-- A read of an array word with 0 to 4 bits in error delivers its 32 bytes and records the count, WARN at THR with the word's address; one
with 5 is uncorrectable and faults a fetch and aborts a load; a word in a buffer is delivered without a read of the array. The sector that
WARN names is rewritten from its other copy; WARN is cleared by a write of 1; an image from an ADMIN is written to the slot that is not
running and waits there; the security-version fuse rises to the active image's. The model's choices in it: log 41, 42, 43. -/
def Obligations.BootStoreReadsAndImages : Prop :=
  (∀ (s : State) (off : BitVec 26) (taken : Bool), (s.bst.busy = false ∨ s.bst.susp = true) →
     let a := off.toNat / 32 * 32
     (∀ n : Nat, a ∈ s.bst.prefetch → exec (.bstArrayRead off n true taken) s = .next
       { s with bst := { s.bst with readData := sgetRun 0xFF s.mem.boot a 32, fetchFault := false, loadAbort := false } }) ∧
     (a ∉ s.bst.prefetch → a ∉ s.bst.branch → ¬(s.bst.susp = true ∧ a / 65536 = s.bst.sector.toNat) → bstErased s a = false →
       (∀ n : Nat, n ≤ 4 →
         let warns := decide (s.bst.thr.toNat ≤ n)
         exec (.bstArrayRead off n false false) s = .next
           { s with bst := { s.bst with readData := sgetRun 0xFF s.mem.boot a 32, fetchFault := false, loadAbort := false
                                        lastCbc := BitVec.ofNat 3 n, warn := s.bst.warn || warns
                                        eccWord := if warns && !s.bst.warn then BitVec.ofNat 21 (a / 32) else s.bst.eccWord } }) ∧
       (∀ fetch : Bool, (taken = true → fetch = true) →
         ∃ t, exec (.bstArrayRead off 5 fetch taken) s = .next t ∧ t.bst.readData = [] ∧ t.bst.ue = true ∧ t.bst.ueCnt = satAdd s.bst.ueCnt 1 ∧
           t.bst.lastCbc = 7 ∧ t.bst.fetchFault = fetch ∧ t.bst.loadAbort = !fetch ∧ t = { s with bst := t.bst }))) ∧
  ((∀ (s : State) (src dst n : Nat), s.bst.warn = true → s.fac.up = true → s.bst.busy = false →
     refreshRun s.bst (s.bst.eccWord.toNat * 32 / 65536) = some (src, dst, n) →
     exec .flashRefresh s = .next
       { s with mem := { s.mem with boot := scopyRun s.mem.boot src dst n }
                bst := { s.bst with warn := false, eccWord := 0, unmarked := s.bst.unmarked.erase (s.bst.eccWord.toNat * 32 / 65536)
                                    prefetch := [], branch := [] } }) ∧
   (∀ s : State, exec .bstWarnClear s = .next { s with bst := { s.bst with warn := false, eccWord := 0 } }) ∧
   (∀ (s : State) (client : BitVec 384) (h : ImageHdr) (i : Fin 2), s.fac.slot = some i → mgmtHas s client .admin = true → s.fac.up = true →
     s.bst.busy = false → h.len ≤ 25165440 →
     exec (.firmwareUpdate client h) s = .next
       (fireVector { s with bst := { s.bst with prefetch := [], branch := []
                                                images := vmod s.bst.images (1 - i.val) fun _ => { hdr := some h, written := true, pendingSt := true } }
                            fac := { s.fac with pendingImg := true } } 22)) ∧
   (∀ (s : State) (client : BitVec 384) (h : ImageHdr) (i : Fin 2), s.fac.slot = some i → (vget {} s.bst.images i.val).hdr = some h →
     mgmtHas s client .admin = true → (vget {} s.bst.images i.val).active = true → s.bst.svnFuse.toNat < h.svn.toNat →
     exec (.svnFuseRaise client) s = .next { s with bst := { s.bst with svnFuse := h.svn } }))

/-- Right after reset the registers read the values of R549's Reset column: the device-wide ones, each stack's, each port's, each core's and
each tile's. The model's choices in it: log 33, 45, 117. -/
def Obligations.RegistersReadTheirResetValues : Prop :=
  (∀ x ∈ ([(0x0000, 0x400), (0x0004, 0), (0x0008, 0), (0x000C, 0), (0x0010, 0), (0x1000, 0), (0x1004, 0x51), (0x1008, 0), (0x100C, 0), (0x2000, 4),
      (0x2004, 0), (0x2008, 0), (0x200C, 0), (0x2010, 0), (0x3000, 0x001C2C00), (0x3004, 0), (0x3008, 0), (0x4000, 0), (0x4004, 0), (0x5000, 0),
      (0x5004, 0), (0x5008, 0), (0x6000, 0), (0x6004, 0), (0x6008, 0), (0x6010, 0), (0x6014, 0), (0x6018, 0), (0x601C, 0)] : List (Nat × Word)),
    regRead State.reset x.1 = x.2) ∧
  (∀ x ∈ ([(0x7000, 8), (0x8000, 4), (0x8004, 0), (0x8008, 0), (0x800C, 0), (0x8010, 0), (0x8014, 0), (0x8018, 0xFE000000), (0x801C, 0), (0x8020, 0),
      (0x600C, 0), (0x7004, 0), (0xD000, 0), (0x9000, 0), (0x9004, 0), (0x9008, 0), (0xA000, 0), (0xB000, 0x10), (0xB004, 0), (0xB008, 0), (0xB00C, 0), (0xB010, 0), (0xC000, 0), (0xC004, 0),
      (0xC008, 3), (0xC00C, 0), (0xC010, 0)] : List (Nat × Word)), regRead State.reset x.1 = x.2) ∧
  (∀ k : Fin 2, ∀ x ∈ ([(0x00, 0), (0x04, 0x01000101), (0x08, 0), (0x0C, 0), (0x10, 0)] : List (Nat × Word)),
    regRead State.reset (0xB100 + 0x40 * k.val + x.1) = x.2) ∧
  (∀ p : Fin 8, ∀ o ∈ [0x00, 0x04, 0x08, 0x0C], regRead State.reset (0xD100 + 0x20 * p.val + o) = 0) ∧
  (∀ c : Fin 32, regRead State.reset (0x7100 + 4 * c.val) = 0) ∧
  (∀ c : Fin 32, ∀ o ∈ [0x000, 0x004, 0x008, 0x00C, 0x010, 0x014, 0x020, 0x024, 0x030, 0x034, 0x040, 0x044],
    regRead State.reset (0x800000 + 0x1000 * c.val + o) = 0) ∧
  (∀ (c : Fin 32) (st : Fin 12) (t : Fin 16), ∀ o ∈ [0x400, 0x404, 0x408],
    regRead State.reset (0x1000000 + 0x800 * (192 * c.val + 16 * st.val + t.val) + o) = 0) ∧
  ∀ (c : Fin 32) (st : Fin 12) (t : Fin 16) (d : Fin 4), ∀ o ∈ [0x00, 0x04, 0x08, 0x80, 0x84, 0x88, 0x8C, 0x90, 0x94, 0x98, 0x9C],
    regRead State.reset (0x1000000 + 0x800 * (192 * c.val + 16 * st.val + t.val) + 0x100 * d.val + o) = 0

/-- A reset counts once and names its first source; another source that arrives while it runs joins it: SEEN gains its bit, FIRST and the
count stay, and a cold one makes the whole reset cold. The stretch ends with its supplies valid and PERST_N high: RST_N is released,
RST_CAUSE written and the options load; their end starts the chosen image, with which the GPIO pins are configured, unless RECOV_N holds it; then
FACTOR_READY or FACTOR_RESUME
brings the Factor up. The model's choices in it: log 29, 109. -/
def Obligations.ResetsJoinAndEnd : Prop :=
  (∀ (s : State) (src : Nat) (cold : Bool), 1 ≤ src → src ≤ 8 →
     let t := beginReset s src cold false false
     t.rst.stretching = true ∧ t.rst.rstNDriven = true ∧
       (inReset s = false → t.rst.count = s.rst.count + 1 ∧ t.rst.stFirst.toNat = src ∧ t.rst.stCold = cold ∧ t.rst.stOlrestart = false) ∧
       (inReset s = true → t.rst.count = s.rst.count ∧ t.rst.stFirst = s.rst.stFirst ∧ t.rst.stCold = (cold || s.rst.stCold) ∧
         t.rst.stSeen = s.rst.stSeen ||| BitVec.ofNat 8 (2 ^ (src - 1)))) ∧
  ((∀ s : State, s.rst.stretching = true → mayRelease s = true →
     exec .stretchEnd s = .next { s with rst :=
       { s.rst with stretching := false, loading := true, loadCold := s.rst.stCold, rstNDriven := false, first := s.rst.stFirst, cls := s.rst.stCold,
                    olrestart := s.rst.stOlrestart, vsbLost := s.rst.stVsbLost, seen := s.rst.stSeen } }) ∧
   (∀ (s : State) (smba : BitVec 2), s.rst.loading = true → s.rst.stretching = false →
     let t := loadedState s smba
     let u := { t with rst := { t.rst with loading := false, perstSeen := false, recovN := true } }
     exec (.optionLoading smba true) s = .next (gpioConfigure (startImage u)) ∧
       ((startImage u).fac.running = true → gpioConfigure (startImage u) =
         { startImage u with gpio := { (startImage u).gpio with on := true } }) ∧
     exec (.optionLoading smba false) s = .next { t with rst := { t.rst with loading := false, perstSeen := false, recovN := false } }) ∧
   (∀ s : State, mayComeUp s = true → s.fac.resumePending = false → exec .factorReady s = .next (factorUp s)) ∧
   (∀ s : State, mayComeUp s = true → s.fac.resumePending = true →
     exec .factorResume s = .next (fireVector (retarget { factorUp s with pwr := { (factorUp s).pwr with st := 0 } }) 22)))

/-- The loop locks after option loading; the beat master sends ALIGN at each beat whose low 20 bits are 0; an epoch boundary is the next beat
of that number; an EPOCH_IN edge far from a boundary makes the device leave alignment; the reference's loss, return and the holdover's end set the Almanac's bits. An ALIGN word from the upstream port of an
aligned device whose count is within one beat of the master's records the difference and goes down the tree with this link's delay added; one farther off makes the device leave alignment; a device out of
alignment steps its count to the master's and is aligned. The model's choices in it: log 50, 51. -/
def Obligations.TheBeatIsKept : Prop :=
  ((∀ s : State, s.alm.pllLock = false → inReset s = false → s.pwr.st ≠ 3 →
     let m := !s.hzl.formed || s.hzl.root
     exec .pllLock s = .next { s with alm :=
       { s.alm with pllLock := true, refOk := true, master := m, aligned := s.alm.aligned || m, devnum := s.hzl.devnum
                    epochOut := s.alm.epoutEn && decide (s.alm.beat.toNat % epochBeats < 4) } }) ∧
   (∀ s : State, s.alm.pllLock = true →
     exec .epochBoundary s = .next (countEpoch (endReplacings (endPortEpochs (rekeyPorts (advanceTo s (nextEpoch s))))))) ∧
   (∀ s : State, s.alm.pllLock = false → s.pwr.st = 3 →
     exec .epochBoundary s = .next { s with pwr := { s.pwr with epochsPassed := s.pwr.epochsPassed + 1 } }) ∧
   (∀ s : State, s.alm.pllLock = true → s.alm.master = true →
     let t := advanceTo s (cdiv s.alm.beat.toNat (2 ^ 20) * 2 ^ 20)
     exec .alignSend s = .next (forEach (treePorts t) t fun s p => sendCtrl s p 3 (ctrlWord 1 (packNat [(t.alm.beat.toNat / 2 ^ 20, 0, 44)])))) ∧
   (∀ (s : State) (edge : Beat), s.alm.pllLock = true → s.alm.epinEn = false → exec (.epochInEdge edge) s = .next (advanceTo s edge.toNat)) ∧
   (∀ (s : State) (edge : Beat), s.alm.pllLock = true → s.alm.epinEn = true → s.alm.beat.toNat ≤ edge.toNat →
     let x := (edge.toNat + s.alm.epinDly.toNat) % epochBeats
     exec (.epochInEdge edge) s = .next
       (if 1 < x ∧ x < epochBeats - 1 then leaveAlignment (advanceTo s edge.toNat) else advanceTo s edge.toNat)) ∧
   (∀ (s : State) (v : Bool), s.alm.pllLock = true →
     exec (.referenceLost v) s = .next { s with alm :=
       { s.alm with refOk := s.alm.src == 2 && v, refloss := satAdd s.alm.refloss 1, fallback := s.alm.src == 2 && v
                    holdover := !(s.alm.src == 2 && v) } }) ∧
   (∀ s : State, s.alm.pllLock = true → exec .relock s = .next { s with alm := { s.alm with refOk := true, holdover := false, fallback := false } }) ∧
   (∀ s : State, s.alm.holdover = true → s.alm.fallback = false → s.alm.master = false → exec .holdoverTimeout s = .next (leaveAlignment s))) ∧
  (∀ (s : State) (p : Fin 8) (body : BitVec 60), s.alm.pllLock = true → s.alm.master = false → (getPort s p).upstream = true →
     let d : Nat := (getPort s p).d.toNat
     let sent : Nat := bitsOf body.toNat 0 44 * 2 ^ 20 + bitsOf body.toNat 50 10 + d
     let own : Nat := s.alm.beat.toNat
     let u : State := { s with alm :=
       { s.alm with skewDiff := BitVec.ofNat 8 (unsign 8 (clampI (-127) 127 ((own : Int) - sent))), skewDelay := BitVec.ofNat 8 d } }
     let onward (t : State) : State := forEach ((treePorts t).filter (· ≠ p.val)) t fun t q => sendCtrl t q 3
       (ctrlWord 1 (packNat [(bitsOf body.toNat 0 44, 0, 44), (bitsOf body.toNat 44 6 + 1, 44, 6), (bitsOf body.toNat 50 10 + (getPort t p).d.toNat, 50, 10)]))
     (s.alm.aligned = true → own ≤ sent + 1 → sent ≤ own + 1 → exec (.align p body) s = .next (onward u)) ∧
     (s.alm.aligned = true → ¬(own ≤ sent + 1 ∧ sent ≤ own + 1) →
       exec (.align p body) s = .next (onward (leaveAlignment u)) ∧ (leaveAlignment u).alm = { u.alm with aligned := false, misalign := satAdd s.alm.misalign 1 }) ∧
     (s.alm.aligned = false → exec (.align p body) s = .next (onward (realign u sent)) ∧
       (realign u sent).alm.beat = BitVec.ofNat 64 sent ∧ (realign u sent).alm.aligned = true ∧
       (s.flights = [] → (realign u sent).alm.misalign = s.alm.misalign)))

/-- COMMIT of a circuit that can still be committed forms its word at its commit beat and sends it; a circuit starts at its own beat and runs
when its word is live and carries the epoch stamp of that beat, or of the one it was formed for where a hold has moved it since; it carries no work when the word is not live, its consignment completes with
STALE_EPOCH when the stamp is another or the engagement has stopped for its alignment, and with FENCED when no word has come. A core that does not
run, or holds no itinerary of the engagement, starts none. The model's choices in it: log 48, 56, 66, 149. -/
def Obligations.CircuitsAreCommittedAndStart : Prop :=
  (∀ (s : State) (e : Fin 64) (k : Nat),
    let b := circuitBeat (getEng s e) k
    let s1 := retireCircuits (advanceTo s (b - 1024)) e
    let c := formCircuit s1 e k b
    let s3 := sendWord (modEng (takeToken s1 e c) e fun g => { g with circuits := g.circuits ++ [c], skipNext := false }) e c none
    (canCommit s e k b = true → exec (.commit e k) s = .next (if c.live then leaveHalt s3 5 else s3)) ∧
    (canCommit s e k b = false → exec (.commit e k) s = .next s)) ∧
  (∀ (s : State) (c : Fin 32) (e : Fin 64) (k : Nat) (word : Option (BitVec 64)),
    let b := circuitBeat (getEng s e) k
    let holds : Prop := ∃ i ∈ (getCore s (physOf s c)).itins, i.eng = e ∧ 0 < i.len
    let t := endCondemned (retireCircuits (advanceTo s b) e) e
    (coreRuns s c = true → holds → s.alm.beat.toNat ≤ b →
      (∀ w : BitVec 64, word = some w →
        let x := circOfWord k b (b + 2 * engPeriod (getEng s e)) w.toNat
        let stamped : Prop := epochFits (getEng s e) b w.toNat = true ∧ (getEng s e).staleStop = false
        (bitOf w.toNat 0 = true → stamped → exec (.circuitStart c e k word) s = .next (runCircuit t (physOf s c) e x)) ∧
        (bitOf w.toNat 0 = true → ¬stamped → exec (.circuitStart c e k word) s = .next (condemnCirc t e x stStale)) ∧
        (bitOf w.toNat 0 = false → exec (.circuitStart c e k word) s = .next t)) ∧
      (word = none → ∀ x, ((getEng s e).circuits.find? fun y => y.k == k) = some x →
        exec (.circuitStart c e k word) s = .next (condemnCirc t e x stFenced))) ∧
    ((coreRuns s c = false ∨ ¬holds ∨ b < s.alm.beat.toNat) → exec (.circuitStart c e k word) s = .next s))

/-- The watchdog, a hold and a bank switch: a Drover that misses an acknowledgement or a leg has its fault recorded, the first of a core with its
cause, engagement and leg; a HOLD notice whose beat has not passed is scheduled once and goes down the tree; a hold moves the engagement's anchor,
the circuits to come and the ends of those under way, and the deadlines of its fetches by 256 beats; at its beat a bank switch brings the standby
itineraries into force, or ends a release, and it waits while a deck of a returning engagement is not calibrated. The model's choices in it: log
98, 126. -/
def Obligations.HoldsMoveTheAnchor : Prop :=
  (∀ (s : State) (c : Fin 32) (e : Fin 64) (leg : BitVec 16),
    (coreRuns s c = true → (ackMissing s c e = true ∨ legMissing s c e leg.toNat = true) →
      exec (.droverWatchdog c e leg) s = .next (modCore s (physOf s c) fun k =>
        if k.fValid then k else { k with fValid := true, fCause := 4, fEng := BitVec.ofNat 6 e, fLeg := leg })) ∧
    ((coreRuns s c = false ∨ (ackMissing s c e = false ∧ legMissing s c e leg.toNat = false)) → exec (.droverWatchdog c e leg) s = .next s)) ∧
  (∀ (s : State) (from_ : Option (Fin 8)) (body : BitVec 60),
    let e := bitsOf body.toNat 0 6
    let h := nearBeat s.alm.beat.toNat (bitsOf body.toNat 6 24)
    let known : Prop := (getEng s e).holds.contains (BitVec.ofNat 64 h) = true ∨ h < s.alm.beat.toNat ∨ ∃ c ∈ (getEng s e).circuits, h ∈ c.held
    (known → exec (.hold from_ body) s = .next s) ∧
    (¬known →
      let t := modEng s e fun g => { g with holds := insertBy BitVec.toNat (BitVec.ofNat 64 h) g.holds }
      exec (.hold from_ body) s = .next
        (forEach ((treePorts t).filter fun p => from_.all fun q => q.val != p) t fun s p => sendCtrl s p 3 (ctrlWord 2 (bitsOf body.toNat 0 30))))) ∧
  (∀ (s : State) (e : Fin 64) (h : Beat) (r : List Beat), (getEng s e).holds = h :: r →
    let s1 := advanceTo s h.toNat
    (getEng s1 e).st ≠ .free →
    ∃ t, exec (.holdStart e) s = .next t ∧
      getEng t e = { getEng s1 e with
        anchor := (getEng s1 e).anchor + 256, anchorSh := (getEng s1 e).anchorSh + 256, holds := r.map (· + 256)
        circuits := (getEng s1 e).circuits.map fun c =>
          if h.toNat ≤ c.start then { c with start := c.start + 256, endBeat := c.endBeat + 256 }
          else if h.toNat < c.endBeat then { c with held := c.held ++ [h.toNat], endBeat := c.endBeat + 256 } else c } ∧
      (∀ x : Fin 64, x ≠ e → getEng t x = getEng s1 x) ∧
      (∀ p : Nat, p < 34 → (getCore t p).reads = (getCore s1 p).reads.map fun x =>
        if x.eng = e ∧ !x.sampled then { x with dl := x.dl + 256 } else x) ∧
      t.mem = s1.mem ∧ t.decks = s1.decks ∧ t.mbx = s1.mbx) ∧
  (∀ (s : State) (e : Fin 64) (x : Beat), (getEng s e).swapAt = some x →
    let t := retireCircuits (advanceTo s (if (getEng s e).st = .resident then x.toNat else startAfter (getEng s e) x.toNat)) e
    let u := modEng (forEach (List.range 34) t (swapCore e)) e fun g =>
      { g with swapAt := none, live0 := false, bound := g.nextBound.getD g.bound, nextBound := none }
    (swapWaits t e = true → exec (.bankSwap e) s = .next (nameSwap t e (nextEpoch t))) ∧
    (swapWaits t e = false → (getEng s e).nextSt = some .free → exec (.bankSwap e) s = .next (recomputePend (finishRelease u e))) ∧
    (swapWaits t e = false → (getEng s e).nextSt ≠ some .free →
      exec (.bankSwap e) s = .next (finishUnfence (recomputePend (takeState (takePlan u e) e)))))

/-- A leg that its Drover does not fetch and issue, or whose image holds another, has no effect. A leg whose image is malformed, or one that issues
with fields out of range, is not acted on and is recorded as its core's schedule fault of cause 2; one whose unit is busy, or whose accesses meet
others, as one of cause 1; a vector leg that names a range outside the engagement's pages is also logged, with SRC 4. The model's choices in it:
log 36, 66, 81, 123. -/
def Obligations.LegsThatDoNotRun : Prop :=
  (∀ (s : State) (ctx : LegCtx) (x : LegOperands), ∀ c ∈ legForms ctx x,
    ((∀ f, ¬Fetches s ctx f) → exec c.1 s = .next s) ∧
    (∀ f, Fetches s ctx f →
      (legMalformed s (physOf s ctx.core) f.base f.bits = true → exec c.1 s = .next (faulted (atLeg s ctx f.cyc) ctx 2)) ∧
      (legMalformed s (physOf s ctx.core) f.base f.bits = false → legSpelt s (physOf s ctx.core) f.base f.bits c.2 = false → exec c.1 s = .next s))) ∧
  (∀ (s : State) (ctx : LegCtx) (f : Fetched),
    let t := atLeg s ctx f.cyc
    let k := getCore t (physOf t ctx.core)
    (∀ l, Issued s ctx (.strike l) f → strikeLegOk l = false → exec (.strike ctx l) s = .next (faulted t ctx 2)) ∧
    (∀ l, Issued s ctx (.select l) f → 12 ≤ l.string.toNat → exec (.select ctx l) s = .next (faulted t ctx 2)) ∧
    (∀ l, Issued s ctx (.reduce l) f →
      (reduceLegOk l = false → exec (.reduce ctx l) s = .next (faulted t ctx 2)) ∧
      (reduceLegOk l = true → banksFree k (reduceUse l t.alm.beat.toNat) = false → exec (.reduce ctx l) s = .next (faulted t ctx 1))) ∧
    (∀ d, Issued s ctx (.matrix d) f →
      (matrixOk d = false → exec (.matrix ctx d) s = .next (faulted t ctx 2)) ∧
      (matrixOk d = true → (f.cyc < k.meFree ∨ banksFree k (matrixUse d f.cyc) = false) → exec (.matrix ctx d) s = .next (faulted t ctx 1))) ∧
    (∀ d, Issued s ctx (.attend d) f →
      (attnOk d = false → exec (.attend ctx d) s = .next (faulted t ctx 2)) ∧
      (attnOk d = true → (f.cyc < k.meFree ∨ f.cyc < k.vecFree ∨ banksFree k (attnUse d f.cyc) = false) →
        exec (.attend ctx d) s = .next (faulted t ctx 1))) ∧
    (∀ d tag, ∀ c ∈ vecForms ctx d tag, Issued s ctx (.vector c.2 d) f →
      (vecOk c.2.toNat d = false → exec c.1 s = .next (faulted t ctx 2)) ∧
      (vecOk c.2.toNat d = true → (f.cyc < k.vecFree ∨ banksFree k (vecUse c.2.toNat d f.cyc) = false) → exec c.1 s = .next (faulted t ctx 1)) ∧
      (∀ addr write, vecOk c.2.toNat d = true → k.vecFree ≤ f.cyc → banksFree k (vecUse c.2.toNat d f.cyc) = true →
        foreignRange t (physOf t ctx.core) ctx.eng (vecRanges c.2.toNat d) = some (addr, write) →
        exec c.1 s = .next (faulted (logViolation t
          { addr := BitVec.ofNat 32 addr, req := BitVec.ofNat 16 ctx.core.val, src := 4, write := write, cid := 0x1F }) ctx 2))) ∧
    (∀ l replay, ∀ c ∈ porterForms ctx l replay, Issued s ctx (.porter l) f →
      (porterOk l c.2 = false → exec c.1 s = .next (faulted t ctx 2)) ∧
      (porterOk l c.2 = true → (f.cyc < vget 0 k.chanFree l.chan ∨ banksFree k (porterUse l.desc f.cyc (readDl t ctx l - 2)) = false) →
        exec c.1 s = .next (faulted t ctx 1))) ∧
    (∀ l, ∀ c ∈ convoyForms ctx l, Issued s ctx (.convoy l) f →
      (convoyOk l c.2 = false → exec c.1 s = .next (faulted t ctx 2)) ∧
      (convoyOk l c.2 = true → (laneIdle t (physOf t ctx.core) l.desc.lane = false ∨ banksFree k (convoyUse l.desc t.alm.beat.toNat) = false) →
        exec c.1 s = .next (faulted t ctx 1))))

/-- STRIKE takes every tile of its mask into its input stage, and two beats later begins on those that took it; n × S + m + 3 beats after its first
slot beat its outputs join the reduction group, or are converted and drained to OADDR over the string bus, and flag the consignment. SELECT
switches every tile of its mask to the deck it names. REDUCE takes the sets its group holds, and when its beats have passed their sums, converted,
go to OADDR in the Waystation or the stop buffer; a string-bus result stays as a set of the core stage. The model's choices in it: log 3, 53, 123,
140. -/
def Obligations.StrikesSelectsAndReductions : Prop :=
  ((∀ (s : State) (ctx : LegCtx) (l : StrikeLeg) (f : Fetched), Issued s ctx (.strike l) f → strikeLegOk l = true →
     (l.part = false → wsOwned (atLeg s ctx f.cyc) (legPhys s ctx f) ctx.eng (l.oaddr.toNat * 64) (drainLen (atLeg s ctx f.cyc) ctx l) = true) →
     let r := (maskTiles l.tmask).foldl (takeStrike ctx l) (atLeg s ctx f.cyc, [])
     (r.2 ≠ [] → exec (.strike ctx l) s = .next (launch r.1 ctx (8 * (r.1.alm.beat.toNat + 2)) (.strike l r.2))) ∧
     (r.2 = [] → exec (.strike ctx l) s = .next r.1)) ∧
   (∀ (ctx : LegCtx) (l : StrikeLeg) (a : State × List (Nat × Nat × Bundle)) (t : Nat),
     let k := tileNum (physOf a.1 ctx.core) l.string.toNat t
     let x := getTile a.1 k
     let now := a.1.alm.beat.toNat
     (∀ b, inputFault a.1 x (getDeck a.1 (k * 4 + l.deck.val)) l = none → (if l.buf = 0 then x.buf0 else x.buf1) = some b →
       takeStrike ctx l a t = (modTile a.1 k fun y =>
         { y with strikes := y.strikes.filter (fun z => decide (now < z.2)) ++ [(now + 2, now + 2 + awPlanes l.aw * l.slot.toNat)] },
         a.2 ++ [(t, k, b)])) ∧
     (∀ c, inputFault a.1 x (getDeck a.1 (k * 4 + l.deck.val)) l = some c → takeStrike ctx l a t = (faulted a.1 ctx c, a.2))) ∧
   (∀ (s : State) (f : Flight) (l : StrikeLeg) (tiles : List (Nat × Nat × Bundle)) (cc : Nat), s.flights = [f] → f.what = .strike l tiles →
     f.due ≤ cc → cc < f.due + 32 →
     let r := tiles.foldl (beginTile f l (f.due / 8)) ({ s with flights := [] }, [])
     landDue s cc = if r.2.isEmpty then r.1 else follow r.1 f
       (f.due + 8 * (awPlanes l.aw * l.slot.toNat + (r.2.map fun o => fmtFloor (getDeck r.1 o.key).reg.fmt).foldl max 1 + 3)) (.outputs l r.2)) ∧
   (∀ (s : State) (f : Flight) (l : StrikeLeg) (rs : List TileOuts) (cc : Nat), s.flights = [f] → f.what = .outputs l rs →
     f.due ≤ cc → cc < f.due + 8 →
     let t := { s with flights := [] }
     (l.part = true → landDue s cc =
       modCore (flightCons t f fun q => { q with ovf := q.ovf || rs.any fun o => o.outs.any PVal.ovf }) f.core fun c =>
         { c with groups := c.groups ++ rs.map fun o =>
             { rgrp := l.rgrp, level := false, eng := f.ctx.eng, circuit := f.ctx.circuit, string := l.string.toNat, tile := o.tile, deck := o.key,
               twin := (getDeck t o.key).twin, outs := o.outs } }) ∧
     (l.part = false →
       let c := convOuts t f.core l.ofmt (rs.flatMap TileOuts.outs)
       let bs := c.2.flatMap (outBytes l.ofmt)
       let use := drainUse (l.oaddr.toNat * 64) bs.length (f.due / 8)
       let fin := f.due / 8 + 2 + cdiv bs.length 1024
       vget 0 (getCore t f.core).busFree l.string.toNat ≤ f.due / 8 → banksFree (getCore t f.core) use = true →
       landDue s cc = follow (flightCons (takeBus (takeBanks c.1 f.core use) f.core l.string.toNat fin) f fun q =>
         { q with ovf := q.ovf || c.2.any PVal.ovf, clip := q.clip || c.2.any PVal.clip }) f (8 * fin)
         (.write [(f.core, l.oaddr.toNat * 64, bs)] {} []))) ∧
   (∀ (s : State) (ctx : LegCtx) (l : SelectLeg) (f : Fetched), Issued s ctx (.select l) f → l.string.toNat < 12 →
     exec (.select ctx l) s = .next (forEach (maskTiles l.tmask) (atLeg s ctx f.cyc) (selectTile ctx l))) ∧
   (∀ (s : State) (ctx : LegCtx) (l : SelectLeg) (t : Nat),
     let k := tileNum (physOf s ctx.core) l.string.toNat t
     let x := getTile s k
     let now := s.alm.beat.toNat
     (switchingAt x now = true → selectTile ctx l s t = faulted s ctx 5) ∧
     (switchingAt x now = false → activeDeck s x ≠ some l.deck →
       (slotBeat x now = true → selectTile ctx l s t = faulted s ctx 5) ∧
       (slotBeat x now = false → now < x.workEnd → selectTile ctx l s t = faulted s ctx 1) ∧
       (slotBeat x now = false → x.workEnd ≤ now →
         selectTile ctx l s t = modTile s k fun x => { x with active := none, switchTo := some l.deck, switchBeat := s.alm.beat, lastSel := some l.deck })))) ∧
  ((∀ (s : State) (ctx : LegCtx) (l : ReduceLeg) (f : Fetched), Issued s ctx (.reduce l) f → reduceLegOk l = true →
     let t := atLeg s ctx f.cyc
     let p := legPhys s ctx f
     let now := t.alm.beat.toNat
     let sets := reduceSets (getCore t p) ctx l
     let string := (sets.map PartialSet.string).headD 0
     let n := min l.nout.toNat ((sets.map fun x => x.outs.length).foldl max 0)
     (if l.level then decide ((getCore t p).stageFree ≤ now) else decide (vget 0 (getCore t p).busFree string ≤ now)) = true →
     banksFree (getCore t p) (reduceUse l now) = true →
     (l.dest = false → wsOwned t p ctx.eng (l.oaddr.toNat * 64) (n * (fmtBits l.ofmt / 8)) = true) →
     (l.acc = true → wsOwned t p ctx.eng (l.iaddr.toNat * 64) (4 * n) = true) →
     let rs := (List.range n).map (reduceOne sets l (wsRead t p (l.iaddr.toNat * 64) (4 * n)))
     let fin := now + 3 + cdiv (4 * l.nout.toNat) 1024
     exec (.reduce ctx l) s = .next (launch (modCore (takeBanks t p (reduceUse l now)) p fun c =>
       { c with cvtSat := satAdd c.cvtSat (rs.filter Prod.snd).length, groups := dropSets c.groups sets
                stageFree := if l.level then fin else c.stageFree
                busFree := if l.level then c.busFree else vmod c.busFree string fun _ => fin }) ctx (8 * fin) (.reduced l string (rs.map Prod.fst)))) ∧
   (∀ (l : ReduceLeg) (string : Nat) (outs : List PVal), ComesAbout (.reduced l string outs) fun s f =>
     let c := convOuts s f.core l.ofmt outs
     let s1 := flightCons c.1 f fun q => { q with ovf := q.ovf || c.2.any PVal.ovf, clip := q.clip || c.2.any PVal.clip }
     let s2 := if l.level then s1 else modCore s1 f.core fun c =>
       { c with groups := c.groups ++ [{ rgrp := l.rgrp, level := true, eng := f.ctx.eng, circuit := f.ctx.circuit, string := string, tile := 0
                                         deck := 0, twin := none, outs := outs }] }
     let bs := c.2.flatMap (outBytes l.ofmt)
     if l.dest then stopWrite s2 f.core (l.oaddr.toNat * 64) bs else wsWrite s2 f.core (l.oaddr.toNat * 64) bs))

/-- A strike of a sealed deck drives no row: its codes are those of no charge, whatever the deck's cells hold, and at the strike's first slot beat
the attempt is logged with SRC 7 and the tile-deck's number. The model's choices in it: log 3, 58. -/
def Obligations.SealedDecksDriveNoRow : Prop :=
  (∀ (d d' : Deck) (ds : List Drive) (k p : Nat), d.reg = d'.reg → strikeCodes d ds true k p = strikeCodes d' ds true k p) ∧
  (∀ (f : Flight) (l : StrikeLeg) (b : Nat) (a : State × List TileOuts) (x : Nat × Nat × Bundle),
    let dk := x.2.1 * 4 + l.deck.val
    slotFault (getTile a.1 x.2.1) (sweptDeck a.1 dk) l b = none → deckSealed (sweptDeck a.1 dk) = true →
    ∃ u : State, u.cus = a.1.cus ∧ u.mem = a.1.mem ∧ getDeck u dk = sweptDeck a.1 dk ∧ (beginTile f l b a x).1 =
      logViolation u
        { addr := BitVec.ofNat 32 (deckNum f.ctx.core l.string.toNat x.1 l.deck), req := 0, src := 7, write := false, cid := 0x1F })

/-- MATRIX and ATTEND are issued when their engine is free, their accesses meet no others and their ranges lie in the engagement's pages; the first
output tile, or the first block's deadline, comes at issue, and each next one after it; the results of a leg are written at the cycle they are
due, and no other byte of a Waystation, nor any byte of another memory or any tile-deck, changes with them. The model's choices in it: log 20, 66,
122, 123. -/
def Obligations.EngineLegsWriteTheirResult : Prop :=
  (∀ (s : State) (ctx : LegCtx) (d : MatrixDesc) (f : Fetched), Issued s ctx (.matrix d) f → matrixOk d = true →
    let t := atLeg s ctx f.cyc
    let p := legPhys s ctx f
    (getCore t p).meFree ≤ f.cyc → banksFree (getCore t p) (matrixUse d f.cyc) = true → foreignRange t p ctx.eng (matrixRanges d) = none →
    exec (.matrix ctx d) s = .next (landDue (launch
      (takeBanks (modCore t p fun c => { c with meFree := f.cyc + 64 * d.kt * d.t }) p (matrixUse d f.cyc)) ctx f.cyc (.matrix d 0)) f.cyc)) ∧
  (∀ (s : State) (ctx : LegCtx) (d : AttnDesc) (f : Fetched), Issued s ctx (.attend d) f → attnOk d = true →
    let t := atLeg s ctx f.cyc
    let p := legPhys s ctx f
    (getCore t p).meFree ≤ f.cyc → (getCore t p).vecFree ≤ f.cyc → banksFree (getCore t p) (attnUse d f.cyc) = true →
    foreignRange t p ctx.eng (attnRanges d) = none →
    let fin := f.cyc + attnLatency d
    exec (.attend ctx d) s = .next (landDue (launch
      (modCore (takeBanks (modCore t p fun c => { c with meFree := fin }) p (attnUse d f.cyc)) p fun c => { c with vecFree := fin })
      ctx f.cyc (.attend d f.cyc 0 (attnStart d))) f.cyc)) ∧
  (∀ (s : State) (f : Flight) (d : MatrixDesc) (k cc : Nat), s.flights = [f] → f.what = .matrix d k → f.due ≤ cc → cc < f.due + 64 * d.kt →
    let t := { s with flights := [] }
    let r := matrixTile t f.core f.ctx.eng d k
    let u := follow t f (f.due + tileLatency d) (.write (r.1.map fun x => (f.core, x.1, x.2)) r.2 [])
    landDue s cc = if k + 1 < d.t then follow u f (f.due + 64 * d.kt) (.matrix d (k + 1)) else u) ∧
  (∀ (s : State) (f : Flight) (d : AttnDesc) (cyc j cc : Nat) (run : AttnRun), s.flights = [f] → f.what = .attend d cyc j run → f.due ≤ cc →
    (j + 1 < d.nblk → cc < attnDeadline d cyc (j + 1)) → (d.nblk ≤ j + 1 → cc < cyc + attnLatency d) →
    let t := { s with flights := [] }
    ∀ b : KvBlock, takeBlock t f.core f.ctx d j = (some b, .resident) →
    let run1 := useBlock t f.core d run b
    landDue s cc = if j + 1 < d.nblk then follow t f (max f.due (attnDeadline d cyc (j + 1))) (.attend d cyc (j + 1) run1)
      else follow t f (cyc + attnLatency d) (.write [(f.core, d.oAddr.toNat, (attnEnd t f.core d run1).1)] (attnEnd t f.core d run1).2 [])) ∧
  (∀ (s : State) (f : Flight) (a : Nat) (bs : List MByte) (k : Tally) (qs : Quants) (cc : Nat), s.flights = [f] →
    f.what = .write [(f.core, a, bs)] k qs → f.due ≤ cc →
    let t := landDue s cc
    (∀ i : Nat, sget 0 t.mem.ws i =
      if wsKey f.core a ≤ i ∧ i < wsKey f.core a + bs.length then (bs.getD (i - wsKey f.core a) (0, false)).1 else sget 0 s.mem.ws i) ∧
      t.mem.sm = s.mem.sm ∧ t.mem.boot = s.mem.boot ∧ t.mem.host = s.mem.host ∧ t.mem.stop = s.mem.stop ∧ t.decks = s.decks ∧ t.tiles = s.tiles ∧
      t.flights = [])

/-- The elementwise vector operations, once issued with their unit free and their ranges the engagement's, take their unit for their cycles, read
their operands element by element, apply their function and put the results on the way to the Waystation in the output format; an operand's poison
marks its result. When the cycles have passed the bytes are written and the counters and flags follow. The model's choices in it: log 4, 21,
123. -/
def Obligations.ElementwiseVectorLegs : Prop :=
  (∀ (s : State) (ctx : LegCtx) (d : VecDesc) (f : Fetched),
    let t := atLeg s ctx f.cyc
    let p := legPhys s ctx f
    let xs := readVec t p d.src0.toNat d.fmtIn d.n
    let ys := readVec t p d.src1.toNat d.fmtIn d.n
    let zs := readVec t p d.src2.toNat d.fmtIn d.n
    let result (rs : List (VElem × Bool)) : VecOut :=
      let w := writeElems d.fmtOut d.param0 (d.param1.toNat % 256) (rs.map Prod.fst)
      ([(d.dst.toNat, w.bytes)], cvtTally w (rs.map Prod.snd),
        if (actWidth d.fmtOut).isSome then [(d.dst.toNat, d.param0, BitVec.ofNat 8 (d.param1.toNat % 256))] else [])
    let un (g : Word → Word × Bool) : VecOut := result (xs.map fun x => (((g x.1).1, x.2), (g x.1).2))
    let bin (g : Word → Word → Word × Bool) : VecOut :=
      result ((xs.zip ys).map fun x => (((g x.1.1 x.2.1).1, x.1.2 || x.2.2), (g x.1.1 x.2.1).2))
    let tern (g : Word → Word → Word → Word × Bool) : VecOut :=
      result ((xs.zip (ys.zip zs)).map fun x => (((g x.1.1 x.2.1.1 x.2.2.1).1, x.1.2 || x.2.1.2 || x.2.2.2), (g x.1.1 x.2.1.1 x.2.2.1).2))
    (VecReady s ctx 0x07 d f → exec (.vecAbs ctx d) s = .next (vecUnderWay s ctx 0x07 d f (un (fun a => toFp (fp a).abs)))) ∧
    (VecReady s ctx 0x10 d f → exec (.vecConvert ctx d) s = .next (vecUnderWay s ctx 0x10 d f (un (fun a => (a, false))))) ∧
    (VecReady s ctx 0x20 d f → exec (.vecExp ctx d) s = .next (vecUnderWay s ctx 0x20 d f (un vexp))) ∧
    (VecReady s ctx 0x21 d f → exec (.vecExp2 ctx d) s = .next (vecUnderWay s ctx 0x21 d f (un vexp2))) ∧
    (VecReady s ctx 0x22 d f → exec (.vecLog2 ctx d) s = .next (vecUnderWay s ctx 0x22 d f (un vlog2))) ∧
    (VecReady s ctx 0x23 d f → exec (.vecReciprocal ctx d) s = .next (vecUnderWay s ctx 0x23 d f (un vrecip))) ∧
    (VecReady s ctx 0x24 d f → exec (.vecRsqrt ctx d) s = .next (vecUnderWay s ctx 0x24 d f (un vrsqrt))) ∧
    (VecReady s ctx 0x25 d f → exec (.vecSqrt ctx d) s = .next (vecUnderWay s ctx 0x25 d f (un vsqrt))) ∧
    (VecReady s ctx 0x26 d f → exec (.vecSigmoid ctx d) s = .next (vecUnderWay s ctx 0x26 d f (un vsigmoid))) ∧
    (VecReady s ctx 0x27 d f → exec (.vecTanh ctx d) s = .next (vecUnderWay s ctx 0x27 d f (un vtanh))) ∧
    (VecReady s ctx 0x28 d f → exec (.vecSilu ctx d) s = .next (vecUnderWay s ctx 0x28 d f (un vsilu))) ∧
    (VecReady s ctx 0x29 d f → exec (.vecGeluTanh ctx d) s = .next (vecUnderWay s ctx 0x29 d f (un vgeluTanh))) ∧
    (VecReady s ctx 0x2A d f → exec (.vecGeluErf ctx d) s = .next (vecUnderWay s ctx 0x2A d f (un vgeluErf))) ∧
    (VecReady s ctx 0x01 d f → exec (.vecAdd ctx d) s = .next (vecUnderWay s ctx 0x01 d f (bin fadd))) ∧
    (VecReady s ctx 0x02 d f → exec (.vecSub ctx d) s = .next (vecUnderWay s ctx 0x02 d f (bin fsub))) ∧
    (VecReady s ctx 0x03 d f → exec (.vecMul ctx d) s = .next (vecUnderWay s ctx 0x03 d f (bin fmul))) ∧
    (VecReady s ctx 0x05 d f → exec (.vecMin ctx d) s = .next (vecUnderWay s ctx 0x05 d f (bin (fun a b => (vecMinimum a b, false))))) ∧
    (VecReady s ctx 0x06 d f → exec (.vecMax ctx d) s = .next (vecUnderWay s ctx 0x06 d f (bin (fun a b => (vecMaximum a b, false))))) ∧
    (VecReady s ctx 0x08 d f → exec (.vecCompare ctx d) s = .next (vecUnderWay s ctx 0x08 d f (bin (fun a b => (if compareHolds d.mode a b then Config.compareTrue else Config.compareFalse, false))))) ∧
    (VecReady s ctx 0x04 d f → exec (.vecFma ctx d) s = .next (vecUnderWay s ctx 0x04 d f (tern fma))) ∧
    (VecReady s ctx 0x09 d f → exec (.vecSelect ctx d) s = .next (vecUnderWay s ctx 0x09 d f (tern (fun m a b => (if (fp m).isZero then b else a, false)))))) ∧
  (∀ (ws : List (Nat × Nat × List MByte)) (k : Tally) (qs : Quants), ComesAbout (.write ws k qs) fun s f =>
    let s1 := modCore (forEach ws s (landBytes f.core)) f.core fun c =>
      { c with cvtNan := satAdd c.cvtNan k.cvtNan, cvtSat := satAdd c.cvtSat k.cvtSat, meSat := satAdd c.meSat k.meSat
               meNan := satAdd c.meNan k.meNan, xOvf := satAdd c.xOvf k.xOvf, xCrc := satAdd c.xCrc k.xCrc }
    let s2 := forEach qs s1 fun s q => modCore s (q.1 / wsSize) fun c => { c with quant := sput c.quant (q.1 % wsSize) q.2 }
    flightCons s2 f fun q => { q with clip := q.clip || k.clip, shadow := q.shadow || k.shadow })

/-- The vector operations over a whole tensor, once issued with their unit free and their ranges the engagement's, take their unit for their cycles
and put what their function gives on the way to the Waystation: the reductions, rotary embedding, normalisations, softmax, encodings and the
scale tracker. The model's choices in it: log 4, 21, 123. -/
def Obligations.TensorVectorLegs : Prop :=
  ∀ (s : State) (ctx : LegCtx) (d : VecDesc) (f : Fetched),
    let t := atLeg s ctx f.cyc
    let p := legPhys s ctx f
    let src := readVec t p d.src0.toNat d.fmtIn d.n
    let xs := src.map Prod.fst
    let z := d.param1.toNat % 256
    let result (fmt : BitVec 4) (rs : List (VElem × Bool)) : VecOut :=
      let w := writeElems fmt d.param0 z (rs.map Prod.fst)
      ([(d.dst.toNat, w.bytes)], cvtTally w (rs.map Prod.snd), if (actWidth fmt).isSome then [(d.dst.toNat, d.param0, BitVec.ofNat 8 z)] else [])
    let reduced (rs : List (Word × Bool)) : VecOut := result d.fmtOut (rs.map fun r => ((r.1, src.any Prod.snd), r.2))
    let row (tabs : Nat) (g : List Word → List Word → List (Word × Bool)) : VecOut :=
      let ts := readVec t p d.src1.toNat d.fmtIn (if d.src1 = 0xFFFFFFFF then 0 else tabs * d.n)
      result d.fmtOut ((g xs (ts.map Prod.fst)).map fun r => ((r.1, src.any Prod.snd || ts.any Prod.snd), r.2))
    let codes (sa : Word) (zp : Nat) (sat : Word → Bool) (vs : List VElem) : VecOut :=
      let w := (quantWidth d.fmtOut).getD 8
      let cs := vs.map fun v => (quantCode w sa zp v.1, v.2)
      (quantPieces d w (cs.map fun c => (c.1.1, c.2)),
        cvtTally { bytes := [], nans := vs.map fun v => (fp v.1).isNan, sats := cs.map fun c => c.1.2 } (vs.map fun v => sat v.1),
        [(d.dst.toNat, sa, BitVec.ofNat 8 zp)])
    (VecReady s ctx 0x40 d f → exec (.vecSum ctx d) s = .next (vecUnderWay s ctx 0x40 d f (reduced [reduceSum xs]))) ∧
    (VecReady s ctx 0x41 d f → exec (.vecReduceMax ctx d) s = .next (vecUnderWay s ctx 0x41 d f (reduced [(foldPick vecMaximum xs, false)]))) ∧
    (VecReady s ctx 0x42 d f → exec (.vecReduceMin ctx d) s = .next (vecUnderWay s ctx 0x42 d f (reduced [(foldPick vecMinimum xs, false)]))) ∧
    (VecReady s ctx 0x43 d f → exec (.vecSumOfSquares ctx d) s = .next (vecUnderWay s ctx 0x43 d f (reduced [sumSquares xs]))) ∧
    (VecReady s ctx 0x44 d f → exec (.vecMinAndMax ctx d) s = .next (vecUnderWay s ctx 0x44 d f (reduced [(foldPick vecMinimum xs, false), (foldPick vecMaximum xs, false)]))) ∧
    (VecReady s ctx 0x60 d f → exec (.vecRmsnorm ctx d) s = .next (vecUnderWay s ctx 0x60 d f (row 1 (rmsNorm d.param0)))) ∧
    (VecReady s ctx 0x61 d f → exec (.vecLayernorm ctx d) s = .next (vecUnderWay s ctx 0x61 d f (row 2 (layerNorm d.param0)))) ∧
    (VecReady s ctx 0x62 d f → exec (.vecSoftmax ctx d) s = .next (vecUnderWay s ctx 0x62 d f (row 0 softmax))) ∧
    (VecReady s ctx 0x30 d f → exec (.vecRotary ctx d) s = .next (vecUnderWay s ctx 0x30 d f
      (result d.fmtOut ((List.range d.n).map (rotate src (readVec t p d.src1.toNat d.fmtIn d.n)))))) ∧
    (VecReady s ctx 0x50 d f → exec (.vecDbf8Encoding ctx d) s = .next (vecUnderWay s ctx 0x50 d f (result 6 (src.map fun x => (x, false))))) ∧
    (VecReady s ctx 0x11 d f → exec (.vecQuantise ctx d) s = .next (vecUnderWay s ctx 0x11 d f (codes d.param0 z (fun _ => false) src))) ∧
    (VecReady s ctx 0x70 d f →
      let hb := wsRead t p d.param1.toNat 128
      let h := (stepRange xs :: historyPairs (plainOf hb)).take 16
      let mark := src.any Prod.snd || anyMark hb
      let r := windowRange d.win.toNat h
      let k := trackerScale d.mode.toNat ((quantWidth d.fmtOut).getD 8) r.1 r.2
      let q := codes k.1 k.2 (fun x => d.mode.toNat == 2 && (fp x).lt (fp 0)) (src.map fun x => (x.1, mark))
      exec (.vecScaleTracker ctx d) s = .next (vecUnderWay s ctx 0x70 d f
        ((d.param1.toNat, markAll mark (h.flatMap fun x => wordsBytes [x.1, x.2])) :: q.1, q.2))) ∧
    (∀ tag : BitVec 16, VecReady s ctx 0x71 d f →
      let n := (actWidth d.fmtIn).getD 8
      let k := (sfind (getCore t p).quant d.src0.toNat).getD (d.param0, BitVec.ofNat 8 d.param1.toNat)
      exec (.vecInputPlaneBundles ctx d tag) s = .next (vecUnderWay s ctx 0x71 d f
        ((List.range (cdiv d.n 2048)).map (fun i => (frameAt d.dst.toNat n i, bundleFrame n k.2.toNat tag k.1 ((src.drop (2048 * i)).take 2048))), {}, [])))

/-- A PORTER leg of each OP and a convoy of each network, issued with its fields in range, its channel or lane free and its ranges the engagement's,
sets its bytes on their way: bundles to the tiles' input buffers, Waystation bytes to a Waystation, a stop or a link port, and posts to the
stacked memory; a fetch is issued with its deadline. When its beats have passed a bundle is in its buffers, a frame is at its port, and a post
stands among the posted writes. The model's choices in it: log 63, 68, 123, 124, 136. -/
def Obligations.PorterLegsMove : Prop :=
  (∀ (s : State) (ctx : LegCtx) (f : Fetched),
    let p := legPhys s ctx f
    (∀ l : PorterLeg, PorterReady s ctx l 1 f →
      let d := l.desc
      let u := porterTaken s ctx l (1 + cdiv (moveBytes d) 1024) f
      foreignRange u p ctx.eng (rowRanges d.src d.sstride d.len d.rows false) = none →
      let ts := (maskTiles d.tmask).map fun k => tileNum p d.string.toNat k
      exec (.frameMulticast ctx l) s = .next (launch
        (forEach ts u fun v k => modTile v k fun x => if d.buf = 0 then { x with buf0 := none } else { x with buf1 := none })
        ctx (f.cyc + 8 * (1 + cdiv (moveBytes d) 1024)) (.bundle ts d.buf (bundleOf (wsGather u p d))))) ∧
    (∀ l : PorterLeg, PorterReady s ctx l 2 f →
      let d := l.desc
      let u := porterTaken s ctx l (1 + cdiv (moveBytes d) 1024) f
      foreignRange u p ctx.eng (rowRanges d.src d.sstride d.len d.rows false ++ rowRanges d.dst d.dstride d.len d.rows true) = none →
      exec (.waystationCopy ctx l) s = .next (launchMove u ctx p (cdiv f.cyc 8 + 2) 1024 d (wsGather u p d) (movedQuants u p p d))) ∧
    (∀ l : ConvoyLeg, ConvoyReady s ctx l 0 f →
      let d := l.desc
      let u := convoyTaken s ctx l f
      let q := physOf u d.tcore.toNat
      let lag := roadsLag ctx.core d.tcore.toNat
      let use := landingUse d u.alm.beat.toNat lag
      (stopDead u d.tcore.toNat = true ∨
        (banksFree (getCore u q) use = true ∧ foreignRange u q ctx.eng (rowRanges d.dst d.dstride d.len d.rows true) = none)) →
      exec (.roadsConvoy ctx l) s = .next
        (launchMove (takeBanks u q use) ctx q (u.alm.beat.toNat + lag) 512 d (wsGather u p d) (movedQuants u p q d))) ∧
    (∀ l : ConvoyLeg, ConvoyReady s ctx l 1 f →
      let u := convoyTaken s ctx l f
      exec (.linkConvoy ctx l) s = .next (forEach (slotPieces l.nslot (wsGather u p l.desc)).zipIdx u fun v x =>
        launch v ctx (8 * (v.alm.beat.toNat + 3 + x.2)) (.send (Fin.ofNat 8 l.way.toNat) x.1))) ∧
    (∀ l : PorterLeg, PorterReady s ctx l 5 f →
      let d := l.desc
      let u := porterTaken s ctx l 1 f
      (d.packed = true → (ownRegion u ctx.eng d.region).isSome = true) → foreignRange u p ctx.eng (rowRanges d.dst d.dstride d.len d.rows true) = none →
      foreignOffset u ctx.eng ((fetchParts u ctx.eng d).map fun x => (x.1, x.2, false)) = none →
      let r : PendRead := { id := u.free, eng := ctx.eng, circuit := ctx.circuit, leg := ctx.leg, desc := d, issue := BitVec.ofNat 64 (f.cyc / 8)
                            dl := BitVec.ofNat 64 (readDl u ctx l), late := l.late }
      let v := modCore { u with free := u.free + 1 } p fun c => { c with reads := c.reads ++ [r] }
      exec (.stackedMemoryRead ctx l) s = .next (holdStaging v r.id (fetchBytes u ctx.eng d) (r.dl - 2))) ∧
    (∀ (l : PorterLeg) (replay : Bool), PorterReady s ctx l 6 f →
      let d := l.desc
      let u := porterTaken s ctx l (1 + cdiv (fetchBytes s ctx.eng d) 512) f
      (d.packed = true → (ownRegion u ctx.eng d.region).isSome = true ∧ packerKept u ctx.eng d.region = false) →
      foreignRange u p ctx.eng (rowRanges d.src d.sstride d.len d.rows false) = none → foreignOffset u ctx.eng (writeRanges u ctx.eng d) = none →
      exec (.stackedMemoryWrite ctx l replay) s = .next (launch u ctx
        (8 * (f.cyc / 8 + cdiv (fetchBytes u ctx.eng d) 512 + 5) + firstPass u ctx.eng d)
        (.post { movePost u p ctx.eng d with replay := if replay then replayRec u ctx else none }))) ∧
    (∀ l : PorterLeg, PorterReady s ctx l 7 f →
      let d := l.desc
      let u := porterTaken s ctx l (1 + cdiv (fetchBytes s ctx.eng d) 512) f
      (d.packed = true → ∃ r, ownRegion u ctx.eng d.region = some r ∧ r.kv = true ∧ (r.prot = false → packerKept u ctx.eng d.region = false)) →
      foreignRange u p ctx.eng (rowRanges d.src d.sstride d.len d.rows false ++ if d.summary then [(d.sumAddr, 68 * d.d * d.sumb, true)] else []) = none →
      foreignOffset u ctx.eng (match descRegion u ctx.eng d with
        | some r => [(r.base, regionBytes r, true)] | none => [(d.dst + d.blk * moveBytes d, moveBytes d, true)]) = none →
      let bs := wsGather u p d
      let v := launch u ctx (8 * (f.cyc / 8 + cdiv (fetchBytes u ctx.eng d) 512 + 5) + firstPass u ctx.eng d) (.post (kvBlockPost u ctx.eng d bs))
      exec (.kvBlockWrite ctx l) s = .next (if d.summary then
        launch v ctx (f.cyc + 8 * (1 + cdiv (moveBytes d) 1024)) (.write [(p, kvSummary u ctx.eng d bs)] {} []) else v))) ∧
  (∀ (ts : List Nat) (buf : Fin 2) (b : Option Bundle), ComesAbout (.bundle ts buf b) fun s _ =>
    forEach ts s fun s k => modTile s k fun x => if buf = 0 then { x with buf0 := b } else { x with buf1 := b }) ∧
  (∀ (port : Fin 8) (payload : List MByte), ComesAbout (.send port payload) fun s _ =>
    if (getPort s port).st = .up then modPort s port fun x => { x with slotOut := x.slotOut ++ [payload] } else s) ∧
  (∀ w : PostRec, w.blocks = [] → w.table = none → w.replay = none → ComesAbout (.post w) fun s _ =>
    noteStaging { s with prt := { s.prt with writes := s.prt.writes ++ w.ws } }) ∧
  (∀ (w : PostRec) (b : ReplayBuf), w.blocks = [] → w.table = none → w.replay = some b → ComesAbout (.post w) fun s f =>
    modEng (noteStaging { s with prt := { s.prt with writes := s.prt.writes ++ w.ws } }) f.ctx.eng fun g =>
      if g.buf1Newer then { g with buf0 := b, buf1Newer := false } else { g with buf1 := b, buf1Newer := true })

/-- The device's own channels and the arrival of data: copies inside the stacked memory and to and from DEVICE granules are posted, a static region is
packed, under a new table from block 0 and under its own from any other, the bytes of a fetch that arrive land two beats later, a posted write drains, a
consignment ends, and a deadline is sampled. A fetch that is late at its deadline takes the cheaper path: a KV block's frame is marked late; the
other fetches late at that beat raise one hold of 256 beats 64 beats later, and after 16 holds their missing bytes are poisoned and the consignment
is marked. The model's choices in it: log 67, 111. -/
def Obligations.FetchesAndDeadlines : Prop :=
  ((∀ (s : State) (e : Fin 64) (ch : Fin 8) (d : PorterDesc), descOk d = true → d.op = 8 →
     foreignOffset s e (rowRanges d.src d.sstride d.len d.rows false ++ rowRanges d.dst d.dstride d.len d.rows true) = none →
     exec (.stackedMemoryCopy e ch d) s = .next (scatter (fun v a b => engPost v e a b) d.dst d.dstride d.len s (engGather s e d))) ∧
   (∀ (s : State) (e : Fin 64) (ch : Fin 8) (d : PorterDesc), descOk d = true → d.op = 9 →
     (foreignOffset s e (rowRanges d.src d.sstride d.len d.rows false) = none → (∀ i < d.rows, windowDevice s (d.dst + i * d.dstride) d.len = true) →
       exec (.sharedWindowMove e ch d true) s = .next (scatter winPost d.dst d.dstride d.len s (engGather s e d))) ∧
     (foreignOffset s e (rowRanges d.dst d.dstride d.len d.rows true) = none → (∀ i < d.rows, windowDevice s (d.src + i * d.sstride) d.len = true) →
       exec (.sharedWindowMove e ch d false) s = .next (scatter (fun v a b => engPost v e a b) d.dst d.dstride d.len s
         ((List.range d.rows).flatMap fun i => winRead s (d.src + i * d.sstride) d.len)))) ∧
   (∀ (s : State) (e : Fin 64) (ch : Fin 8) (d : PorterDesc) (r : Region), descOk d = true → d.op = 10 → ownRegion s e d.region = some r →
     packerKept s e d.region = false → r.kv = false →
     foreignOffset s e (rowRanges d.src d.sstride d.len d.rows false ++ [(r.base, regionBytes r, true)]) = none →
     let bs := engGather s e d
     let post := fun (v : State) (e off : Nat) (b : List MByte) => engPost v e off b
     let t := if d.blk = 0 then writeTable post e d.region r bs s else s
     exec (.staticRegionPack e ch d) s = .next (packRun post e d.region r (tableOf (plainOf (regionTable t e r))) t d.blk
       (cutBlocks (bs.length + 1) (rawBytes r.fmt) bs))) ∧
   (∀ (s : State) (c : Fin 32) (i n : Nat) (errs : List (Nat × CwErr)) (r : PendRead),
     let p := physOf s c
     (getCore s p).reads[i]? = some r →
     let k := min n (fetchTotal s r.eng r.desc - r.arrived)
     let tail : Bool := decide (r.dl.toNat - 2 < s.alm.beat.toNat) || decide (fetchBytes s r.eng r.desc < r.arrived + k)
     (0 < k → readEnded s (getCore s p) r = false →
       let s2 := if tail && !r.usedTail then modCore s p fun x => { x with prtTail := satAdd x.prtTail 1 } else s
       let s3 := modRead s2 p r.id fun x => { x with arrived := x.arrived + k, usedTail := x.usedTail || tail }
       exec (.readDataArrival c i n errs) s = .next { s3 with flights := s3.flights ++
         [{ due := 8 * (s.alm.beat.toNat + 2), core := p, ctx := { core := Fin.ofNat 32 c, eng := r.eng, circuit := r.circuit, leg := r.leg }
            cons := none, what := .arrive r.id k errs }] }) ∧
     (0 < k → readEnded s (getCore s p) r = true →
       exec (.readDataArrival c i n errs) s = .next (modCore s p fun x =>
         { x with reads := x.reads.filter fun y => y.id != r.id })) ∧
     (k = 0 → exec (.readDataArrival c i n errs) s = .next s)) ∧
   (∀ (id n : Nat) (errs : List (Nat × CwErr)), ComesAbout (.arrive id n errs) fun s f =>
     match (getCore s f.core).reads.find? fun r => r.id == id with
     | none => s
     | some r =>
       let t := landFetched s f.core r n errs
       if r.sampled && readComplete t { r with delivered := r.delivered + n } then dropRead t f.core id
       else modRead t f.core id fun r => { r with delivered := r.delivered + n }) ∧
   (∀ (s : State) (w : Posted) (r : List Posted) (err : CwErr), s.prt.writes = w :: r → wholeCw w = true →
     exec (.writeDrain err) s = .next (noteStaging (landWrite { s with prt := { s.prt with writes := r } } w))) ∧
   (∀ (s : State) (c : Fin 16) (q : BitVec 8) (n : Nat) (e0 e : QEntry), getQ s c q.toNat = some e0 →
     let t := retireCircuits s e0.eng
     getQ t c q.toNat = some e → e.st = .started → e.cancelled = false → e.tokens ≤ e.done →
     let k := min n e.outBytes.toNat
     exec (.consignmentComplete c q n) s = .next (endCons (modQ t c q.toNat fun e => { e with outWritten := k }) c q.toNat
       (if winPoisoned t e.outAddr.toNat k then stIntegrity else stOk)))) ∧
  (∀ (s : State) (c : Fin 32) (i : Nat) (r0 r : PendRead),
     let p := physOf s c
     let t := advanceTo s r0.dl.toNat
     (getCore s p).reads[i]? = some r0 → r0.sampled = false → r0.judged ≠ some r0.dl.toNat →
     ((getCore t p).reads.find? fun x => x.id == r0.id) = some r →
     let mark := (r.eng.val, r.circuit, r.desc.dst)
     let count (v : State) (x : PendRead) : State := if x.judged = none then modCore v p fun k => { k with prtLate := satAdd k.prtLate 1 } else v
     let mates := (getCore t p).reads.filter fun x =>
       x.eng == r.eng && x.circuit == r.circuit && x.late == 2 && !x.sampled && x.dl == r.dl && !readComplete t x
     let counted := forEach mates t count
     (readComplete t r = true → r.late = 1 → exec (.deadline c i) s = .next
       (dropRead (modCore t p fun k => { k with kvLate := k.kvLate.filter fun v => v != mark }) p r.id)) ∧
     (readComplete t r = true → r.late ≠ 1 → exec (.deadline c i) s = .next (dropRead t p r.id)) ∧
     (readComplete t r = false → r.late = 1 → exec (.deadline c i) s = .next
       (modCore (modRead (count t r) p r.id fun x => { x with sampled := true }) p fun k =>
         { k with kvLate := (k.kvLate.filter fun v => v != mark) ++ [mark] })) ∧
     (readComplete t r = false → r.late ≠ 1 → r.holds < 16 →
       let u := forEach mates counted fun v x => modRead v p x.id fun y => { y with holds := y.holds + 1, judged := some r.dl.toNat }
       let h := r.dl.toNat + 64
       exec (.deadline c i) s = .next (holdNotice
         (if (getEng u r.eng).holds.contains (BitVec.ofNat 64 h) then u else modCore u p fun k => { k with stallHolds := satAdd k.stallHolds 1 }) none
         (packNat [(r.eng.val, 0, 6), (h % 2 ^ 24, 6, 24)]))) ∧
     (readComplete t r = false → r.late ≠ 1 → 16 ≤ r.holds →
       let u := forEach mates counted fun v x => modRead (poisonRest v p x) p x.id fun y => { y with sampled := true }
       exec (.deadline c i) s = .next (consPoison (modCore u p fun k => { k with stallGiveup := satAdd k.stallGiveup 1 })
         { core := Fin.ofNat 32 c.val, eng := r.eng, circuit := r.circuit, leg := r.leg })))

/-- Readings and calibrations: a tile's reading is stored and its decks' gains follow in fallow beats; a calibration whose turn it is samples every
output in the clear fallow beats ahead, and its coefficient write stores those in range and reports the others, one later than T counting and
recorded with class 6. A sweep whose turn it is samples every row and is known when its last sub-strike has ended; locating a group's flagged rows
without a usable target image is a finding of class 9; with one the rows are verify-read until every column that deviates is settled, and each is
a finding; a group too wide is one of class 3. The model's choices in it: log 3, 74, 137, 142. -/
def Obligations.CalibrationAndSweeps : Prop :=
  ((∀ (s : State) (t : TileAddr) (q : Nat),
     (isOut s t.core = false → exec (.tempRead t q) s = .next (hottest (forEach ((List.range 4).map fun i =>
         { core := t.core, string := t.string, tile := t.tile, deck := Fin.ofNat 4 i })
       (modTile s (tileKey s t) fun x => { x with temp := q, thermPause := decide (380 < q) || (x.thermPause && decide (372 < q)) })
       fun v a => rewriteGamma (modDeck v (deckKey v a) (tempDeck q)) a))) ∧
     (isOut s t.core = true → exec (.tempRead t q) s = .next s)) ∧
   (∀ (s : State) (a : DeckAddr) (e : Nat),
     let k := deckKey s a
     let d := getDeck s k
     tileServes s a = true → calibrationDue s d = true → isNext s a (calRank d) = true →
     subStrikesEnd s a true (8 + 8 * fmtQ d.reg.fmt) (s.alm.beat.toNat + deckT s d) = some e →
     exec (.calibration a) s = .next (assayUntil
       { modDeck s k (fun d => { d with calPend := some (e + 1 + fmtFloor d.reg.fmt, (List.range (fmtOutputs d.reg.fmt)).map (calSums d s.free)) }) with
         free := s.free + 8192 } a e)) ∧
   (∀ (s : State) (a : DeckAddr) (b : Nat) (cs : List (Int × Int)),
     let k := deckKey s a
     let d := getDeck s k
     d.calPend = some (b, cs) → b ≤ s.alm.beat.toNat → served d = true → updateFits s a = true →
     let good := cs.zipIdx.filterMap fun x => if calOk x.1 then some (x.2, betaOf x.1.1, gammaOf x.1.1 x.1.2) else none
     let bad := cs.zipIdx.filterMap fun x => if calOk x.1 then none else some x.2
     let late : Bool := d.everCal && decide (deckT s d < s.alm.beat.toNat - d.lastCal.toNat)
     let s1 := freshen (modDeck s k fun _ => storeCal s k d good)
     let s2 := if late then recordClosed { s1 with asy := { s1.asy with late := satAdd s1.asy.late 1 } } (blankFinding a d 6 0xFF 0xFF) else s1
     let t := forEach (calFaults a d bad) s2 detect
     exec (.coefficientWrite a) s = .next (if d.reg.owned then checkReady t d.reg.eng.toNat else t)) ∧
   (∀ (s : State) (a : DeckAddr),
     let k := deckKey s a
     let d := getDeck s k
     d.calPend = none →
     (d.gammaDue = true → served d = true → updateFits s a = true →
       exec (.coefficientWrite a) s = .next (modDeck s k (scaleGamma (getTile s (k / 4)).temp))) ∧
     (d.gammaDue = false → exec (.coefficientWrite a) s = .next s))) ∧
  ((∀ (s : State) (a : DeckAddr) (e : Nat),
     let k := deckKey s a
     let d := sweptDeck s k
     tileServes s a = true → sweepDue s d = true → isNext s a (sweepRank d) = true →
     subStrikesEnd s a false (sweepStrikes d s.free (List.range 2048)) (s.alm.beat.toNat + 16 * deckT s d) = some e →
     exec (.sweep a) s = .next (assayUntil
       { modDeck s k (fun _ => { d with sweepPend := some (sweepResult d s.free e) }) with free := s.free + 131072 } a e)) ∧
   (∀ (s : State) (k : Nat) (r : SweepRes), (getDeck s k).sweepPend = some r →
     (r.ready ≤ s.alm.beat.toNat → (sweptDeck s k).flagged = r.flagged ∧ (sweptDeck s k).suspect = false ∧
       (sweptDeck s k).lastSweep = BitVec.ofNat 64 r.ready ∧ (sweptDeck s k).sweepPend = none ∧
       (sweptDeck s k).wide = (r.sigma.filter fun x => decide (61 < x.2)).map Prod.fst) ∧
     (s.alm.beat.toNat < r.ready → sweptDeck s k = getDeck s k)) ∧
   (∀ (s : State) (a : DeckAddr) (g : Fin 32) (openCols : List Nat),
     let k := deckKey s a
     let d := sweptDeck s k
     let rows := (d.flagged.filter fun x => x.1 == g.val).map Prod.snd
     (rows ≠ [] ∨ d.wide.contains g.val = true) → served d = true → tileServes s a = true → isNext s a repairRank = true →
     let s1 := modDeck s k fun _ => { d with flagged := d.flagged.filter (fun x => x.1 != g.val), wide := d.wide.filter (· != g.val) }
     let s2 := if d.wide.contains g.val then detect s1 (blankFinding a d 3 g 33) else s1
     let unread := detect s2 { blankFinding a d 9 g 0xFF with rows := rows }
     (rows = [] → exec (.findingLocate a g openCols) s = .next s2) ∧
     (rows ≠ [] → targetOf s (logicalDeck a) = none → exec (.findingLocate a g openCols) s = .next unread) ∧
     (∀ t : Target, rows ≠ [] → targetOf s (logicalDeck a) = some t →
       ((t.poisoned = true ∨ t.complete = false) → exec (.findingLocate a g openCols) s = .next unread) ∧
       (t.poisoned = false → t.complete = true →
         let start := (List.range 36).map fun j => { off := j, rows := [], below := true, broken := openCols.contains j : ColSeen }
         let r := readRows d t g rows start
         let cols := r.1.filter fun c => !c.rows.isEmpty || c.broken
         ∀ e, readsEnd s a r.2 (s.alm.beat.toNat + 16 * deckT s d) = some e → cols ≠ [] →
           exec (.findingLocate a g openCols) s = .next (assayUntil (forEach cols s2 fun v c => detect v (colFinding a d g rows c)) a e)))))

/-- The rungs of the repair ladder act on an open or waiting finding whose rung is due, on a tile with a run for it: rows to reprogram, a spare
column's rows and log entry, or neighbours' new digits become the repair of its deck, whose loops program them; a rung whose rows are programmed
ends by its map or coefficient update in a fallow beat, and the finding has tried it, or moves on where a row failed; the closing sweep repairs
the finding or moves it on; a finding whose targets are not held moves to rung 4. The model's choices in it: log 72, 73, 142. -/
def Obligations.RepairRungs : Prop :=
  (∀ (s : State) (seq : Nat) (f : Finding), findingOf s seq = some f → repairable s f = true →
    let k := findingDeck s f
    let d := getDeck s k
    let g := f.group.toNat
    let begun (x : Repair) : State := tidyRepair (modDeck (if f.st = stWaiting then setFinding s f stOpen else s) k fun d => { d with repair := some x }) k
    (∀ t : Target, repairTarget s f = some t → noRung f = false → f.tried.contains f.rung.toNat = false → hasProgramRun s f.core f.string f.tile = true →
      (f.rung = 1 → exec (.repairReprogram seq) s = .next
        (begun { seq := seq, rung := 1, rows := f.rows.map fun r => (r, rowGoals d d.reg.fmt t r) })) ∧
      (∀ i, f.rung = 2 → freeSpare d g = some i → exec (.spareSubstitute seq) s = .next
        (begun { seq := seq, rung := 2, rows := spareGoals d t g f.offset.toNat (36 * g + 34 + i) ++
                   [(rowLog, bitGoals (logBits (d.spareLog ++ [(g, i, f.offset.toNat)])))] })) ∧
      (f.rung = 3 →
        let adj := adjustRows d t g f.offset.toNat
        exec (.neighbourAdjust seq) s = .next
          (begun { seq := seq, rung := 3, rows := adj.map fun x => (x.row, x.goals), sum := rneInt (adj.map RowAdj.e).sum gUnit
                   hterm := htermOf d.reg.fmt (adj.map RowAdj.e), mask := adj.any RowAdj.mask }))) ∧
    (repairTarget s f = none →
      exec (.repairReprogram seq) s = .next (noTarget s f) ∧ exec (.spareSubstitute seq) s = .next (noTarget s f) ∧
        exec (.neighbourAdjust seq) s = .next (noTarget s f))) ∧
  (∀ (s : State) (seq : Nat) (f : Finding) (r : Repair), findingOf s seq = some f →
    let k := findingDeck s f
    (getDeck s k).repair = some r → r.seq = seq → r.rows = [] → updateFits s (findingAddr f) = true →
    (∀ i, r.rung = 2 → freeSpare (getDeck s k) f.group.toNat = some i → exec (.spareSubstitute seq) s = .next
      (finishRepair (modDeck s k fun d => substitute d f.group.toNat i f.offset.toNat) k r)) ∧
    (r.rung = 3 → r.bad = 0 → exec (.neighbourAdjust seq) s = .next
      (setFinding (modFinding (finishRepair (modDeck s k (adjustDeck f r)) k r) f fun x => { x with hterm := r.hterm }) f stAdjusted)) ∧
    (r.rung = 3 → r.bad ≠ 0 → exec (.neighbourAdjust seq) s = .next (finishRepair s k r))) ∧
  (∀ (s : State) (k : Nat) (r : Repair) (f : Finding), findingOf s r.seq = some f →
    let t := modDeck s k fun d => { d with repair := none }
    (r.bad = 0 → finishRepair s k r = modFinding t f fun x => { x with tried := r.rung :: x.tried }) ∧
    (r.bad ≠ 0 → finishRepair s k r = nextRung t f)) ∧
  (∀ (s : State) (seq : Nat) (f : Finding) (e : Nat), findingOf s seq = some f → f.st = stOpen → (f.rung = 1 ∨ f.rung = 2) →
    f.tried.contains f.rung.toNat = true →
    let d := getDeck s (findingDeck s f)
    let a := findingAddr f
    let rows := closingRows s d f
    served d = true → d.repair = none → tileServes s a = true → isNext s a repairRank = true →
    subStrikesEnd s a false (sweepStrikes d s.free rows) (s.alm.beat.toNat + 16 * deckT s d) = some e →
    let t := assayUntil { s with free := s.free + 131072 } a e
    exec (.closingSweep seq) s = .next
      (if rows.any fun r => rowExceeds d s.free f.group.toNat r 0 then nextRung t f else setFinding t f stRepaired))

/-- A pump programs a deck: it starts a queued deck whose target is complete, each loop that finds its place in the fallow beats pulses the cells of
the row that are below their band and verify-reads it, a row ends whose cells pass or that has taken 16 loops, and the marks of the journal are set
in their order, START first, each progress mark when its 64 rows are complete, and DONE last, which completes the deck. Between loops the
itinerary's deck is selected again. A repair's rows are programmed in the same way. The model's choices in it: log 3, 76, 78. -/
def Obligations.ProgrammingFollowsItsJournal : Prop :=
  (∀ (s : State) (a : DeckAddr) (p : ProgState) (t : Target) (x : PlanDeck),
    let k := deckKey s a
    let d := getDeck s k
    let next := nextRow s k p x.fmt t
    d.prog = some p → deckGoal s (logicalDeck a) = some (t, x) →
    (d.progRunning = false → d.erasing = false → d.outOfService = false → d.jDone = false → t.complete = true → t.poisoned = false →
      pumpReady s a = true → stringBusy s k = false → tilePaused s k = false →
      exec (.programDeck a) s = .next (modDeck s k fun d => { d with progRunning := true, prog := some { p with loop := firstLoop d p.resumed (startRow s k p) } })) ∧
    (∀ row : Nat, programs s a = true → marksReady d row = true → row = next → (row < 2059 ∨ row = rowLog) → loopFits s a 800 programRank = true →
      let s1 := if row = rowS0 then openHeader s a t x else s
      let q := ((getDeck s1 k).prog).getD p
      let r := rowStep s1.free s1.alm.beat.toNat (getDeck s1 k) row q.loop (goalsAt s1 k x.fmt t row)
      let q1 := { q with row := if row = rowLog then q.row else row }
      let s2 := workFor { modDeck s1 k (fun _ => { r.deck with prog := some { q1 with loop := q.loop + 1 } }) with free := s1.free + 2048 } a
        (if r.pulsed then 800 else 200)
      exec (.programLoop a row) s = .next (if r.ended then endRow s2 a q1 t x.fmt row r.bad else s2)) ∧
    (programs s a = true → loopFits s a 600 programRank = true →
      (d.jStart = false → exec (.journalPulse a) s = .next (workFor (modDeck s k fun d =>
        { journalMark d colStart with jStart := true, reg := { d.reg with fmt := .unused, owned := false, part := true } }) a 600)) ∧
      (d.jStart = true → next ≠ rowLog →
        (∀ j : Nat, ((List.range 32).find? fun j => !bitOf d.jProgress.toNat j && decide (64 * (j + 1) ≤ next)) = some j →
          exec (.journalPulse a) s = .next (workFor (modDeck s k fun d =>
            { journalMark d (colProgress j) with jProgress := d.jProgress ||| BitVec.ofNat 32 (2 ^ j) }) a 600)) ∧
        (((List.range 32).find? fun j => !bitOf d.jProgress.toNat j && decide (64 * (j + 1) ≤ next)) = none → next = 2059 →
          ∀ h : DeckHeader, d.header = some h →
          let e := t.eng.toNat
          let u := writeShadow (modDeck (workFor s a 600) k fun d => journalMark d colDone) a
          exec (.journalPulse a) s = .next (checkReady (countDone (freshen (completeDeck u a h x)) e) e))))) ∧
  (∀ (k b : Nat) (d : Deck) (row loop : Nat) (gs : List CellGoal),
    let pend := pendOf d row gs
    ((pend = [] ∨ 16 < loop) → rowStep k b d row loop gs =
      { deck := { d with run := none }, pulsed := false, ended := true, bad := pend ++ overOf d row gs }) ∧
    (pend ≠ [] → loop ≤ 16 →
      let d1 := { pulseRow k d row pend with run := some { row := row, loop := loop, start := b, before := cellsBefore d row pend } }
      let left := pendOf d1 row gs
      rowStep k b d row loop gs = { deck := d1, pulsed := true, ended := left.isEmpty || decide (16 ≤ loop), bad := left ++ overOf d1 row gs })) ∧
  (∀ (s : State) (a : DeckAddr) (n : Nat), workFor s a n = modTile s (deckKey s a / 4) fun t =>
    { t with workEnd := s.alm.beat.toNat + n, workDeck := some a.deck, active := none, switchTo := t.lastSel
             switchBeat := BitVec.ofNat 64 (s.alm.beat.toNat + n) }) ∧
  (∀ (s : State) (a : DeckAddr) (r : Repair) (row : Nat) (gs : List CellGoal) (rest : List (Nat × List CellGoal)),
    let k := deckKey s a
    let d := getDeck s k
    d.prog = none → d.repair = some r → r.rows = (row, gs) :: rest → repairFits s a = true →
    let x := rowStep s.free s.alm.beat.toNat d row r.loop gs
    let r1 := if x.ended then { r with rows := rest, loop := 1, bad := r.bad + b2n (!x.bad.isEmpty) } else { r with loop := r.loop + 1 }
    let s1 := workFor { modDeck s k (fun _ => { x.deck with repair := some r1 }) with free := s.free + 2048 } a (if x.pulsed then 800 else 200)
    exec (.programLoop a row) s = .next (tidyRepair
      (if x.ended && !x.bad.isEmpty then { s1 with asy := { s1.asy with failRows := satAdd s1.asy.failRows 1 } } else s1) k))

/-- An erase counts one cycle and appends one log entry before its first loop; each loop takes its 2,512,800 beats in a run of fallow beats; a loop
that verifies leaves the deck erased under a header of its own, its log entry committed and its programming queued; one that does not verify is
followed by the next, and the tenth takes the deck out of service. Option loading repeats a logged erase and resumes a partial deck whose target is
held. The model's choices in it: log 3, 76, 77. -/
def Obligations.ErasesAndResumption : Prop :=
  (∀ (s : State) (a : DeckAddr),
    let k := deckKey s a
    let d := getDeck s k
    d.erasing = true → eraseFits s a = true →
    (d.progRunning = false →
      (eraseLogged s k = false → logRoom s.bst.eraseLog (mapToSave s k) = true →
        exec (.deckErase a) s = .next (beginErase (modDeck (appendErase s k (d.cycles + 1) (mapToSave s k)) k fun x =>
          { x with cycles := d.cycles + 1, reg := { x.reg with cycles := d.cycles + 1 } }) a {})) ∧
      (∀ e : EraseEnt, eraseLogged s k = true → lastErase s.bst.eraseLog k = some e →
        exec (.deckErase a) s = .next (beginErase (modDeck s k fun x =>
          { x with cycles := e.cycles, reg := { x.reg with cycles := e.cycles } }) a {}))) ∧
    (∀ p : ProgState, d.progRunning = true → d.prog = some p →
      exec (.deckErase a) s = .next (if p.looping then s else beginErase s a p))) ∧
  (∀ (s : State) (a : DeckAddr) (p : ProgState), beginErase s a p =
    workFor (modDeck s (deckKey s a) fun d => { d with progRunning := true, prog := some { p with looping := true } }) a 2512800) ∧
  (∀ (s : State) (k cyc : Nat) (map : List (Nat × Nat × Nat)), (appendErase s k cyc map).decks = s.decks ∧
    ∃ slots, (appendErase s k cyc map).bst.eraseLog.getLast? = some { slots := slots, deck := k, cycles := cyc, map := map, committed := false }) ∧
  (∀ (s : State) (a : DeckAddr) (p : ProgState),
    let k := deckKey s a
    let d := getDeck s k
    d.prog = some p → d.erasing = true → d.progRunning = true → p.looping = true → (getTile s (k / 4)).workEnd ≤ s.alm.beat.toNat →
    exec (.eraseLoop a true) s = .next (queueProgram (freeResidents (noteErased (commitErase
      (modDeck (closeDeckFindings s k) k (erasedDeck (deckPlaced s (logicalDeck a)))) k) k true)) (logicalDeck a)) ∧
    (p.eraseLoops < 9 →
      let q := { p with eraseLoops := p.eraseLoops + 1, looping := false }
      let s1 := modDeck s k fun d => { d with prog := some q }
      exec (.eraseLoop a false) s = .next (if eraseFits s1 a then beginErase s1 a q else s1)) ∧
    (9 ≤ p.eraseLoops →
      let s1 := modDeck s k fun d => { d with outOfService := true, prog := none, progRunning := false, erasing := false }
      let s2 := { s1 with asy := { s1.asy with eraseFail := satAdd s1.asy.eraseFail 1 } }
      exec (.eraseLoop a false) s = .next (noteFailed (detect (noteErased s2 k false) (eraseFinding s2 a)) (logicalDeck a)))) ∧
  (∀ (s : State) (k : Nat), ∀ e ∈ (commitErase s k).bst.eraseLog, e.deck = k → e.committed = true) ∧
  (∀ (placed : Bool) (d : Deck), (erasedDeck placed d).header = some (erasedHeader d) ∧ (erasedDeck placed d).cycles = d.cycles ∧
    (erasedDeck placed d).spareLog = [] ∧ (erasedDeck placed d).slots = [] ∧ (erasedDeck placed d).jStart = false ∧ (erasedDeck placed d).jDone = false ∧
    (erasedDeck placed d).reg.spareMap = d.reg.spareMap ∧ deckErased (erasedDeck placed d) = true) ∧
  (∀ s : State, inReset s = false → exec .programmingResumption s = .next (forEach (s.decks.map Prod.fst) s resumeDeck)) ∧
  (∀ s k, deckBusy (getDeck s k) = false →
    (eraseLogged s k = true → resumeDeck s k = queueErase s k) ∧
    (∀ (lg : Nat) (t : Target), eraseLogged s k = false → deckPartial (getDeck s k) = true → logicalOfPhys s k = some lg → targetOf s lg = some t →
      t.complete = true → t.poisoned = false →
      resumeDeck s k = modDeck s k fun d => { d with prog := some { row := firstRow d, loop := firstLoop d true (firstRow d), resumed := true } }))

/-- While the stacks are in service and awake and its rate is not 0 the Patrol reads the codeword at its position, where the majority of the three
copies of its valid bit is 1, and steps on; copies that disagree count as a corrected codeword, and armed errors are injected once. The bucket leaks
one; a die group the PHY loses is marked, the first of its stack; bring-up clears the stacks and reports the self-test. The model's choices in it: log 64. -/
def Obligations.StackedMemoryUpkeep : Prop :=
  (∀ (s : State) (k : Fin 2), s.ptl.inservice = true → s.pwr.st.toNat < 2 → s.ptl.rate ≠ 0 →
    (∀ err, (s.ptl.injArm = false ∨ s.ptl.injStack ≠ k) →
      exec (.patrolVisit k err 7) s = .next (patrolStep (readCw s (patrolPa k (getStack s k).pos) 2 err false).1 k)) ∧
    (∀ err, s.ptl.injArm = true → s.ptl.injStack = k →
      let t := { s with ptl := { s.ptl with injArm := false } }
      exec (.patrolVisit k err 7) s = .next
        (patrolStep (readCw t (patrolPa k (getStack s k).pos) 2 (joinErr err (injectedErr s.ptl.injMask)) true).1 k)) ∧
    (∀ err, exec (.patrolVisit k err 0) s = .next (patrolStep s k)) ∧
    (∀ (err : CwErr) (c : BitVec 3), c ≠ 0 → c ≠ 7 →
      let u := countCorrected s k
      let inj := s.ptl.injArm = true ∧ s.ptl.injStack = k
      (c = 1 ∨ c = 2 ∨ c = 4 → exec (.patrolVisit k err c) s = .next (patrolStep u k)) ∧
      (c = 3 ∨ c = 5 ∨ c = 6 → ¬ inj →
        exec (.patrolVisit k err c) s = .next (patrolStep (readCw u (patrolPa k (getStack s k).pos) 2 err false).1 k)) ∧
      (c = 3 ∨ c = 5 ∨ c = 6 → inj →
        let v := { u with ptl := { u.ptl with injArm := false } }
        exec (.patrolVisit k err c) s = .next (patrolStep (readCw v (patrolPa k (getStack s k).pos) 2 (joinErr err (injectedErr s.ptl.injMask)) true).1 k)))) ∧
  (∀ (s : State) (k : Fin 2) (err : CwErr) (c : BitVec 3), (s.ptl.inservice = false ∨ 2 ≤ s.pwr.st.toNat ∨ s.ptl.rate = 0) →
    exec (.patrolVisit k err c) s = .next s) ∧
  (∀ (s : State) (k : Fin 2), s.pwr.st.toNat < 2 →
    exec (.bucketLeak k) s = .next (modStack s k fun x => { x with level := x.level - 1 })) ∧
  (∀ (s : State) (k : Fin 2), 2 ≤ s.pwr.st.toNat → exec (.bucketLeak k) s = .next s) ∧
  (∀ (s : State) (k : Fin 2) (g : Fin 10), markedGroup (getStack s k) = none →
    exec (.phyGroupLost k g) s = .next (bucketAdd (modStack s k fun x => { x with dgfail := x.dgfail ||| BitVec.ofNat 10 (2 ^ g.val), recent := [] }) k
      (getStack s k).size.toNat)) ∧
  (∀ (s : State) (k : Fin 2) (g : Fin 10), markedGroup (getStack s k) ≠ none → exec (.phyGroupLost k g) s = .next s) ∧
  (∀ (s : State) (a b : Bool), inReset s = false → s.ptl.stDone = false →
    ∃ t, exec (.stackBringup a b) s = .next t ∧ t.ptl.stDone = true ∧ t.ptl.inservice = (!a && !b) ∧ t.mem.sm = [] ∧ t.mem.smValid = [] ∧
      (getStack t 0).lapEpoch = epochOf s ∧ (getStack t 1).lapEpoch = epochOf s ∧ (getStack t 0).stFail = a ∧ (getStack t 1).stFail = b ∧ t.mem.ws = s.mem.ws ∧ t.decks = s.decks)

/-- What a read of a codeword delivers and counts with no mark in force: none to four symbols in error deliver it correct, one to four counting a
corrected codeword; known to be uncorrectable it is delivered poisoned, counted, logged and stored in poison form. The model's choices in it:
log 5. -/
def Obligations.CodewordsAreCorrectedOrPoisoned : Prop :=
  ∀ (s : State) (pa kind : Nat) (err : List (BitVec 16)) (inj : Bool), sget false s.mem.smPoison (pa / 64) = false →
    markedGroup (getStack s (paStack pa)) = none →
    (errSymbols err = [] → readCw s pa kind (some err) inj = (s, .clean)) ∧
    (errSymbols err ≠ [] → (errSymbols err).length ≤ 4 → (readCw s pa kind (some err) inj).2 = .corrected ∧ (readCw s pa kind (some err) inj).1.mem = s.mem ∧
      (getStack (readCw s pa kind (some err) inj).1 (paStack pa)).ce = satAdd (getStack s (paStack pa)).ce 1) ∧
    (readCw s pa kind none inj).2 = .uncorrectable ∧ sget false (readCw s pa kind none inj).1.mem.smPoison (pa / 64) = true ∧
    (readCw s pa kind none inj).1.mem.sm = s.mem.sm ∧
    (getStack (readCw s pa kind none inj).1 (paStack pa)).ue = satAdd (getStack s (paStack pa)).ue 1 ∧
    (s.ptl.ueLog.length < 16 → ∃ v, (readCw s pa kind none inj).1.ptl.ueLog = s.ptl.ueLog ++ [v] ∧ v.pa = pa ∧ v.kind = 3)

/-- Frames on a port that is UP join its group; the fourth closes it, and the group before it is opened under the link's key and delivered. A frame
with more than 7 symbol errors is counted and marked. An unowned frame is accepted in its order; a gap is answered with NAK once. A port that is
LOST lands its owned slots as poison. The loss of a port: it is LOST and counted, the notice is flooded once, waybills that it cuts note it, and the
port tries again when told; the wake pattern of a sleeping port wakes the device while HZL_WAKE is set. The retry words: ACK drops what it
acknowledges, NAK resends from its number and the eighth for one number loses the port, REKEY starts the receiver's nonces anew, and ACK is sent with
the number expected. The model's choices in it: log 87, 88, 90, 131. -/
def Obligations.FramesAndRetryWords : Prop :=
  (∀ (s : State) (p : Fin 8) (f : Frame), (getPort s p).st = .up →
     let joined (v : State) (ft : BitVec 4) (bad : Bool) (slot : Option (Fin 64 × Nat × Nat)) : State := modPort v p fun x =>
       { x with group := x.group ++ [{ ftype := ft, ctrl := f.ctrl, payload := (f.payload ++ List.replicate 500 0).take 500, bad := bad, slot := slot }]
                tagBits := x.tagBits ++ [f.tagp] }
     let takes (v : State) (ft : BitVec 4) (slot : Option (Fin 64 × Nat × Nat)) (t : State) : Prop :=
       (f.symErrs ≤ 7 → (getPort v p).group.length < 3 → t = joined v ft false slot) ∧
       (f.symErrs ≤ 7 → (getPort v p).group.length = 3 → t = closeGroup (joined v ft false slot) p) ∧
       (7 < f.symErrs →
         let u := countUe v p
         ((getPort u p).st ≠ .up → t = u) ∧
         ((getPort u p).st = .up → (getPort u p).group.length < 3 → t = joined u ft true slot) ∧
         ((getPort u p).st = .up → (getPort u p).group.length = 3 → t = closeGroup (joined u ft true slot) p))
     (∃ t, exec (.unownedDataFrame p f) s = .next t ∧ takes s 2 none t) ∧ (∃ t, exec (.unownedReplayFrame p f) s = .next t ∧ takes s 3 none t) ∧
     (∃ t, exec (.idleFrame p f) s = .next t ∧ takes s 0 none t) ∧
     (∀ (e : Fin 64) (k x : Nat), slotOwner (getEng s e) p x = none →
       ∃ t, exec (.ownedSlotFrame p e k x f) s = .next t ∧ takes s 1 (if s.alm.aligned then some (e, k, x) else none) t) ∧
     (∀ (e : Fin 64) (k x : Nat), slotOwner (getEng s e) p x ≠ none →
       let v := advanceTo s (circuitBeat (getEng s e) k + x + (getPort s p).d.toNat)
       (getPort v p).st = .up →
       ∃ t, exec (.ownedSlotFrame p e k x f) s = .next t ∧ takes v 1 (if v.alm.aligned then some (e, k, x) else none) t)) ∧
  (∀ (s : State) (p : Fin 8), (getPort s p).prevGroup ≠ [] →
     let x := getPort s p
     let plain := Config.gcmOpen (Config.linkKey x.secret x.prevGen) (BitVec.ofNat 96 x.prevCtr) (groupAad x.prevGroup)
       (x.prevGroup.flatMap RxFrame.payload) (groupTag x.tagBits)
     let s1 := modPort s p fun y => { y with prevGroup := y.group, prevGen := y.rxGen, prevCtr := y.rxCtr, rxCtr := y.rxCtr + 1, group := [], tagBits := [] }
     closeGroup s p = noteTag (forEach x.prevGroup.zipIdx s1 (frameDelivers p plain)) p plain.isSome) ∧
  (∀ (s : State) (p : Nat) (resent : Bool) (bs : List Byte),
     let x := getPort s p
     let q : Word := BitVec.ofNat 32 (leNat (bs.take 4))
     (q = x.rxSeq → unownedArrives s p resent bs false =
       modPort s p fun x => { x with rxSeq := x.rxSeq + 1, rxData := (bs.drop 4).take 496, nakSent := false, naksFor := 0 }) ∧
     (q ≠ x.rxSeq → (x.nakSent = true ∨ 2 ^ 31 ≤ (q - x.rxSeq).toNat) → unownedArrives s p resent bs false = s) ∧
     (q ≠ x.rxSeq → x.nakSent = false → (q - x.rxSeq).toNat < 2 ^ 31 → unownedArrives s p resent bs false = sendNak s p)) ∧
  (∀ (s : State) (p : Fin 8) (e : Fin 64) (k x : Nat) (f : Frame), (getPort s p).st = .lost →
     exec (.ownedSlotFrame p e k x f) s = .next (ownedArrives s p (e, k, x) (List.replicate 500 0) true)) ∧
  ((∀ (s : State) (p : Fin 8), (getPort s p).st = .up → exec (.portLost p) s = .next (losePort s p)) ∧
   (∀ (s : State) (p : Fin 8), (getPort s p).st = .up →
     let s1 := fireVector (modPort s p fun x => { clearLink x with st := .lost, lostCnt := satAdd x.lostCnt 1, lostHeld := true, waitRetry := true }) 21
     let me := s.hzl.devnum.toNat
     let s2 := cutWaybills { s1 with hzl := { s1.hzl with seenLost := (me, p.val) :: s1.hzl.seenLost } } me p
     let s3 := forEach (upPorts s2) s2 fun v q => sendCtrl v q 1 (ctrlWord 6 (packNat [(p.val, 0, 3), (me, 3, 6)]))
     losePort s p = forEach (portEngs s3 p) s3 suspendForPort) ∧
   (∀ (s : State) (p : Fin 8) (body : BitVec 60),
     let key := (bitsOf body.toNat 3 6, bitsOf body.toNat 0 3)
     (key ∈ s.hzl.seenLost → exec (.lostn p body) s = .next s) ∧
     (key ∉ s.hzl.seenLost →
       let t := cutWaybills { s with hzl := { s.hzl with seenLost := key :: s.hzl.seenLost } } key.1 key.2
       exec (.lostn p body) s = .next (forEach ((upPorts t).filter (· ≠ p.val)) t fun v q => sendCtrl v q 1 (ctrlWord 6 (bitsOf body.toNat 0 9))))) ∧
   (∀ (s : State) (p : Fin 8), (getPort s p).waitRetry = true → ((getPort s p).st = .down ∨ (getPort s p).st = .lost) → s.alm.pllLock = true →
     exec (.portRetry p) s = .next
       (fireVector (modPort s p fun x => { x with st := .training, phase := 1, fails := 0, waitRetry := false, coeffs := false }) 21)) ∧
   (∀ (s : State) (p : Fin 8), (s.pwr.st = 1 ∨ (s.pwr.hzlWake = true ∧ (s.pwr.st = 3 ∨ (getPort s p).st = .sleep))) →
     exec (.wakePatternDetect p) s = .next (wake s 2 p))) ∧
  ((∀ (s : State) (p : Fin 8) (body : BitVec 60), exec (.ack p body) s = .next (modPort s p fun x => dropAcked x (BitVec.ofNat 32 body.toNat))) ∧
   (∀ (s : State) (p : Fin 8), (getPort s p).st = .up →
     exec (.ackSend p) s = .next (sendCtrl s p 1 (ctrlWord 3 (getPort s p).rxSeq.toNat)) ∧
     (∀ body : BitVec 60, exec (.rekey p body) s = .next (modPort s p fun x => { x with rxGen := BitVec.ofNat 11 body.toNat, rxCtr := 0 })) ∧
     (∀ body : BitVec 60, ((getPort s p).unacked.any fun f => f.1 == BitVec.ofNat 32 body.toNat) = true →
       let t := modPort s p fun x =>
         let y := dropAcked x (BitVec.ofNat 32 body.toNat)
         { y with resend := y.unacked, replay := satAdd y.replay y.unacked.length, naksGot := y.naksGot + 1 }
       exec (.nak p body) s = .next (if 8 ≤ (getPort t p).naksGot then losePort t p else t))))

/-- Training: phases 1 to 5 that pass lead to the next, phase 6 fixes the flight time and takes the peer's identity and version, phase 7 makes the
port UP under a fresh key; the third failure ends the attempt. A change of state fires vector 21. Route formation gives the device its place in the
broadcast tree, or has it run alone: no number stands twice, every device is reached, every version fits, and no link or path is too long. The
model's choices in it: log 91, 93. -/
def Obligations.TrainingAndRouteFormation : Prop :=
  (∀ (s : State) (p : Fin 8) (n : Nat) (peer : Fin 64) (pp : Fin 8) (v : Word) (rt : Nat), canTrain s p n = true → (getPort s p).st = .training →
    (n < 6 → exec (.portTrain p n true peer pp v rt) s = .next (modPort s p fun x => { x with st := .training, phase := nextPhase x n })) ∧
    (n = 6 → flightTime rt ≤ 8 → exec (.portTrain p n true peer pp v rt) s = .next (modPort s p fun x =>
      { x with phase := 7, peer := BitVec.ofNat 6 peer.val, peerPort := BitVec.ofNat 3 pp.val, peerVer := v, f := BitVec.ofNat 4 (flightTime rt)
               d := BitVec.ofNat 5 (flightTime rt + 5) })) ∧
    (n = 6 → 8 < flightTime rt → (getPort s p).fails < 2 → exec (.portTrain p n true peer pp v rt) s = .next (modPort s p trainFails)) ∧
    (n = 7 → exec (.portTrain p n true peer pp v rt) s = .next (fireVector (freshen (modPort s p (trainedPort s.free s.alm.beat))) 21)) ∧
    ((getPort s p).fails < 2 → exec (.portTrain p n false peer pp v rt) s = .next (modPort s p trainFails)) ∧
    (2 ≤ (getPort s p).fails → exec (.portTrain p n false peer pp v rt) s = .next (fireVector (modPort s p trainFails) 21))) ∧
  (∀ (s : State) (p : Fin 8) (peer : Fin 64) (pp : Fin 8) (v : Word) (rt : Nat), canTrain s p 1 = true → (getPort s p).st = .sleep →
    exec (.portTrain p 1 true peer pp v rt) s = .next (fireVector (modPort s p fun x => { x with st := .training, phase := nextPhase x 1 }) 21)) ∧
  (∀ (s : State) (p : Fin 8) (peer : Fin 64) (pp : Fin 8) (v : Word) (rt : Nat), canTrain s p 1 = true → (getPort s p).st = .down →
    exec (.portTrain p 1 true peer pp v rt) s = .next
      (fireVector (modPort (modPort s p fun x => { x with coeffs := false }) p fun x => { x with st := .training, phase := 2 }) 21)) ∧
  (∀ (s : State) (p : Fin 8) (n : Nat) (ok : Bool) (peer : Fin 64) (pp : Fin 8) (v : Word) (rt : Nat), canTrain s p n = false →
    exec (.portTrain p n ok peer pp v rt) s = .next s) ∧
  (∀ (s : State) (ns : List (Fin 64 × Word × List (Fin 8 × Fin 64 × Nat))), routeOk s ns = true →
    (ns.map fun n => n.1.val).Nodup ∧ (∀ n ∈ ns, n.1.val < s.hzl.ndev.toNat ∧ fieldOf n.2.1 16 16 = fieldOf s.fac.ver 16 16) ∧
    (∀ l ∈ nodeLinks ns s.hzl.devnum.toNat, fieldOf (getPort s l.1).peerVer 16 16 = fieldOf s.fac.ver 16 16) ∧
    (∀ d < s.hzl.ndev.toNat, (∃ x ∈ distances ns, x.1 = d) ∧ ∀ l, parentLink ns d = some l → l.2.2 ≤ 4) ∧
    (∀ a < s.hzl.ndev.toNat, ∀ b < s.hzl.ndev.toNat, treeHops ns a b ≤ 4)) ∧
  (∀ (s : State) (ns : List (Fin 64 × Word × List (Fin 8 × Fin 64 × Nat))),
    (joinRoute s ns).hzl.formed = true ∧ (joinRoute s ns).hzl.root = (s.hzl.devnum == 0) ∧ (joinRoute s ns).hzl.nodes = ns ∧
    (joinRoute s ns).hzl.parent = BitVec.ofNat 3 (((parentLink ns s.hzl.devnum.toNat).map fun l => l.1.val).getD 0) ∧
    (joinRoute s ns).hzl.children = BitVec.ofNat 8 (packNat (((List.range 8).filter (leadsToChild s ns)).map fun p => (1, p, 1))) ∧
    (joinRoute s ns).alm.master = (s.hzl.devnum == 0) ∧
    (runAlone s).hzl.formed = false ∧ (runAlone s).hzl.nodes = [] ∧ (runAlone s).alm.master = true ∧ (runAlone s).alm.aligned = true) ∧
  (∀ (s : State) (ns : List (Fin 64 × Word × List (Fin 8 × Fin 64 × Nat))), s.alm.pllLock = true → inReset s = false →
    (s.hzl.ports.all fun p => p.st != .training) = true →
    exec (.routeFormation ns) s = .next (if routeOk s ns && ns.any fun n => n.1.val == s.hzl.devnum.toNat then joinRoute s ns else runAlone s))

/-- The SPDM requests that a transport serves: each changes its connection as R441 says and gives its response; the codes and layouts are the
DMTF standard's (log 27). -/
def Obligations.SpdmRequestsAreServed : Prop :=
  ∀ (s0 : State) (p : SpdmPort),
    let s := if p = .doe then hostTouch s0 else s0
    spdmSilent s p = false → notReady s = none →
    let c := getConn s p
    let gives (i : Instr) (t : State) (r : SpdmResp) : Prop := exec i s0 = .next (recordResp t p r)
    gives (.getVersion p) (modConn s p fun _ => { port := p, version := true }) { code := 0x04, body := [0x00, 0x13] } ∧
    (c.version = true → gives (.getCapabilities p) (modConn s p fun c => { c with caps := true }) { code := 0x61, body := leBytes 4 capFlags }) ∧
    (c.caps = true → gives (.negotiateAlgorithms p true) (modConn s p fun c => { c with algs := true }) { code := 0x63, body := [0x80, 0x02, 0x10, 0x02, 0x01] }) ∧
    (c.algs = false → ∀ sl off n, gives (.getCertificate p sl off n) s (spdmError errUnexpected [])) ∧
    (c.algs = true →
      gives (.getDigests p) s { code := 0x01, body := BitVec.ofNat 8 (((certSlots s).map fun i => 2 ^ i).sum) :: (certSlots s).flatMap (chainDigest s) } ∧
      (∀ (sl : Fin 8) (off n : Nat), sl.val ∈ certSlots s → off < (chainOf s sl).length →
        let part := ((chainOf s sl).drop off).take n
        gives (.getCertificate p sl off n) s { code := 0x02, body := BitVec.ofNat 8 sl.val ::
          (leBytes 2 part.length ++ leBytes 2 ((chainOf s sl).length - off - part.length) ++ part) }) ∧
      (∀ (sl : Fin 8) (nonce : BitVec 256), sl.val ∈ certSlots s → gives (.challenge p sl nonce) (drew2 s)
        { code := 0x03, body := signed384 (BitVec.ofNat 8 sl.val :: (chainDigest s sl ++ drbg32 s)) (leBytes 32 nonce.toNat) }) ∧
      (∀ (i : Byte) (nonce : BitVec 256) (ks : List Nat), blocksAsked i.toNat = some ks →
        let rec_ := ks.flatMap (measureBytes s)
        let head := leBytes 1 (if i = 0 then blockNumbers.length else ks.length) ++ leBytes 3 rec_.length ++ rec_
        gives (.getMeasurements p i false nonce) s { code := 0x60, body := head } ∧
        gives (.getMeasurements p i true nonce) (drew2 s) { code := 0x60, body := signed384 (head ++ drbg32 s) (leBytes 32 nonce.toNat) }) ∧
      (∀ (sl : Fin 8) (m : Bool) (pub : BitVec 768), sl.val ∈ certSlots s → connSessions c < sessionLimit p →
        let n := freeSession s
        gives (.keyExchange p sl m pub) (freshen (modConn s p fun c => { c with handshake := c.handshake ++ [(n, m)] }))
          { code := 0x64, body := signed384 (leBytes 4 n.toNat ++ [if m then 1 else 0] ++ leBytes 96 (Config.dhPublic s.free).toNat) (leBytes 96 pub.toNat) }) ∧
      (∀ (n : Word) (m : Bool) (leaf : List Byte), (c.handshake.find? fun x => x.1 == n) = some (n, m) →
        gives (.finish p n leaf true)
          (modConn (modConn s p fun c => { c with handshake := c.handshake.filter fun x => x.1 != n }) p fun c =>
            { c with sessions := c.sessions ++ [(n, if m then some (Config.sha384 leaf) else none)] }) { code := 0x65, body := [] })) ∧
    (∀ n : Word, hasSession s p n = true →
      gives (.heartbeat p n) s { code := 0x68, body := [] } ∧
      gives (.keyUpdate p n) (modConn s p fun c => { c with keyGen := c.keyGen + 1 }) { code := 0x69, body := [] } ∧
      gives (.endSession p n) (modConn s p fun c => { c with sessions := c.sessions.filter fun x => x.1 != n }) { code := 0x6C, body := [] } ∧
      (p = .doe → s.cus.tdi = .unlocked →
        gives (.vendorDefinedRequest p n .tdispLock) { s with cus := { s.cus with tdi := .locked } } { code := 0x7E, body := [] }) ∧
      (p = .doe → s.cus.tdi = .locked →
        gives (.vendorDefinedRequest p n .tdispStart) { s with cus := { s.cus with tdi := .run } } { code := 0x7E, body := [] }) ∧
      (p = .doe → gives (.vendorDefinedRequest p n .tdispStop) { s with cus := { s.cus with tdi := .unlocked } } { code := 0x7E, body := [] }) ∧
      (∀ st : Fin 5, p = .doe → gives (.vendorDefinedRequest p n (.ideKm st true))
        { s with cus := { s.cus with ideStreams := s.cus.ideStreams ||| BitVec.ofNat 5 (2 ^ st.val) } } { code := 0x7E, body := [] }) ∧
      (∀ key, p = .mctp → s.bst.creds = [] →
        gives (.vendorDefinedRequest p n (.enrolFirst key)) { s with bst := { s.bst with creds := [(key, .admin)] } } { code := 0x7E, body := [] })) ∧
    (∀ (sl : Fin 8) (ch : List Byte), c.algs = true → p = .mctp → s.cus.tenancy = .none → (sl.val = 2 ∨ sl.val = 3) →
      gives (.setCertificate p sl ch) { s with cus := if sl.val = 2 then { s.cus with cert2 := ch } else { s.cus with cert3 := ch } }
        { code := 0x6E, body := [BitVec.ofNat 8 sl.val] }) ∧
    (∀ (h : Nat) (d : List Byte), gives (.chunkSend p h 0 false d) (modConn s p fun c => { c with chunks := d, chunkHandle := h, chunkSeq := 1 })
      { code := 0x05, body := leBytes 1 h ++ leBytes 2 0 }) ∧
    (∀ h n : Nat,
      let part := chunkPart c.large n
      exec (.chunkGet p h n) s0 = .next (modConn (recordResp s p
        (if part.isEmpty then spdmError errInvalidRequest [] else { code := 0x06, body := leBytes 1 h ++ leBytes 2 n ++ part })) p
        fun x => { x with large := (getConn s0 p).large }))

/-- The tunnel carries a request and its response through the consignor's granule; a key package of a session with a tenant's identity is
opened, checked and installed, or hands the tenancy back; a session whose heartbeat fails ends and the tenancy stays. The model's choices
in it: log 6, 27. -/
def Obligations.KeysAndTunnels : Prop :=
  (∀ (s : State) (mb : Mb), Accepted s mb 0x50 →
    let t := taken s mb
    let w := msgAt s mb
    let p := SpdmPort.tunnel (Fin.ofNat 16 mb)
    let r := serveReady (serve (Config.spdmDecode (winBytes t (wordAt w 1) (wordAt w 2)))) t p
    exec (.spdmTunnel mb) s = .next (tunnelReply (recordResp r.1 p r.2) mb w r.2)) ∧
  (∀ (s : State) (mb : Mb) (n : Word) (tid : BitVec 384), Accepted s mb 0x51 →
    let t := taken s mb
    let w := msgAt s mb
    ((getConn t (.tunnel (Fin.ofNat 16 mb))).sessions.find? fun x => x.1 == wordOf (wordAt w 3)) = some (n, some tid) →
    exec (.keyDeliver mb) s = .next
      (match Config.openSecured (wordOf (wordAt w 3)) (winBytes t (wordAt w 1) (wordAt w 2)) with
       | none => answered s t mb stIntegrity []
       | some bs =>
         if pkgOk bs = true ∧ keyStateOk t tid (pkgOf bs) = true then
           (if (pkgOf bs).relinquish then beginSwitch (answered s t mb stOk []) else answered s (installKeys t tid (pkgOf bs)) mb stOk [])
         else answered s t mb stPolicy [])) ∧
  (∀ (s : State) (mb : Mb), Accepted s mb 0x51 →
    let t := taken s mb
    (∀ x ∈ (getConn t (.tunnel (Fin.ofNat 16 mb))).sessions, x.1 = wordOf (wordAt (msgAt s mb) 3) → x.2 = none) →
    exec (.keyDeliver mb) s = .next (answered s t mb stPolicy [])) ∧
  (∀ (s : State) (p : SpdmPort) (n : Word), ∃ t, exec (.heartbeatTimeout p n) s = .next t ∧ hasSession t p n = false ∧ t.cus.tenancy = s.cus.tenancy ∧
    (∀ q, q ≠ p → getConn t q = getConn s q) ∧ t = { s with cus := t.cus })

/-- The tenant switch runs while the Factor is up and the device not in Camp: it leaves no tenancy, no keys, no session, an unlocked TDI,
empty stacked memory and Waystations and no granule, and counts the switch. The model's choices in it: log 17, 119. -/
def Obligations.TenantSwitchLeavesNothing : Prop :=
  ∀ s : State, s.cus.tenancy = .switching → s.cus.switchWaits = false → s.pwr.st.toNat < 2 → s.fac.up = true →
    ∃ t, exec .tenantSwitch s = .next t ∧ t.cus.tenancy = .none ∧ t.cus.tenantId = 0 ∧ t.cus.kMem = 0 ∧ t.cus.kSeal = 0 ∧ t.cus.kBnc = 0 ∧
      t.cus.conf = false ∧ t.cus.bounce = false ∧ t.cus.tdi = .unlocked ∧ t.cus.scopes = 0 ∧ t.cus.swRec = none ∧
      t.cus.switches = satAdd s.cus.switches 1 ∧ (∀ c ∈ t.cus.conns, c.sessions = [] ∧ c.handshake = []) ∧
      t.mem.sm = [] ∧ t.mem.ws = [] ∧ t.gran = [] ∧ t.targets = []

/-- What an ADMIN of the management network asks: a session for a stored key, a credential, the tenant's eviction, a reset, the debug port, or
a power state; nothing happens for a client without that role. The model's choices in it: log 104. -/
def Obligations.ManagementActsForAnAdmin : Prop :=
  (∀ (s : State) (key : BitVec 384) (r : Role), mgmtUp s = true → (s.bst.creds.find? fun c => c.1 == key) = some (key, r) →
    exec (.mgmtTlsConnect key true) s = .next { s with cus := { s.cus with mgmtSessions := (key, r) :: s.cus.mgmtSessions.filter fun x => x.1 != key } }) ∧
  (∀ (s : State) (cl : BitVec 384), mgmtUp s = true → mgmtHas s cl .admin = true →
    (∀ (key : BitVec 384) (r : Role), (s.bst.creds.filter fun c => c.1 != key).length < 8 →
      exec (.mgmtEnrol cl key r) s = .next { s with bst := { s.bst with creds := (s.bst.creds.filter fun c => c.1 != key) ++ [(key, r)] } }) ∧
    (s.cus.tenancy = .held → exec (.mgmtEvict cl) s = .next
      { s with cus := { s.cus with tenancy := .switching, swRec := some (s.cus.tenantId.extractLsb' 0 128) } }) ∧
    (s.cus.tenancy ≠ .held → exec (.mgmtEvict cl) s = .next s) ∧
    (∀ cold : Bool, exec (.mgmtReset cl cold) s = .next (beginReset s 5 cold false false)) ∧
    exec (.mgmtDebugEnable cl) s = .next { s with cus := { s.cus with debugPort := true } } ∧
    (∀ t : BitVec 2, exec (.mgmtPowerRequest cl t) s = .next
      (retarget { s with pwr := { s.pwr with adminTarget := if t.toNat < 2 then 0 else t } }))) ∧
  (∀ (s : State) (cl : BitVec 384), mgmtHas s cl .admin = false →
    (∀ key r, exec (.mgmtEnrol cl key r) s = .next s) ∧ exec (.mgmtEvict cl) s = .next s ∧ (∀ cold, exec (.mgmtReset cl cold) s = .next s) ∧
    exec (.mgmtDebugEnable cl) s = .next s ∧ ∀ t, exec (.mgmtPowerRequest cl t) s = .next s)

/-- The debug port reads memory and halts the Factor where its scope is open, and gives nothing elsewhere; an access whose scope is open to an
address that does not exist is the block's one fault. Every scope is open without a tenant, a granted one while a tenancy is held, none during a
switch. The model's choices in it: log 32, 108, 114. -/
def Obligations.DebugPortKeepsItsScopes : Prop :=
  (∀ (s : State) (c : Fin 32) (a : Nat), debugUp s = true → scopeOpen s 2 = true →
    (a + 4 ≤ wsSize → exec (.debugPortAccess (.waystation c a)) s = .next
      { s with cus := { s.cus with debugOk := true, debugData := wsBytes s (physOf s c) a 4 } }) ∧
    (wsSize < a + 4 → exec (.debugPortAccess (.waystation c a)) s = .fault .noSuchAddress)) ∧
  (∀ (s : State) (pa : Nat), debugUp s = true → scopeOpen s 2 = true →
    (pa + 4 ≤ paLimit → exec (.debugPortAccess (.stacked pa)) s = .next
      { s with cus := { s.cus with debugOk := true, debugData := plainOf (smRead (settled s) pa 4) } }) ∧
    (paLimit < pa + 4 → exec (.debugPortAccess (.stacked pa)) s = .fault .noSuchAddress)) ∧
  (∀ (s : State) (t : DebugTarget) (u : State), debugUp s = false → exec (.debugPortAccess t) s = .next u →
    u.cus.debugOk = false ∧ u.cus.debugData = [] ∧ u.cus.factorHalted = s.cus.factorHalted ∧ u.mem = s.mem ∧ u.decks = s.decks) ∧
  (∀ s : State, debugUp s = true → scopeOpen s 3 = true →
    exec (.debugPortAccess .factorHalt) s = .next { s with cus := { s.cus with debugOk := true, debugData := [], factorHalted := true } } ∧
    exec (.debugPortAccess .factorRun) s = .next { s with cus := { s.cus with debugOk := true, debugData := [], factorHalted := false } } ∧
    exec (.debugPortAccess .factorStep) s = .next { s with cus := { s.cus with debugOk := true, debugData := [] } } ∧
    ∃ t, exec (.debugPortAccess .factorReg) s = .next t ∧ t.cus.debugOk = true ∧ t.cus.debugData.length = 4 ∧
      t = { s with free := s.free + 1, cus := { s.cus with debugOk := true, debugData := t.cus.debugData } }) ∧
  (∀ (s : State) (c : Fin 32), debugUp s = true → scopeOpen s 1 = true →
    ∃ t, exec (.debugPortAccess (.legTrace c)) s = .next t ∧ t.cus.debugOk = true ∧ t.cus.debugData.length = 4 ∧
      t = { s with free := s.free + 1, cus := { s.cus with debugOk := true, debugData := t.cus.debugData } }) ∧
  (∀ s : State, debugUp s = true →
    let none_ := { s with cus := { s.cus with debugOk := false, debugData := [] } }
    (scopeOpen s 1 = false → ∀ c, exec (.debugPortAccess (.legTrace c)) s = .next { none_ with free := s.free + 1 }) ∧
    (scopeOpen s 2 = false → (∀ c a, exec (.debugPortAccess (.waystation c a)) s = .next none_) ∧ ∀ pa, exec (.debugPortAccess (.stacked pa)) s = .next none_) ∧
    (scopeOpen s 3 = false → exec (.debugPortAccess .factorHalt) s = .next none_ ∧ exec (.debugPortAccess .factorRun) s = .next none_ ∧
      exec (.debugPortAccess .factorStep) s = .next none_ ∧ exec (.debugPortAccess .factorReg) s = .next { none_ with free := s.free + 1 })) ∧
  (∀ (s : State) (b : Nat), scopeOpen s b = true ↔ s.cus.tenancy = .none ∨ (s.cus.tenancy = .held ∧ bitOf s.cus.scopes.toNat b = true))

/-- WAITS of a free Factor enters the state TARGET names when no unit refuses, and is completed with the refusing unit counted and named
otherwise; the end of an entry is in that state. Wakes: the host, the epoch timer and TARGET 0 wake the device as R516 says; in Halt a
wake only resumes the Factor, in Camp it begins the exit with its code, in Deep Camp a cold start, and during an entry it aborts it; the exit ends in
Trek once ports and decks are ready, and the time of Camp counts for no Patrol lap. The model's choices in it: log 104, 105, 138. -/
def Obligations.PowerStatesAndWakes : Prop :=
  ((∀ s : State, factorFree s = true → s.pwr.target ≠ s.pwr.st → s.pwr.target ≠ 0 →
     (refusingUnit s s.pwr.target.toNat = none → exec .waits s = .next (freshen (beginEntry s))) ∧
     (∀ u, refusingUnit s s.pwr.target.toNat = some u →
       ∃ t, exec .waits s = .next t ∧ t.pwr.st = s.pwr.st ∧ t.pwr.entering = s.pwr.entering ∧ t.pwr.refused = satAdd s.pwr.refused 1 ∧
         t.pwr.refUnit = BitVec.ofNat 4 u ∧ t.pwr.refTarget = s.pwr.target ∧ t = { s with pwr := t.pwr, free := s.free + 1 })) ∧
   (∀ s : State, factorFree s = true → s.pwr.target ≠ s.pwr.st → s.pwr.target = 0 → exec .waits s = .next { s with pwr := { s.pwr with st := 0 } }) ∧
   (∀ s : State, factorFree s = true → s.pwr.target = s.pwr.st → exec .waits s = .next { s with fac := { s.fac with atWaits := true } }) ∧
   (∀ s : State, s.pwr.entering = true →
     ∃ t, exec .powerEntryComplete s = .next t ∧ t.pwr.st = s.pwr.target ∧ t.pwr.entering = false ∧ t.gpio.on = (s.gpio.on && s.pwr.target != 3) ∧ t.pwr.epochsPassed = 0 ∧ t.mem.host = s.mem.host ∧
       t.mem.boot = s.mem.boot ∧ (s.pwr.target ≠ 3 → t.mem = s.mem) ∧ (s.pwr.target = 3 → t.mem.ws = [] ∧ t.mem.sm = [])) ∧
   (∀ s : State, factorFree s = true → s.pwr.st = 0 → s.pwr.hint ≠ 2 → chooseTarget s = 0 → queuedEng s = none →
     exec .haltIdleTimer s = .next (waitsNow { s with pwr := { s.pwr with target := 1 } })) ∧
   (∀ s : State, exec .powerHintExpiry s = .next (retarget { s with pwr := { s.pwr with hint := 0, hintMs := 0 } }))) ∧
  ((∀ s : State, s.pwr.entering = true → exec .hostPcieWake s = .next (abortEntry s)) ∧
   (∀ s : State, s.pwr.entering = false → s.pwr.st = 1 → exec .hostPcieWake s = .next { s with fac := { s.fac with atWaits := false } }) ∧
   (∀ s : State, s.pwr.entering = false → s.pwr.st = 2 → s.pwr.exiting = false →
     exec .hostPcieWake s = .next { s with pwr := { s.pwr with exiting := true, wake := 1, wakePort := 0 } } ∧
     (s.pwr.epochs ≠ 0 → s.pwr.epochs.toNat ≤ s.pwr.epochsPassed →
       exec .epochTimerWake s = .next { s with pwr := { s.pwr with exiting := true, wake := 4, wakePort := 0 } })) ∧
   (∀ s : State, s.pwr.entering = false → s.pwr.st = 0 → exec .hostPcieWake s = .next s) ∧
   (∀ s : State, s.pwr.entering = false → s.pwr.st = 3 →
     let t := beginReset s 1 true false false
     exec .hostPcieWake s = .next { t with pwr := { t.pwr with wake := 1, wakePort := 0 } } ∧
     (s.pwr.epochs ≠ 0 → s.pwr.epochs.toNat ≤ s.pwr.epochsPassed →
       exec .epochTimerWake s = .next { t with pwr := { t.pwr with wake := 4, wakePort := 0 } })) ∧
   (∀ s : State, s.fac.running = true → s.pwr.st.toNat < 2 →
     exec .targetTrek s = .next (leaveHalt { s with pwr := { s.pwr with target := 0 } } 6)) ∧
   (∀ s : State, s.pwr.st = 2 → s.pwr.exiting = true → exitDone s = true →
     ∃ t, exec .campExit s = .next t ∧ t.pwr.st = 0 ∧ t.pwr.exiting = false ∧ t.pwr.adminTarget = 0 ∧ t.decks = s.decks ∧
       t.mem.ws = s.mem.ws ∧ t.mem.sm = s.mem.sm ∧ t.fac.atWaits = false ∧ ∀ k : Fin 2, (getStack t k).lapEpoch = (getStack s k).lapEpoch + s.pwr.epochsPassed))

/-- Supplies and regulators: a warning of VCORE or VAUX begins a power-on reset, a valid rail is noted; a regulator starts, is retried three
times after a short and then locked out with a count; VARR and lane supplies step between their levels. The Toll: a sample joins both
windows; the end of the 1 ms window stands in TOL_PWR as its average, and a 100 ms average above the limit sets OVER and fires vector 19.
The model's choices in it: log 101, 103, 112. -/
def Obligations.SuppliesRegulatorsAndToll : Prop :=
  ((∀ s : State, exec (.supplyWarning .vcore) s = .next (beginReset { s with pwr := { s.pwr with vcoreOk := false } } 1 true false false) ∧
     exec (.supplyWarning .vaux) s = .next (beginReset { s with pwr := { s.pwr with vauxOk := false } } 1 true false false) ∧
     exec (.supplyWarning .vsb) s = .next s ∧ exec (.supplyValid .vcore) s = .next { s with pwr := { s.pwr with vcoreOk := true } } ∧
     exec (.supplyValid .vaux) s = .next { s with pwr := { s.pwr with vauxOk := true } } ∧
     exec (.supplyValid .vsb) s = .next { s with pwr := { s.pwr with vsbOk := true } }) ∧
   (∀ (s : State) (p : Fin 34), regulatorsRun s = true →
     ((getCore s p).ivrOn = false → (getCore s p).ivrLock = false → s.ldg.spares.contains p.val = false →
       exec (.ivrStart p false) s = .next (modCore s p fun c => { c with ivrOn := true, ivrRetries := 0, varr := 1200 }) ∧
       ((getCore s p).ivrRetries < 3 → exec (.ivrStart p true) s = .next (modCore s p fun c => { c with ivrRetries := c.ivrRetries + 1 })) ∧
       (3 ≤ (getCore s p).ivrRetries → exec (.ivrStart p true) s = .next (lockIvr s p))) ∧
     (∀ k : Fin 12,
       let x := vget {} (getCore s p).pumps k
       let put (f : Pump → Pump) : State := modCore s p fun c => { c with pumps := vmod c.pumps k f }
       x.on = false → x.lockout = false →
       exec (.pumpStart p k false) s = .next (put fun y => { y with on := true, retries := 0 }) ∧
       (x.retries < 3 → exec (.pumpStart p k true) s = .next (put fun y => { y with retries := y.retries + 1 })) ∧
       (3 ≤ x.retries → exec (.pumpStart p k true) s = .next (lockPump s p k)))) ∧
   (∀ (s : State) (p : Fin 34), ((getCore s p).ivrLock = false → exec (.regulatorLockout p none) s = .next (lockIvr s p)) ∧
     (∀ k : Fin 12, (vget {} (getCore s p).pumps k).lockout = false → exec (.regulatorLockout p (some k)) s = .next (lockPump s p k))) ∧
   (∀ (s : State) (p : Fin 34), (getCore s p).ivrOn = true →
     ((getCore s p).varr = 900 → exec (.varrStep p true) s = .next (modCore s p fun c => { c with varr := 1200 })) ∧
     ((getCore s p).varr = 1200 → inStandby s p = true → exec (.varrStep p false) s = .next (modCore s p fun c => { c with varr := 900 }))) ∧
   (∀ (s : State) (p : Fin 8),
     ((getPort s p).st = .sleep → (getPort s p).laneMv = 900 → s.pwr.exiting = false →
       exec (.laneSupplyStep p true) s = .next (modPort s p fun x => { x with laneMv := 700 })) ∧
     ((getPort s p).st ≠ .lost → (getPort s p).laneMv = 700 → (s.pwr.exiting = true ∨ (getPort s p).st ≠ .sleep) →
       exec (.laneSupplyStep p false) s = .next (modPort s p fun x => { x with laneMv := 900 })))) ∧
  ((∀ (s : State) (q : Nat), inReset s = false → s.pwr.st ≠ 3 →
     exec (.tollSample q) s = .next
       { s with tol := { s.tol with sum1 := s.tol.sum1 + q, n1 := s.tol.n1 + 1, sum100 := s.tol.sum100 + q, n100 := s.tol.n100 + 1 } }) ∧
   (∀ s : State, 0 < s.tol.n1 → exec (.tollWindowEnd false) s = .next
     { s with tol := { s.tol with avg1 := BitVec.ofNat 12 (min 4095 (s.tol.sum1 / s.tol.n1)), sum1 := 0, n1 := 0 } }) ∧
   (∀ s : State, 0 < s.tol.n100 →
     let above := decide (4 * s.tol.limit.toNat * s.tol.n100 < s.tol.sum100)
     let t := { s with tol := { s.tol with avg100 := BitVec.ofNat 12 (min 4095 (s.tol.sum100 / s.tol.n100)), sum100 := 0, n100 := 0
                                           overLimit := s.tol.overLimit || above } }
     exec (.tollWindowEnd true) s = .next (if above then fireVector t 19 else t)))

/-- No access of the host to a mailbox page, a granule, a counter, a log, a lock or the shared window, and no event of its link, changes a
tile-deck, a target image, an engagement's placement, a Waystation byte or a key of the tenant. -/
def Obligations.HostAccessesLeaveWeightsAndKeys : Prop :=
  ∀ (c : Instr) (s t : State),
    (match c with
     | .mbxInDb .. | .mbxOutAck .. | .inboundSlotWrite .. | .crst .. | .mbxClrErr .. | .mbxGranReq .. | .mbxGranWrite .. | .tilClrOvf ..
     | .tilClrClip .. | .corClrNan .. | .corClrSat .. | .clrMe .. | .clrAtt .. | .clrStall .. | .xpkClrOvf .. | .xpkClrCrc .. | .clrLate ..
     | .clrTail .. | .prtStgClr | .hzlClrErr .. | .hzlClrRty .. | .bucketOvfClear .. | .ueLogRemove | .ptlInjArm .. | .violLogRemove | .evict
     | .drvFaultClear .. | .lockSet .. | .almBeatLoRead | .unprivilegedAccess .. | .bar4Read .. | .bar4Write .. | .configRequest .. | .flr
     | .hotReset | .pcieFatalError | .msixCoalesceExpiry .. => True
     | _ => False) →
    exec c s = .next t →
      t.decks = s.decks ∧ t.targets = s.targets ∧ t.mem.ws = s.mem.ws ∧ t.cus.kMem = s.cus.kMem ∧ t.cus.kSeal = s.cus.kSeal ∧
        t.cus.kBnc = s.cus.kBnc ∧ ∀ e : Fin 64, (getEng t e).st = (getEng s e).st ∧ (getEng t e).plan = (getEng s e).plan

/-- R576: a low level of TAMPER_N of 10 µs or longer is a Customs tamper in every power state: the tenant's keys are destroyed and a cold
device reset of source 8 begins. A shorter one does nothing, and with VSB absent none is detected. -/
def Obligations.TamperIsFiltered : Prop :=
  ∀ (s : State) (ns : Nat),
    (10000 ≤ ns → s.pwr.vsbOk = true → exec (.tamper ns) s = .next (beginReset (destroyKeys s) 8 true false false)) ∧
    (ns < 10000 → exec (.tamper ns) s = .next s) ∧ (s.pwr.vsbOk = false → exec (.tamper ns) s = .next s)

/-- R404: FENCE_CORE of a core already fenced replies OK and changes nothing but the message's own trace; while another fence or takeover is
computing its placement, FENCE_CORE of any other core and UNFENCE_CORE reply BUSY. The model's choices in it: log 35. -/
def Obligations.FencedCoresAnswerAtOnce : Prop :=
  ∀ (s : State) (mb : Mb),
    let t := taken s mb
    (Accepted s mb 0x40 →
      (isFenced t (bitsOf (wordAt (msgAt s mb) 1) 0 5) = true → exec (.fenceCore mb) s = .next (answered s t mb stOk [])) ∧
      (isFenced t (bitsOf (wordAt (msgAt s mb) 1) 0 5) = false → fenceBusy t = true →
        exec (.fenceCore mb) s = .next (answered s t mb stBusy []))) ∧
    (Accepted s mb 0x41 → fenceBusy t = true → ∀ ok : Bool, exec (.unfenceCore mb ok) s = .next (answered s t mb stBusy []))

/-- R470: a PROGRAM programs each word of its page that received a store whole, a store not given taken as all ones, and no other byte of the
array; with a word among them that is not erased it programs nothing and sets OPERR. -/
def Obligations.ProgramsWholeWords : Prop :=
  ∀ (s : State) (l : List (Nat × Word)) (page : Nat) (data : List (Nat × Word)), bstProgramSeq l = some (page, data) → s.bst.busy = false →
    4 ≤ page / 65536 → bstMarked s.bst (page / 65536) = true →
    let hit (a : Nat) : Prop := ∃ d ∈ data, d.1 / 32 = a / 32
    ((∃ a, hit a ∧ bstErased s (a / 32 * 32) = false) →
      exec (.bstProgram l) s = .next { s with bst := { s.bst with opErr := true, opErase := false, sector := BitVec.ofNat 10 (page / 65536) } }) ∧
    ((∀ a, hit a → bstErased s (a / 32 * 32) = true) →
      ∃ t u, exec (.bstProgram l) s = .next t ∧ t.mem = s.mem ∧ t.bst.busy = true ∧ t.bst.opErr = s.bst.opErr ∧
        exec .bstProgramDone t = .next u ∧ u.bst.busy = false ∧ u.bst.opErr = s.bst.opErr ∧
        (∀ a, ¬hit a → sget 0xFF u.mem.boot a = sget 0xFF s.mem.boot a) ∧
        (∀ a, hit a → (∀ d ∈ data, d.1 ≠ a / 4 * 4) → sget 0xFF u.mem.boot a = 0xFF) ∧
        (∀ (a : Nat) (v : Word) (before after : List (Nat × Word)), data = before ++ (a / 4 * 4, v) :: after → (∀ d ∈ after, d.1 ≠ a / 4 * 4) →
          sget 0xFF u.mem.boot a = v.extractLsb' (8 * (a % 4)) 8))

/-- R474: while an erase is suspended, an array read of a word outside the sector under erase is what it is with no operation under way; one
inside it reads 0xFF with a corrected-bit count of 7 and leaves UE and WARN. RESUME and ABORT are accepted; every other command sets
CMDERR and changes nothing else. A word that a buffer holds is not read from the array (R466). -/
def Obligations.SuspendedErasesAreRead : Prop :=
  ∀ s : State, s.bst.busy = true → s.bst.opErase = true → s.bst.susp = true →
    (∀ (off : BitVec 26) (n : Nat) (fetch taken : Bool), off.toNat / 32 * 32 ∉ s.bst.prefetch → off.toNat / 32 * 32 ∉ s.bst.branch →
      (off.toNat / 65536 = s.bst.sector.toNat → exec (.bstArrayRead off n fetch taken) s = .next
        { s with bst := { s.bst with readData := List.replicate 32 0xFF, fetchFault := false, loadAbort := false, lastCbc := 7 } }) ∧
      (off.toNat / 65536 ≠ s.bst.sector.toNat →
        ∃ t, exec (.bstArrayRead off n fetch taken) { s with bst := { s.bst with busy := false, susp := false } } = .next t ∧
          exec (.bstArrayRead off n fetch taken) s = .next { t with bst := { t.bst with busy := true, susp := true } })) ∧
    (∀ l : List (Nat × Word),
      let refused (t : Host.Outcome State Fault Refusal) : Prop := t = .next { s with bst := { s.bst with cmdErr := true } }
      refused (exec (.bstProgram l) s) ∧ refused (exec (.bstErase l) s) ∧ refused (exec (.bstSuspend l) s) ∧
      (bstShort 4 l = true → exec (.bstResume l) s = .next { s with bst := { s.bst with susp := false } }) ∧
      (bstShort 5 l = true → ∃ t, exec (.bstAbort l) s = .next t ∧ t.bst.busy = false ∧ t.bst.susp = false ∧ t.bst.cmdErr = s.bst.cmdErr))

/-- R50: a select leg that names, for each tile of its mask, the deck already active takes no beats and changes nothing but the core's count of legs
issued. -/
def Obligations.SelectsOfTheActiveDeckDoNothing : Prop :=
  ∀ (s : State) (ctx : LegCtx) (l : SelectLeg) (f : Fetched), Issued s ctx (.select l) f → l.string.toNat < 12 →
    let t := atLeg s ctx f.cyc
    (∀ k ∈ maskTiles l.tmask, activeDeck t (getTile t (legTile t ctx l.string.toNat k)) = some l.deck) →
    exec (.select ctx l) s = .next t
end

