-- ==== Sys2Proof/Laws/Commands.lean ====
section
/-! SUPPORT. What the shared wrappers of the commands do: taking a message, issuing a leg, and letting an effect under way come about. -/

namespace Sys2Proof.Machine

theorem takeMsg_accepted (s : State) (mb : Mb) (op : Nat) (act : State → List Word → State) (h : Accepted s mb op) :
    takeMsg s mb op act = act (taken s mb) (msgAt s mb) := by
  obtain ⟨h1, h2, h3⟩ := h
  simp [takeMsg, h1, h2, h3, taken]

theorem takeMsg_refused (s : State) (mb : Mb) (op : Nat) (act : State → List Word → State) (h1 : msgPosted s mb = true)
    (h2 : msgOpcode (msgAt s mb) = op) (h3 : entryStatus s mb (msgAt s mb) ≠ stOk) :
    takeMsg s mb op act = refuseMsg (commitMsg s mb) mb (msgAt s mb) (entryStatus s mb (msgAt s mb)) := by
  simp [takeMsg, h1, h2, h3]

theorem takeMsg_idle (s : State) (mb : Mb) (op : Nat) (act : State → List Word → State)
    (h : msgPosted s mb = false ∨ msgOpcode (msgAt s mb) ≠ op) : takeMsg s mb op act = s := by
  rcases h with h | h <;> simp [takeMsg, h]

/-! ## Legs -/

theorem onLeg_issued (s : State) (ctx : LegCtx) (b : LegBody) (f : Fetched) (act : State → Nat → State) (h : Issued s ctx b f) :
    onLeg s ctx b act = act (atLeg s ctx f.cyc) f.cyc := by
  obtain ⟨⟨h1, h2, h3, h4⟩, h5, h6⟩ := h
  simp [onLeg, h1, h2, h3, h4, h5, h6]

theorem onLeg_malformed (s : State) (ctx : LegCtx) (b : LegBody) (f : Fetched) (act : State → Nat → State) (h : Fetches s ctx f)
    (hm : legMalformed s (physOf s ctx.core) f.base f.bits = true) : onLeg s ctx b act = legFault (atLeg s ctx f.cyc) ctx 2 := by
  obtain ⟨h1, h2, h3, h4⟩ := h
  simp [onLeg, h1, h2, h3, h4, hm]

theorem onLeg_idle (s : State) (ctx : LegCtx) (b : LegBody) (act : State → Nat → State) (h : ∀ f, ¬Fetches s ctx f) : onLeg s ctx b act = s := by
  unfold onLeg
  split
  · rfl
  · rename_i f hf
    have h1 := h f
    simp only [Fetches, hf, true_and] at h1
    rw [if_neg h1]

theorem onLeg_other (s : State) (ctx : LegCtx) (b : LegBody) (f : Fetched) (act : State → Nat → State) (h : Fetches s ctx f)
    (hm : legMalformed s (physOf s ctx.core) f.base f.bits = false) (ho : legSpelt s (physOf s ctx.core) f.base f.bits b = false) :
    onLeg s ctx b act = s := by
  obtain ⟨h1, h2, h3, h4⟩ := h
  simp [onLeg, h1, h2, h3, h4, hm, ho]

theorem vecLeg_ready (s : State) (ctx : LegCtx) (vop : Byte) (d : VecDesc) (f : Fetched) (act : State → Nat → VecOut) (h : VecReady s ctx vop d f) :
    vecLeg s ctx vop d act = vecUnderWay s ctx vop d f (act (atLeg s ctx f.cyc) (legPhys s ctx f)) := by
  obtain ⟨h1, h2, h3, h4, h5⟩ := h
  rw [vecLeg, onLeg_issued s ctx _ f _ h1]
  simp only [legPhys, legCore] at *
  have h6 : ¬f.cyc < (getCore (atLeg s ctx f.cyc) (physOf (atLeg s ctx f.cyc) ctx.core)).vecFree := by omega
  simp [h2, h4, h5, h6, vecUnderWay, legPhys]

/-! ## Effects under way -/

/-- An effect that alone is under way, of a kind that leads to no other, comes about once its cycle has come. -/
theorem landDue_one (s : State) (f : Flight) (cc : Nat) (h : s.flights = [f]) (hs : landSteps f.what = 1) (hd : f.due ≤ cc) :
    landDue s cc = landOne { s with flights := [] } f := by
  have hn : ¬cc < f.due := by omega
  simp [landDue, h, hs, landFuel, nextDue, hn]

/-- No effect comes about before its cycle. -/
theorem nextDue_none (cc : Nat) (l : List Flight) (h : ∀ f ∈ l, cc < f.due) : nextDue cc l = none := by
  induction l with
  | nil => rfl
  | cons f l ih =>
    simp only [nextDue, List.foldl_cons, h f (List.mem_cons_self ..), if_true]
    exact ih fun g hg => h g (List.mem_cons_of_mem _ hg)

/-- Effects that are not yet due wait. -/
theorem landDue_early (s : State) (cc : Nat) (h : ∀ f ∈ s.flights, cc < f.due) : landDue s cc = s := by
  unfold landDue
  cases (s.flights.map fun f => landSteps f.what).sum <;> simp [landFuel, nextDue_none _ _ h]

/-- An effect that alone is under way comes about once its cycle has come, where those it leads to are due later. -/
theorem landDue_then (s u : State) (f : Flight) (cc : Nat) (h : s.flights = [f]) (hd : f.due ≤ cc) (hs : landSteps f.what ≠ 0)
    (h1 : landOne { s with flights := [] } f = u) (hu : ∀ x ∈ u.flights, cc < x.due) : landDue s cc = u := by
  have hn : ¬cc < f.due := by omega
  obtain ⟨n, hn2⟩ : ∃ n, landSteps f.what = n + 1 := ⟨landSteps f.what - 1, by omega⟩
  have : landDue s cc = landFuel n cc u := by simp [landDue, h, hn2, landFuel, nextDue, hn, h1]
  rw [this]
  cases n <;> simp [landFuel, nextDue_none _ _ hu]

theorem comesAbout_of_step (w : Land) (g : State → Flight → State) (hs : landSteps w = 1) (hg : ∀ s f, f.what = w → landOne s f = g s f) :
    ComesAbout w g := by
  intro s f cc h hw hd
  rw [landDue_one s f cc h (by rw [hw]; exact hs) hd, hg _ _ hw]

end Sys2Proof.Machine
end

