-- ==== Sys2Proof/Laws/Memory.lean ====
section
/-! SUPPORT. The memories of bytes: every operation either leaves all of them, or keeps the canonical form. -/

set_option linter.unusedSimpArgs false
set_option linter.unusedVariables false

namespace Sys2Proof.Machine

theorem foldl_mem {α : Type} (l : List α) (s : State) (f : State → α → State) (h : ∀ s a, (f s a).mem = s.mem) :
    (l.foldl f s).mem = s.mem := by
  induction l generalizing s with
  | nil => rfl
  | cons a l ih => simp only [List.foldl_cons]; rw [ih]; exact h s a

@[simp] theorem forEach_mem {α : Type} (l : List α) (s : State) (f : State → α → State) (h : ∀ s a, (f s a).mem = s.mem) :
    (forEach l s f).mem = s.mem := by
  unfold forEach
  induction l generalizing s with
  | nil => rfl
  | cons a l ih => simp only [List.foldl_cons]; rw [ih]; exact h s a

/-- `mem` stands as in `s`.  (A relation of its own: the kernel then compares states before it evaluates them.) -/
def Same_mem (s t : State) : Prop := t.mem = s.mem

theorem Same_mem.trans {s t u : State} (h : Same_mem s t) (k : Same_mem t u) : Same_mem s u := Eq.trans k h

theorem forEach_same_mem {α : Type} (l : List α) (s : State) (f : State → α → State) (h : ∀ s a, Same_mem s (f s a)) : Same_mem s (forEach l s f) :=
  forEach_mem l s f h

theorem foldl_fst_mem {α β : Type} (l : List α) (a : State × β) (f : State × β → α → State × β) (h : ∀ a x, (f a x).1.mem = a.1.mem) :
    (l.foldl f a).1.mem = a.1.mem := by
  induction l generalizing a with
  | nil => rfl
  | cons x l ih => simp only [List.foldl_cons]; rw [ih]; exact h a x

theorem swfFrom_mono {V : Type} [DecidableEq V] {d : V} {m : Sparse V} {a b : Nat} (h : a ≤ b) (w : swfFrom d b m = true) : swfFrom d a m = true := by
  cases m with
  | nil => rfl
  | cons e r =>
    simp only [swfFrom, Bool.and_eq_true, decide_eq_true_eq] at *
    exact ⟨⟨by omega, w.1.2⟩, w.2⟩

theorem swfFrom_sput {V : Type} [DecidableEq V] {d : V} {m : Sparse V} {lo a : Nat} {v : V} (ha : lo ≤ a) (hv : v ≠ d) (w : swfFrom d lo m = true) :
    swfFrom d lo (sput m a v) = true := by
  induction m generalizing lo with
  | nil => simp [sput, swfFrom, ha, hv]
  | cons e r ih =>
    simp only [swfFrom, Bool.and_eq_true, decide_eq_true_eq] at w
    obtain ⟨⟨h1, h2⟩, h3⟩ := w
    unfold sput
    split
    · subst a; simp [swfFrom, ha, hv, h3]
    · split
      · simp only [swfFrom, Bool.and_eq_true, decide_eq_true_eq]; exact ⟨⟨ha, hv⟩, ⟨by omega, h2⟩, h3⟩
      · simp only [swfFrom, Bool.and_eq_true, decide_eq_true_eq]; exact ⟨⟨h1, h2⟩, ih (by omega) h3⟩

theorem swfFrom_filter {V : Type} [DecidableEq V] {d : V} {m : Sparse V} {lo : Nat} (p : Nat × V → Bool) (w : swfFrom d lo m = true) :
    swfFrom d lo (m.filter p) = true := by
  induction m generalizing lo with
  | nil => rfl
  | cons e r ih =>
    simp only [swfFrom, Bool.and_eq_true, decide_eq_true_eq] at w
    obtain ⟨⟨h1, h2⟩, h3⟩ := w
    rw [List.filter_cons]
    split
    · simp only [swfFrom, Bool.and_eq_true, decide_eq_true_eq]; exact ⟨⟨h1, h2⟩, ih h3⟩
    · exact swfFrom_mono (by omega) (ih h3)

theorem swfFrom_sdel {V : Type} [DecidableEq V] {d : V} {m : Sparse V} {lo a : Nat} (w : swfFrom d lo m = true) : swfFrom d lo (sdel m a) = true :=
  swfFrom_filter _ w

@[simp] theorem sset_swf {V : Type} [DecidableEq V] {d : V} {m : Sparse V} (a : Nat) (v : V) (w : swf d m = true) : swf d (sset d m a v) = true := by
  unfold sset
  split
  · exact swfFrom_sdel w
  · exact swfFrom_sput (Nat.zero_le _) (by assumption) w

@[simp] theorem smod_swf {V : Type} [DecidableEq V] {d : V} {m : Sparse V} (a : Nat) (f : V → V) (w : swf d m = true) : swf d (smod d m a f) = true :=
  sset_swf _ _ w

@[simp] theorem ssetRun_swf {V : Type} [DecidableEq V] {d : V} (vs : List V) {m : Sparse V} (a : Nat) (w : swf d m = true) : swf d (ssetRun d m a vs) = true := by
  induction vs generalizing m a with
  | nil => exact w
  | cons v vs ih => exact ih _ (sset_swf _ _ w)

@[simp] theorem ssetAll_swf {V : Type} [DecidableEq V] {d : V} (l : List (Nat × V)) {m : Sparse V} (w : swf d m = true) : swf d (ssetAll d m l) = true := by
  unfold ssetAll
  induction l generalizing m with
  | nil => exact w
  | cons e l ih => exact ih (sset_swf _ _ w)

@[simp] theorem filter_swf {V : Type} [DecidableEq V] {d : V} {m : Sparse V} (p : Nat × V → Bool) (w : swf d m = true) : swf d (m.filter p) = true :=
  swfFrom_filter p w

@[simp] theorem sclear_swf {V : Type} [DecidableEq V] {d : V} {m : Sparse V} (lo n : Nat) (w : swf d m = true) : swf d (sclear m lo n) = true :=
  swfFrom_filter _ w

@[simp] theorem nil_swf {V : Type} [DecidableEq V] (d : V) : swf d [] = true := rfl

theorem Memory.wf_iff (m : Memory) : m.wf = true ↔ swf 0 m.ws = true ∧ swf false m.wsPoison = true ∧ swf 0 m.sm = true ∧ swf false m.smValid = true ∧
    swf false m.smPoison = true ∧ swf 0xFF m.boot = true ∧ swf 0 m.host = true ∧
    swf 0 m.stop = true ∧ swf 0 m.tcm = true := by
  simp only [Memory.wf, Bool.and_eq_true, and_assoc]

/-- Every memory of `s` has its canonical form. -/
def MemOk (s : State) : Prop := s.mem.wf = true

theorem foldl_wf {α : Type} (l : List α) (s : State) (f : State → α → State) (k : ∀ s a, s.mem.wf = true → (f s a).mem.wf = true) (h : s.mem.wf = true) :
    (l.foldl f s).mem.wf = true := by
  induction l generalizing s with
  | nil => exact h
  | cons a l ih => exact ih _ (k s a h)

@[simp] theorem forEach_wf {α : Type} (l : List α) (s : State) (f : State → α → State) (k : ∀ s a, s.mem.wf = true → (f s a).mem.wf = true) (h : s.mem.wf = true) :
    (forEach l s f).mem.wf = true := foldl_wf l s f k h

theorem forEach_ok {α : Type} (l : List α) (s : State) (f : State → α → State) (k : ∀ s a, MemOk s → MemOk (f s a)) (h : MemOk s) : MemOk (forEach l s f) :=
  foldl_wf l s f k h

theorem foldRun_swf (l : List (Nat × List Word)) (m : Sparse Byte) (h : swf 0xFF m = true) :
    swf 0xFF (l.foldl (fun m w => ssetRun 0xFF m w.1 (wordsBytes w.2)) m) = true := by
  induction l generalizing m with
  | nil => exact h
  | cons a l ih => exact ih _ (ssetRun_swf _ _ h)

theorem foldSet_swf (l : List (Nat × Byte)) (m : Sparse Byte) (h : swf 0xFF m = true) : swf 0xFF (l.foldl (fun m e => sset 0xFF m e.1 e.2) m) = true := by
  induction l generalizing m with
  | nil => exact h
  | cons a l ih => exact ih _ (sset_swf _ _ h)

theorem scopyRun_swf (m : Sparse Byte) (src dst n : Nat) (h : swf 0xFF m = true) : swf 0xFF (scopyRun m src dst n) = true := by
  unfold scopyRun
  exact foldSet_swf _ _ (sclear_swf _ _ h)

theorem boot_wf {m : Memory} {b : Sparse Byte} (h : m.wf = true) (k : swf 0xFF b = true) : Memory.wf { m with boot := b } = true := by
  rw [Memory.wf_iff] at h ⊢
  exact ⟨h.1, h.2.1, h.2.2.1, h.2.2.2.1, h.2.2.2.2.1, k, h.2.2.2.2.2.2⟩

theorem boot_swf {m : Memory} (h : m.wf = true) : swf 0xFF m.boot = true := ((Memory.wf_iff m).mp h).2.2.2.2.2.1

theorem foldAt_swf (off : Nat) (l : List (Byte × Nat)) (m : Sparse Byte) (h : swf 0xFF m = true) :
    swf 0xFF (l.foldl (fun b x => sset 0xFF b (off + x.2) x.1) m) = true := by
  induction l generalizing m with
  | nil => exact h
  | cons a l ih => exact ih _ (sset_swf _ _ h)

theorem sm_wf {m : Memory} {b : Sparse Byte} (h : m.wf = true) (k : swf 0 b = true) : Memory.wf { m with sm := b } = true := by
  rw [Memory.wf_iff] at h ⊢
  exact ⟨h.1, h.2.1, k, h.2.2.2⟩

theorem sm_swf {m : Memory} (h : m.wf = true) : swf 0 m.sm = true := ((Memory.wf_iff m).mp h).2.2.1

theorem foldl_fst_wf {α β : Type} (l : List α) (a : State × β) (f : State × β → α → State × β)
    (k : ∀ a x, a.1.mem.wf = true → (f a x).1.mem.wf = true) (h : a.1.mem.wf = true) : (l.foldl f a).1.mem.wf = true := by
  induction l generalizing a with
  | nil => exact h
  | cons x l ih => exact ih _ (k a x h)

@[simp] theorem takeSnap_mem (s : State) : (takeSnap s).mem = s.mem := by unfold takeSnap; with_reducible rfl

@[simp] theorem freshen_mem (s : State) : (freshen s).mem = s.mem := by unfold freshen; with_reducible rfl

@[simp] theorem mapMod_mem (s : State) (c : Nat) (f : LdgEntry → LdgEntry) : (mapMod s c f).mem = s.mem := by unfold mapMod; with_reducible rfl

@[simp] theorem modDeck_mem (s : State) (k : Nat) (f : Deck → Deck) : (modDeck s k f).mem = s.mem := by unfold modDeck; with_reducible rfl

@[simp] theorem modTile_mem (s : State) (k : Nat) (f : Tile → Tile) : (modTile s k f).mem = s.mem := by unfold modTile; with_reducible rfl

@[simp] theorem modCore_mem (s : State) (p : Nat) (f : Core → Core) : (modCore s p f).mem = s.mem := by unfold modCore; with_reducible rfl

@[simp] theorem modEng_mem (s : State) (e : Nat) (f : Eng → Eng) : (modEng s e f).mem = s.mem := by unfold modEng; with_reducible rfl

@[simp] theorem modMb_mem (s : State) (p : Nat) (f : MbPage → MbPage) : (modMb s p f).mem = s.mem := by unfold modMb; with_reducible rfl

@[simp] theorem modPort_mem (s : State) (p : Nat) (f : Port → Port) : (modPort s p f).mem = s.mem := by unfold modPort; with_reducible rfl

@[simp] theorem modStack_mem (s : State) (i : Nat) (f : Stack → Stack) : (modStack s i f).mem = s.mem := by unfold modStack; with_reducible rfl



@[simp] theorem fireVector_mem (s : State) (v : Nat) : (fireVector s v).mem = s.mem := by simp [fireVector, apply_ite State.mem]

@[simp] theorem msixWrite_mem (s : State) (i : Nat) (w : Word) : (msixWrite s i w).mem = s.mem := by simp [msixWrite, apply_ite State.mem]

@[simp] theorem logViolation_mem (s : State) (v : Viol) : (logViolation s v).mem = s.mem := by simp [logViolation, apply_ite State.mem]

@[simp] theorem memMod_mem (s : State) (f : Memory → Memory) : (memMod s f).mem = f s.mem := rfl

@[simp] theorem wsClear_wf (s : State) (h : s.mem.wf = true) : (wsClear s).mem.wf = true := by
  rw [Memory.wf_iff] at h
  unfold wsClear
  simp_all [memMod, Memory.wf_iff]

@[simp] theorem wsPutChunk_wf (s : State) (c : Nat × List MByte) (h : s.mem.wf = true) : (wsPutChunk s c).mem.wf = true := by
  rw [Memory.wf_iff] at h
  unfold wsPutChunk
  simp_all [memMod, Memory.wf_iff]

@[simp] theorem wsWrite_wf (s : State) (phys addr : Nat) (bs : List MByte) (h : s.mem.wf = true) : (wsWrite s phys addr bs).mem.wf = true := by
  unfold wsWrite
  exact forEach_wf _ _ _ wsPutChunk_wf h

theorem wsWrite_ok (s : State) (phys addr : Nat) (bs : List MByte) (h : MemOk s) : MemOk (wsWrite s phys addr bs) := wsWrite_wf s phys addr bs h

@[simp] theorem stopWrite_wf (s : State) (phys addr : Nat) (bs : List MByte) (h : s.mem.wf = true) : (stopWrite s phys addr bs).mem.wf = true := by
  rw [Memory.wf_iff] at h
  unfold stopWrite
  simp_all [memMod, Memory.wf_iff]

@[simp] theorem smPutChunk_wf (s : State) (c : Nat × List MByte) (h : s.mem.wf = true) : (smPutChunk s c).mem.wf = true := by
  rw [Memory.wf_iff] at h
  unfold smPutChunk
  simp_all [memMod, Memory.wf_iff]

@[simp] theorem smWrite_wf (s : State) (pa : Nat) (bs : List MByte) (h : s.mem.wf = true) : (smWrite s pa bs).mem.wf = true := by
  unfold smWrite
  exact forEach_wf _ _ _ smPutChunk_wf h

@[simp] theorem smClear_wf (s : State) (h : s.mem.wf = true) : (smClear s).mem.wf = true := by
  rw [Memory.wf_iff] at h
  unfold smClear
  simp_all [memMod, Memory.wf_iff]

@[simp] theorem landWrite_wf (s : State) (p : Posted) (h : s.mem.wf = true) : (landWrite s p).mem.wf = true := by unfold landWrite; simp [h]

@[simp] theorem settled_wf (s : State) (h : s.mem.wf = true) : (settled s).mem.wf = true := by
  unfold settled
  exact forEach_wf _ _ _ landWrite_wf h

@[simp] theorem noteStaging_mem (s : State) : (noteStaging s).mem = s.mem := by unfold noteStaging; with_reducible rfl
@[simp] theorem holdStaging_mem (s : State) (id n : Nat) (b : Beat) : (holdStaging s id n b).mem = s.mem := by unfold holdStaging; simp

@[simp] theorem postWrite_mem (s : State) (pa : Nat) (bs : List MByte) : (postWrite s pa bs).mem = s.mem := by unfold postWrite; simp

@[simp] theorem engWrite_wf (s : State) (e off : Nat) (bs : List MByte) (h : s.mem.wf = true) : (engWrite s e off bs).mem.wf = true := by
  unfold engWrite
  exact forEach_wf _ _ _ smPutChunk_wf h

@[simp] theorem engPost_mem (s : State) (e off : Nat) (bs : List MByte) : (engPost s e off bs).mem = s.mem := by unfold engPost; simp

@[simp] theorem modGran_mem (s : State) (k : Nat) (f : Gran → Gran) : (modGran s k f).mem = s.mem := by unfold modGran; with_reducible rfl

@[simp] theorem winWrite_wf (s : State) (addr : Nat) (bs : List MByte) (h : s.mem.wf = true) : (winWrite s addr bs).mem.wf = true := by
  unfold winWrite
  exact forEach_wf _ _ _ smPutChunk_wf h

@[simp] theorem bouncePushChunk_wf (k ctr : Nat) (s : State) (c : Nat) (h : s.mem.wf = true) : (bouncePushChunk k ctr s c).mem.wf = true := by
  rw [Memory.wf_iff] at h
  unfold bouncePushChunk
  dsimp only
  generalize List.replicate 4096 (0 : Byte) = w
  simp_all [memMod, Memory.wf_iff]

@[simp] theorem bouncePush_wf (s : State) (k : Nat) (h : s.mem.wf = true) : (bouncePush s k).mem.wf = true := by
  unfold bouncePush
  exact forEach_wf _ _ _ (fun s c => bouncePushChunk_wf _ _ s c) h

@[simp] theorem bouncePull_wf (s : State) (k : Nat) (h : s.mem.wf = true) : (bouncePull s k).1.mem.wf = true := by
  unfold bouncePull
  dsimp only
  split <;> exact winWrite_wf _ _ _ h

@[simp] theorem granHold_mem (s : State) (ks : List Nat) : (granHold s ks).mem = s.mem := by unfold granHold; simp

@[simp] theorem granDrop_wf (s : State) (k : Nat) (hw : s.mem.wf = true) : (granDrop s k).mem.wf = true := by
  unfold granDrop
  (try dsimp only)
  (repeat' split) <;> simp [hw]

@[simp] theorem granRelease_wf (s : State) (ks : List Nat) (hw : s.mem.wf = true) : (granRelease s ks).mem.wf = true := by
  unfold granRelease
  (try dsimp only)
  (repeat' split) <;> simp_all

@[simp] theorem granTidy_mem (s : State) (j : Nat) : (granTidy s j).mem = s.mem := by simp [granTidy, apply_ite State.mem]

@[simp] theorem setResp_mem (s : State) (r : HostResp) : (setResp s r).mem = s.mem := by unfold setResp; with_reducible rfl

@[simp] theorem aerNonFatal_mem (s : State) : (aerNonFatal s).mem = s.mem := by unfold aerNonFatal; with_reducible rfl

@[simp] theorem bstMod_mem (s : State) (f : Bst → Bst) : (bstMod s f).mem = s.mem := by unfold bstMod; with_reducible rfl

@[simp] theorem bstCmdErr_mem (s : State) : (bstCmdErr s).mem = s.mem := by unfold bstCmdErr; simp

@[simp] theorem bstStartProgram_mem (s : State) (l : List (Nat × Word)) : (bstStartProgram s l).mem = s.mem := by
  unfold bstStartProgram
  (try dsimp only)
  (repeat' split) <;> simp

@[simp] theorem bstFinishProgram_wf (s : State) (h : s.mem.wf = true) : (bstFinishProgram s).mem.wf = true := by
  unfold bstFinishProgram
  split
  · split
    · simp only [memMod_mem, bstMod_mem]; exact boot_wf h (foldRun_swf _ _ (boot_swf h))
    · exact h
  · exact h

@[simp] theorem bstStartErase_mem (s : State) (l : List (Nat × Word)) : (bstStartErase s l).mem = s.mem := by
  unfold bstStartErase
  (try dsimp only)
  (repeat' split) <;> simp

@[simp] theorem bstScramble_wf (s : State) (off n : Nat) (h : s.mem.wf = true) : (bstScramble s off n).mem.wf = true := by
  unfold bstScramble
  simp only [memMod_mem]
  exact boot_wf h (ssetRun_swf _ _ (boot_swf h))

@[simp] theorem bstSegment_wf (s : State) (last verifyOk : Bool) (h : s.mem.wf = true) : (bstSegment s last verifyOk).mem.wf = true := by
  unfold bstSegment
  dsimp only
  split
  · split
    · split
      · rw [memMod_mem]; exact boot_wf h (sclear_swf _ _ (boot_swf h))
      · refine bstScramble_wf _ _ _ ?_
        exact h
    · exact h
  · exact h

@[simp] theorem bstDoSuspend_mem (s : State) (l : List (Nat × Word)) : (bstDoSuspend s l).mem = s.mem := by simp [bstDoSuspend, apply_ite State.mem]

@[simp] theorem bstDoResume_mem (s : State) (l : List (Nat × Word)) : (bstDoResume s l).mem = s.mem := by simp [bstDoResume, apply_ite State.mem]

@[simp] theorem bstCutShort_wf (s : State) (h : s.mem.wf = true) : (bstCutShort s).mem.wf = true := by
  unfold bstCutShort
  dsimp only
  split
  · simp only [bstMod_mem]
    split
    · exact bstScramble_wf _ _ _ h
    · split
      · exact bstScramble_wf _ _ _ h
      · exact h
  · exact h

@[simp] theorem bstDoAbort_wf (s : State) (l : List (Nat × Word)) (hw : s.mem.wf = true) : (bstDoAbort s l).mem.wf = true := by
  unfold bstDoAbort
  (try dsimp only)
  (repeat' split) <;> simp [hw]

@[simp] theorem bstNote_mem (s : State) (off cbc : Nat) : (bstNote s off cbc).mem = s.mem := by unfold bstNote; simp

@[simp] theorem bstRead_mem (s : State) (offset errs : Nat) (fetch taken : Bool) : (bstRead s offset errs fetch taken).mem = s.mem := by simp [bstRead, apply_ite State.mem]

@[simp] theorem bstRefresh_wf (s : State) (h : s.mem.wf = true) : (bstRefresh s).mem.wf = true := by
  unfold bstRefresh
  dsimp only
  split
  · split
    · simp only [memMod_mem, bstMod_mem]; exact boot_wf h (scopyRun_swf _ _ _ _ (boot_swf h))
    · exact h
  · exact h

@[simp] theorem bstClearWarn_mem (s : State) : (bstClearWarn s).mem = s.mem := by unfold bstClearWarn; simp

@[simp] theorem startImage_mem (s : State) : (startImage s).mem = s.mem := by
  unfold startImage
  (try dsimp only)
  (repeat' split) <;> simp

@[simp] theorem updateImage_mem (s : State) (client : BitVec 384) (h : ImageHdr) : (updateImage s client h).mem = s.mem := by
  unfold updateImage
  (try dsimp only)
  (repeat' split) <;> simp

@[simp] theorem raiseSvn_mem (s : State) (client : BitVec 384) : (raiseSvn s client).mem = s.mem := by
  unfold raiseSvn
  (try dsimp only)
  (repeat' split) <;> simp

@[simp] theorem confirmImage_mem (s : State) : (confirmImage s).mem = s.mem := by
  unfold confirmImage
  (try dsimp only)
  (repeat' split) <;> simp

@[simp] theorem putBoot_wf (s : State) (off : Nat) (bs : List Byte) (h : s.mem.wf = true) : (putBoot s off bs).mem.wf = true := by
  unfold putBoot
  simp only [memMod_mem]
  exact boot_wf h (foldAt_swf _ _ _ (boot_swf h))

@[simp] theorem eraseLogSector_wf (s : State) (c : Nat) (h : s.mem.wf = true) : (eraseLogSector s c).mem.wf = true := by
  unfold eraseLogSector
  simp only [bstMod_mem, memMod_mem]
  exact boot_wf h (filter_swf _ (boot_swf h))

@[simp] theorem appendErase_wf (s : State) (k cycles : Nat) (map : List (Nat × Nat × Nat)) (hw : s.mem.wf = true) : (appendErase s k cycles map).mem.wf = true := by
  unfold appendErase
  repeat' (first | with_reducible assumption | with_reducible apply eraseLogSector_wf | with_reducible apply forEach_wf | with_reducible apply putBoot_wf | with_reducible apply forEach_wf | simp only [bstMod_mem, forEach_mem] | intro _ | dsimp only | split)

@[simp] theorem commitErase_wf (s : State) (k : Nat) (hw : s.mem.wf = true) : (commitErase s k).mem.wf = true := by
  unfold commitErase
  (try dsimp only)
  (repeat' split) <;> simp_all

@[simp] theorem signalMb_mem (s : State) (mb : Nat) : (signalMb s mb).mem = s.mem := by simp [signalMb, apply_ite State.mem]

@[simp] theorem writeOut_mem (s : State) (mb : Nat) (m : List Word) : (writeOut s mb m).mem = s.mem := by unfold writeOut; simp

@[simp] theorem sendOut_mem (s : State) (mb : Nat) (m : List Word) : (sendOut s mb m).mem = s.mem := by simp [sendOut, apply_ite State.mem]

theorem drainHeldN_mem (n : Nat) (s : State) (mb : Nat) : (drainHeldN n s mb).mem = s.mem := by
  induction n generalizing s with
  | zero => rfl
  | succ n ih => unfold drainHeldN; split <;> (try split) <;> simp [ih]

@[simp] theorem drainHeld_mem (s : State) (mb : Nat) : (drainHeld s mb).mem = s.mem := drainHeldN_mem _ _ _

@[simp] theorem reply_mem (s : State) (mb : Nat) (op seq : Byte) (st : Byte) (payload : List Word) : (reply s mb op seq st payload).mem = s.mem := by unfold reply; simp

@[simp] theorem modQ_mem (s : State) (c q : Nat) (f : QEntry → QEntry) : (modQ s c q f).mem = s.mem := by
  unfold modQ
  (try dsimp only)
  (repeat' split) <;> simp

theorem flushN_wf (n : Nat) (s : State) (c : Nat) (h : s.mem.wf = true) : (flushN n s c).mem.wf = true := by
  induction n generalizing s with
  | zero => exact h
  | succ n ih => unfold flushN; (repeat' split) <;> simp [ih, h]

theorem flushOnce_wf (s : State) (c : Nat) (h : s.mem.wf = true) : (flushOnce s c).mem.wf = true := flushN_wf _ _ _ h
@[simp] theorem flushCompletions_wf (s : State) (c : Nat) (h : s.mem.wf = true) : (flushCompletions s c).mem.wf = true := by
  unfold flushCompletions
  exact flushOnce_wf _ _ (by rw [drainHeld_mem]; exact flushOnce_wf _ _ h)

@[simp] theorem endCons_wf (s : State) (c q : Nat) (st : Byte) (hw : s.mem.wf = true) : (endCons s c q st).mem.wf = true := by unfold endCons; simp [hw]

@[simp] theorem endAll_wf (s : State) (p : QEntry → Bool) (st : Byte) (hw : s.mem.wf = true) : (endAll s p st).mem.wf = true := by
  unfold endAll
  (try dsimp only)
  (repeat' split) <;> simp_all

@[simp] theorem commitMsg_mem (s : State) (mb : Nat) : (commitMsg s mb).mem = s.mem := by unfold commitMsg; simp

@[simp] theorem refuseMsg_wf (s : State) (mb : Nat) (w : List Word) (st : Byte) (hw : s.mem.wf = true) : (refuseMsg s mb w st).mem.wf = true := by unfold refuseMsg; simp [hw]

@[simp] theorem finishMsg_wf (s : State) (mb : Nat) (w : List Word) (st : Byte) (payload : List Word) (hw : s.mem.wf = true) : (finishMsg s mb w st payload).mem.wf = true := by unfold finishMsg; simp [hw]

@[simp] theorem takeMsg_wf (s : State) (mb : Mb) (op : Nat) (act : State → List Word → State)
    (k : ∀ s w, s.mem.wf = true → (act s w).mem.wf = true) (h : s.mem.wf = true) : (takeMsg s mb op act).mem.wf = true := by
  unfold takeMsg
  dsimp only
  (repeat' split) <;> simp [k, h]

@[simp] theorem pushRec_mem (s : State) (mb : Nat) (w : List Word) (r : LongRec) : (pushRec s mb w r).mem = s.mem := by unfold pushRec; simp

@[simp] theorem finishRec_wf (s : State) (mb : Nat) (r : LongRec) (st : Byte) (payload : List Word) (hw : s.mem.wf = true) : (finishRec s mb r st payload).mem.wf = true := by
  unfold finishRec
  (try dsimp only)
  (repeat' split) <;> simp [hw]

@[simp] theorem finishRecs_wf (s : State) (p : LongRec → Bool) (st : Byte) (payload : List Word) (hw : s.mem.wf = true) : (finishRecs s p st payload).mem.wf = true := by
  unfold finishRecs
  (try dsimp only)
  (repeat' split) <;> simp_all

@[simp] theorem dropUnread_wf (s : State) (mb : Nat) (hw : s.mem.wf = true) : (dropUnread s mb).mem.wf = true := by
  unfold dropUnread
  repeat' (first | with_reducible assumption | with_reducible apply forEach_wf | with_reducible apply granRelease_wf | with_reducible apply forEach_wf | simp only [forEach_mem, granHold_mem] | intro _ | dsimp only | split)

@[simp] theorem performCrst_wf (s : State) (mb : Nat) (hw : s.mem.wf = true) : (performCrst s mb).mem.wf = true := by
  unfold performCrst
  repeat' (first | with_reducible assumption | with_reducible apply dropUnread_wf | with_reducible apply endCons_wf | with_reducible apply flushCompletions_wf | with_reducible apply forEach_wf | with_reducible apply forEach_wf | simp only [forEach_mem, modMb_mem] | intro _ | dsimp only | split)

@[simp] theorem startCrst_wf (s : State) (mb : Nat) (hw : s.mem.wf = true) : (startCrst s mb).mem.wf = true := by
  unfold startCrst
  (try dsimp only)
  (repeat' split) <;> simp [hw]

@[simp] theorem clearGranules_mem (s : State) : (clearGranules s).mem = s.mem := by unfold clearGranules; with_reducible rfl

@[simp] theorem resetConsignors_wf (s : State) (hw : s.mem.wf = true) : (resetConsignors s).mem.wf = true := by
  unfold resetConsignors
  (try dsimp only)
  (repeat' split) <;> simp_all

@[simp] theorem setMbErr_mem (s : State) (mb : Nat) : (setMbErr s mb).mem = s.mem := by unfold setMbErr; simp

@[simp] theorem mapDecks_mem (s : State) (f : Nat → Deck → Deck) : (mapDecks s f).mem = s.mem := by unfold mapDecks; with_reducible rfl

@[simp] theorem stopAllProgramming_mem (s : State) (thermal : Bool) : (stopAllProgramming s thermal).mem = s.mem := by unfold stopAllProgramming; simp

@[simp] theorem closeLatches_mem (s : State) : (closeLatches s).mem = s.mem := by unfold closeLatches; simp

@[simp] theorem assertCold_wf (s : State) (vsbLost thermal : Bool) (h : s.mem.wf = true) : (assertCold s vsbLost thermal).mem.wf = true := by
  unfold assertCold
  have k : (stopAllProgramming (bstCutShort s) thermal).mem.wf = true := by rw [stopAllProgramming_mem]; exact bstCutShort_wf _ h
  rw [Memory.wf_iff] at k ⊢
  exact ⟨rfl, rfl, rfl, rfl, rfl, k.2.2.2.2.2.1, k.2.2.2.2.2.2.1, rfl, rfl⟩

@[simp] theorem gpioHold_mem (s : State) : (gpioHold s).mem = s.mem := by
  unfold gpioHold
  (try dsimp only)
  (repeat' split) <;> simp

@[simp] theorem gpioConfigure_mem (s : State) : (gpioConfigure s).mem = s.mem := by simp [gpioConfigure, apply_ite State.mem]

@[simp] theorem beginSwitch_mem (s : State) : (beginSwitch s).mem = s.mem := by simp [beginSwitch, apply_ite State.mem]

@[simp] theorem assertPerst_mem (s : State) : (assertPerst s).mem = s.mem := by simp [assertPerst, apply_ite State.mem]

@[simp] theorem assertWarm_wf (s : State) (perst : Bool) (hw : s.mem.wf = true) : (assertWarm s perst).mem.wf = true := by
  unfold assertWarm
  (try dsimp only)
  (repeat' split) <;> simp [hw]

@[simp] theorem beginReset_wf (s : State) (src : Nat) (cold vsbLost thermal : Bool) (hw : s.mem.wf = true) : (beginReset s src cold vsbLost thermal).mem.wf = true := by
  unfold beginReset
  (try dsimp only)
  (repeat' split) <;> simp [hw]

@[simp] theorem abortEntry_mem (s : State) : (abortEntry s).mem = s.mem := by unfold abortEntry; with_reducible rfl

@[simp] theorem retarget_mem (s : State) : (retarget s).mem = s.mem := by unfold retarget; with_reducible rfl

@[simp] theorem wake_wf (s : State) (code port : Nat) (hw : s.mem.wf = true) : (wake s code port).mem.wf = true := by
  unfold wake
  (try dsimp only)
  (repeat' split) <;> simp [hw]

@[simp] theorem leaveHalt_wf (s : State) (code : Nat) (hw : s.mem.wf = true) : (leaveHalt s code).mem.wf = true := by
  unfold leaveHalt
  (try dsimp only)
  (repeat' split) <;> simp [hw]

@[simp] theorem dropItins_mem (s : State) (e : Nat) : (dropItins s e).mem = s.mem := by unfold dropItins; with_reducible rfl

@[simp] theorem dropWsPages_mem (s : State) (e : Nat) : (dropWsPages s e).mem = s.mem := by unfold dropWsPages; with_reducible rfl

@[simp] theorem dropRegions_mem (s : State) (e : Nat) : (dropRegions s e).mem = s.mem := by unfold dropRegions; with_reducible rfl

@[simp] theorem dropTargets_mem (s : State) (e : Nat) : (dropTargets s e).mem = s.mem := by unfold dropTargets; with_reducible rfl

@[simp] theorem dropReservations_mem (s : State) (e : Nat) : (dropReservations s e).mem = s.mem := by unfold dropReservations; simp

@[simp] theorem retireEng_mem (s : State) (e : Nat) : (retireEng s e).mem = s.mem := by simp [retireEng, apply_ite State.mem]

@[simp] theorem retireCircuits_mem (s : State) (e : Nat) : (retireCircuits s e).mem = s.mem := by unfold retireCircuits; simp

@[simp] theorem condemn_mem (s : State) (c q : Nat) (st : Byte) : (condemn s c q st).mem = s.mem := by unfold condemn; simp

@[simp] theorem endCondemned_wf (s : State) (e : Nat) (hw : s.mem.wf = true) : (endCondemned s e).mem.wf = true := by
  unfold endCondemned
  repeat' (first | with_reducible assumption | with_reducible apply endCons_wf | with_reducible apply forEach_wf | with_reducible apply forEach_wf | simp only [forEach_mem, modQ_mem] | intro _ | dsimp only | split)

@[simp] theorem abortCons_wf (s : State) (e : Nat) (hw : s.mem.wf = true) : (abortCons s e).mem.wf = true := by
  unfold abortCons
  (try dsimp only)
  (repeat' split) <;> simp_all

@[simp] theorem nameSwap_mem (s : State) (e : Nat) (x : Nat) : (nameSwap s e x).mem = s.mem := by unfold nameSwap; simp

@[simp] theorem recordFault_mem (s : State) (p : Nat) (cause : Nat) (e : Nat) (leg : BitVec 16) : (recordFault s p cause e leg).mem = s.mem := by unfold recordFault; simp

@[simp] theorem legFault_mem (s : State) (ctx : LegCtx) (cause : Nat) : (legFault s ctx cause).mem = s.mem := by unfold legFault; simp

@[simp] theorem foreignPage_mem (s : State) (ctx : LegCtx) (addr : Nat) (write : Bool) : (foreignPage s ctx addr write).mem = s.mem := by unfold foreignPage; simp

@[simp] theorem putHistories_wf (s : State) (hs : List ((Nat × Nat) × List Byte)) (hw : s.mem.wf = true) : (putHistories s hs).mem.wf = true := by
  unfold putHistories
  (try dsimp only)
  (repeat' split) <;> simp_all

@[simp] theorem clearTrackers_wf (s : State) (e : Nat) (hw : s.mem.wf = true) : (clearTrackers s e).mem.wf = true := by unfold clearTrackers; simp [hw]

@[simp] theorem moveTrackers_wf (s : State) (e : Nat) (old new : Plan) (hw : s.mem.wf = true) : (moveTrackers s e old new).mem.wf = true := by unfold moveTrackers; simp [hw]

@[simp] theorem unmarkTable_wf (s : State) (e : Nat) (r : Region) (hw : s.mem.wf = true) : (unmarkTable s e r).mem.wf = true := by
  unfold unmarkTable
  (try dsimp only)
  (repeat' split) <;> simp [hw]

@[simp] theorem clearTables_wf (s : State) (e : Nat) (hw : s.mem.wf = true) : (clearTables s e).mem.wf = true := by
  unfold clearTables
  (try dsimp only)
  (repeat' split) <;> simp_all

@[simp] theorem tidyTakeover_mem (s : State) : (tidyTakeover s).mem = s.mem := by unfold tidyTakeover; with_reducible rfl

@[simp] theorem saveCoreMap_mem (s : State) : (saveCoreMap s).mem = s.mem := by unfold saveCoreMap; simp

@[simp] theorem sendCtrl_mem (s : State) (p n : Nat) (w : BitVec 64) : (sendCtrl s p n w).mem = s.mem := by unfold sendCtrl; simp

@[simp] theorem placeInTree_mem (s : State) (ns : List Node) : (placeInTree s ns).mem = s.mem := by unfold placeInTree; simp

@[simp] theorem recomputeTree_mem (s : State) : (recomputeTree s).mem = s.mem := by simp [recomputeTree, apply_ite State.mem]

@[simp] theorem cutWaybills_mem (s : State) (d p : Nat) : (cutWaybills s d p).mem = s.mem := by unfold cutWaybills; simp

@[simp] theorem noteOvf_mem (s : State) (n j : Nat) (ovf : Bool) : (noteOvf s n j ovf).mem = s.mem := by
  unfold noteOvf
  (try dsimp only)
  (repeat' split) <;> simp

theorem packRun_mem (put : State → Nat → Nat → List MByte → State) (e n : Nat) (r : Region) (tab : List Nat) (s : State)
    (blk : Nat) (blocks : List (List MByte)) (k : ∀ s a b l, (put s a b l).mem = s.mem) : (packRun put e n r tab s blk blocks).mem = s.mem := by
  unfold packRun
  dsimp only
  rw [forEach_mem _ _ _ (fun s b => noteOvf_mem _ _ _ _)]
  exact forEach_mem _ _ _ (fun s x => k _ _ _ _)

@[simp] theorem packRun_wf (put : State → Nat → Nat → List MByte → State) (e n : Nat) (r : Region) (tab : List Nat) (s : State)
    (blk : Nat) (blocks : List (List MByte)) (k : ∀ s a b l, s.mem.wf = true → (put s a b l).mem.wf = true) (h : s.mem.wf = true) :
    (packRun put e n r tab s blk blocks).mem.wf = true := by
  unfold packRun
  dsimp only
  rw [forEach_mem _ _ _ (fun s b => noteOvf_mem _ _ _ _)]
  exact forEach_wf _ _ _ (fun s x h => k _ _ _ _ h) h

theorem writeTable_mem (put : State → Nat → Nat → List MByte → State) (e n : Nat) (r : Region) (data : List MByte) (s : State)
    (k : ∀ s a b l, (put s a b l).mem = s.mem) : (writeTable put e n r data s).mem = s.mem := by
  unfold writeTable
  exact k _ _ _ _

@[simp] theorem writeTable_wf (put : State → Nat → Nat → List MByte → State) (e n : Nat) (r : Region) (data : List MByte) (s : State)
    (k : ∀ s a b l, s.mem.wf = true → (put s a b l).mem.wf = true) (h : s.mem.wf = true) : (writeTable put e n r data s).mem.wf = true := by
  unfold writeTable
  exact k _ _ _ _ h

@[simp] theorem countExpanded_mem (s : State) (p : Nat) (xs : List Expanded) : (countExpanded s p xs).mem = s.mem := by unfold countExpanded; simp

@[simp] theorem writeTarget_wf (s : State) (r : TargetRef) (weight : Nat → Nat → Int) (out : Nat → Byte × Int) (hw : s.mem.wf = true) : (writeTarget s r weight out).mem.wf = true := by
  unfold writeTarget
  repeat' (first | with_reducible assumption | with_reducible apply engWrite_wf | with_reducible apply forEach_wf | with_reducible apply forEach_wf | simp only [forEach_mem] | intro _ | dsimp only | split)

@[simp] theorem bucketAdd_mem (s : State) (st n : Nat) : (bucketAdd s st n).mem = s.mem := by simp [bucketAdd, apply_ite State.mem]

@[simp] theorem countCorrected_mem (s : State) (st : Nat) : (countCorrected s st).mem = s.mem := by unfold countCorrected; simp

@[simp] theorem markGroup_mem (s : State) (st g : Nat) : (markGroup s st g).mem = s.mem := by simp [markGroup, apply_ite State.mem]

@[simp] theorem noteGroup_mem (s : State) (st : Nat) (g : Nat) : (noteGroup s st g).mem = s.mem := by simp [noteGroup, apply_ite State.mem]

@[simp] theorem poisonTarget_mem (s : State) (pa : Nat) : (poisonTarget s pa).mem = s.mem := by
  unfold poisonTarget
  refine forEach_mem _ _ _ (fun _ _ => ?_)
  (try dsimp only)
  (repeat' split) <;> (first | with_reducible rfl | (simp [apply_ite State.mem]; done) | (simp_all [apply_ite State.mem]; done))

@[simp] theorem noteUe_wf (s : State) (pa kind : Nat) (h : s.mem.wf = true) : (noteUe s pa kind).mem.wf = true := by
  unfold noteUe
  dsimp only
  rw [memMod_mem]
  generalize hm : State.mem _ = m
  have hw : m.wf = true := by rw [← hm]; simp [h]
  rw [Memory.wf_iff] at hw ⊢
  simp_all

@[simp] theorem readCw_wf (s : State) (pa kind : Nat) (err : CwErr) (inj : Bool) (hw : s.mem.wf = true) : (readCw s pa kind err inj).1.mem.wf = true := by
  unfold readCw
  (try dsimp only)
  (repeat' split) <;> simp [hw]

@[simp] theorem drainWrite_wf (s : State) (err : CwErr) (hw : s.mem.wf = true) : (drainWrite s err).mem.wf = true := by
  unfold drainWrite
  repeat' (first | with_reducible assumption | with_reducible apply landWrite_wf | with_reducible apply readCw_wf | with_reducible apply smWrite_wf | with_reducible apply forEach_wf | simp only [noteStaging_mem] | intro _ | dsimp only | split)

@[simp] theorem patrolStep_mem (s : State) (st : Nat) : (patrolStep s st).mem = s.mem := by unfold patrolStep; simp

@[simp] theorem patrol_wf (s : State) (st : Nat) (err : CwErr) (copies : BitVec 3) (hw : s.mem.wf = true) : (patrol s st err copies).mem.wf = true := by
  unfold patrol
  (try dsimp only)
  (repeat' split) <;> simp [hw]

@[simp] theorem leak_mem (s : State) (st : Nat) : (leak s st).mem = s.mem := by simp [leak, apply_ite State.mem]

@[simp] theorem bringup_wf (s : State) (fail0 fail1 : Bool) (hw : s.mem.wf = true) : (bringup s fail0 fail1).mem.wf = true := by
  unfold bringup
  (try dsimp only)
  (repeat' split) <;> simp [hw]

@[simp] theorem readCws_wf (s : State) (e : Nat) (cws : List Nat) (errs : List (Nat × CwErr)) (h : s.mem.wf = true) :
    (readCws s e cws errs).mem.wf = true := by
  unfold readCws
  refine forEach_wf _ _ _ (fun s off h => ?_) h
  have key : ∀ (pa : Nat) (err : CwErr), (if (readCw s pa 0 err false).2 = .escaped then memMod (readCw s pa 0 err false).1 fun m =>
      { m with sm := ssetRun 0 m.sm pa (plainOf (cwData (readCw s pa 0 err false).1 pa .escaped err)) } else (readCw s pa 0 err false).1).mem.wf = true := by
    intro pa err
    have hr := readCw_wf s pa 0 err false h
    split
    · rw [memMod_mem]; exact sm_wf hr (ssetRun_swf _ _ (sm_swf hr))
    · exact hr
  dsimp only
  split
  · split
    · exact key _ _
    · exact h
  · exact h

@[simp] theorem landMove_wf (s : State) (p : Nat) (d : PorterDesc) (lo : Nat) (bs : List MByte) (h : s.mem.wf = true) : (landMove s p d lo bs).mem.wf = true := by
  unfold landMove
  exact forEach_wf _ _ _ (fun _ _ h => wsWrite_wf _ _ _ _ h) h

theorem landMove_ok (s : State) (p : Nat) (d : PorterDesc) (lo : Nat) (bs : List MByte) (h : MemOk s) : MemOk (landMove s p d lo bs) :=
  landMove_wf s p d lo bs h

@[simp] theorem landPacked_wf (s : State) (p e : Nat) (d : PorterDesc) (r : Region) (lo hi : Nat) (h : s.mem.wf = true) : (landPacked s p e d r lo hi).mem.wf = true := by
  show MemOk (landPacked s p e d r lo hi)
  unfold landPacked
  dsimp only
  have hs : ∀ (s : State) (l : List Nat) (f : Nat → Nat) (g : State → Nat → List MByte), MemOk s → MemOk (forEach l s fun s i => landMove s p d (f i) (g s i)) :=
    fun s l f g h => forEach_ok _ _ _ (fun s i h => landMove_ok _ _ _ _ _ h) h
  split
  · exact hs _ _ _ _ (hs _ _ _ _ h)
  · exact forEach_ok _ _ _ (fun s t h => wsWrite_ok _ _ _ _ h) (hs _ _ _ _ (hs _ _ _ _ h))

@[simp] theorem landStrips_wf (s : State) (p e : Nat) (d : PorterDesc) (h : s.mem.wf = true) : (landStrips s p e d).mem.wf = true := by
  show MemOk (landStrips s p e d)
  unfold landStrips
  split
  · exact forEach_ok _ _ _ (fun s j h => wsWrite_ok _ _ _ _ h) h
  · exact h

@[simp] theorem landFetched_wf (s : State) (p : Nat) (r : PendRead) (n : Nat) (errs : List (Nat × CwErr)) (h : s.mem.wf = true) :
    (landFetched s p r n errs).mem.wf = true := by
  unfold landFetched
  dsimp only
  rw [memMod_mem]
  refine sm_wf ?_ (sm_swf h)
  have h1 := readCws_wf s r.eng (partCws (fetchParts s r.eng r.desc) r.delivered n) errs h
  split <;> split
  · exact landStrips_wf _ _ _ _ (landPacked_wf _ _ _ _ _ _ _ h1)
  · exact landStrips_wf _ _ _ _ (landMove_wf _ _ _ _ _ h1)
  · exact landPacked_wf _ _ _ _ _ _ _ h1
  · exact landMove_wf _ _ _ _ _ h1

@[simp] theorem modRead_mem (s : State) (p id : Nat) (f : PendRead → PendRead) : (modRead s p id f).mem = s.mem := by unfold modRead; simp

@[simp] theorem dropRead_mem (s : State) (p id : Nat) : (dropRead s p id).mem = s.mem := by unfold dropRead; simp

@[simp] theorem landArrival_wf (s : State) (p id n : Nat) (errs : List (Nat × CwErr)) (hw : s.mem.wf = true) : (landArrival s p id n errs).mem.wf = true := by
  unfold landArrival
  (try dsimp only)
  (repeat' split) <;> simp [hw]

@[simp] theorem takeBanks_mem (s : State) (p : Nat) (us : List BankUse) : (takeBanks s p us).mem = s.mem := by unfold takeBanks; simp

@[simp] theorem launch_mem (s : State) (ctx : LegCtx) (due : Nat) (w : Land) : (launch s ctx due w).mem = s.mem := by unfold launch; with_reducible rfl

@[simp] theorem follow_mem (s : State) (f : Flight) (due : Nat) (w : Land) : (follow s f due w).mem = s.mem := by unfold follow; with_reducible rfl

@[simp] theorem flightCons_mem (s : State) (f : Flight) (g : QEntry → QEntry) : (flightCons s f g).mem = s.mem := by
  unfold flightCons
  (try dsimp only)
  (repeat' split) <;> simp

@[simp] theorem flightFault_mem (s : State) (f : Flight) (cause : Nat) : (flightFault s f cause).mem = s.mem := by unfold flightFault; simp

@[simp] theorem beginTile_mem (f : Flight) (l : StrikeLeg) (b : Nat) (a : State × List TileOuts) (x : Nat × Nat × Bundle) :
    (beginTile f l b a x).1.mem = a.1.mem := by
  unfold beginTile
  dsimp only
  (repeat' split) <;> simp

@[simp] theorem beginStrike_mem (s : State) (f : Flight) (l : StrikeLeg) (tiles : List (Nat × Nat × Bundle)) :
    (beginStrike s f l tiles).mem = s.mem := by
  have h := foldl_fst_mem tiles (s, ([] : List TileOuts)) (beginTile f l (f.due / 8)) (beginTile_mem f l (f.due / 8))
  unfold beginStrike
  dsimp only
  split <;> simp [h]

@[simp] theorem convOuts_mem (s : State) (p : Nat) (f : BitVec 4) (outs : List PVal) : (convOuts s p f outs).1.mem = s.mem := by unfold convOuts; simp

@[simp] theorem takeBus_mem (s : State) (p string b : Nat) : (takeBus s p string b).mem = s.mem := by unfold takeBus; simp

@[simp] theorem landOutputs_mem (s : State) (f : Flight) (l : StrikeLeg) (rs : List TileOuts) : (landOutputs s f l rs).mem = s.mem := by simp [landOutputs, apply_ite State.mem]

@[simp] theorem landReduced_wf (s : State) (f : Flight) (l : ReduceLeg) (string : Nat) (outs : List PVal) (hw : s.mem.wf = true) : (landReduced s f l string outs).mem.wf = true := by
  unfold landReduced
  (try dsimp only)
  (repeat' split) <;> simp [hw]

@[simp] theorem landBytes_wf (from_ : Nat) (s : State) (w : Nat × Nat × List MByte) (hw : s.mem.wf = true) : (landBytes from_ s w).mem.wf = true := by
  unfold landBytes
  (try dsimp only)
  (repeat' split) <;> simp [hw]

@[simp] theorem landResult_wf (s : State) (f : Flight) (ws : List (Nat × Nat × List MByte)) (k : Tally) (qs : Quants) (hw : s.mem.wf = true) : (landResult s f ws k qs).mem.wf = true := by
  unfold landResult
  repeat' (first | with_reducible assumption | with_reducible apply forEach_wf | with_reducible apply landBytes_wf | with_reducible apply forEach_wf | simp only [flightCons_mem, forEach_mem, modCore_mem] | intro _ | dsimp only | split)

@[simp] theorem landTile_mem (s : State) (f : Flight) (d : MatrixDesc) (t : Nat) : (landTile s f d t).mem = s.mem := by simp [landTile, apply_ite State.mem]

@[simp] theorem landBlock_mem (s : State) (f : Flight) (d : AttnDesc) (cyc j : Nat) (run : AttnRun) : (landBlock s f d cyc j run).mem = s.mem := by
  unfold landBlock
  (try dsimp only)
  (repeat' split) <;> simp

@[simp] theorem tableBuilt_mem (s : State) (n : Nat) : (tableBuilt s n).mem = s.mem := by
  unfold tableBuilt
  (try dsimp only)
  (repeat' split) <;> simp

@[simp] theorem landPost_mem (s : State) (f : Flight) (w : PostRec) : (landPost s f w).mem = s.mem := by
  unfold landPost
  (try dsimp only)
  (repeat' split) <;> simp

@[simp] theorem clearUnits_wf (s : State) (phys addr n : Nat) (h : s.mem.wf = true) : (clearUnits s phys addr n).mem.wf = true := by
  rw [Memory.wf_iff] at h
  unfold clearUnits
  simp_all [memMod, Memory.wf_iff]

@[simp] theorem landLinkSlot_wf (s : State) (f : Flight) (addr n off : Nat) (bs : List MByte) (hw : s.mem.wf = true) : (landLinkSlot s f addr n off bs).mem.wf = true := by
  unfold landLinkSlot
  (try dsimp only)
  (repeat' split) <;> simp [hw]

@[simp] theorem sendSlot_mem (s : State) (p : Nat) (bs : List MByte) : (sendSlot s p bs).mem = s.mem := by simp [sendSlot, apply_ite State.mem]

@[simp] theorem landOne_wf (s : State) (f : Flight) (hw : s.mem.wf = true) : (landOne s f).mem.wf = true := by
  unfold landOne
  (try dsimp only)
  (repeat' split) <;> simp_all

theorem landFuel_wf (n cc : Nat) (s : State) (h : s.mem.wf = true) : (landFuel n cc s).mem.wf = true := by
  induction n generalizing s with
  | zero => exact h
  | succ n ih => unfold landFuel; split <;> simp [ih, h]

@[simp] theorem landDue_wf (s : State) (cc : Nat) (h : s.mem.wf = true) : (landDue s cc).mem.wf = true := landFuel_wf _ _ _ h

@[simp] theorem dropFlights_mem (s : State) (p : Nat) : (dropFlights s p).mem = s.mem := by unfold dropFlights; simp

@[simp] theorem setBeat_wf (s : State) (b : Beat) (hw : s.mem.wf = true) : (setBeat s b).mem.wf = true := by
  unfold setBeat
  (try dsimp only)
  (repeat' split) <;> simp [hw]

@[simp] theorem tickBeat_wf (s : State) (hw : s.mem.wf = true) : (tickBeat s).mem.wf = true := by
  unfold tickBeat
  (try dsimp only)
  (repeat' split) <;> simp [hw]

@[simp] theorem advanceTo_wf (s : State) (b : Nat) (hw : s.mem.wf = true) : (advanceTo s b).mem.wf = true := by
  unfold advanceTo
  (try dsimp only)
  (repeat' split) <;> simp [hw]

@[simp] theorem almMod_mem (s : State) (f : Alm → Alm) : (almMod s f).mem = s.mem := by unfold almMod; with_reducible rfl

@[simp] theorem pllLocks_mem (s : State) : (pllLocks s).mem = s.mem := by simp [pllLocks, apply_ite State.mem]

@[simp] theorem rekeyPort_mem (s : State) (p : Nat) : (rekeyPort s p).mem = s.mem := by unfold rekeyPort; simp

@[simp] theorem endReplacing_wf (s : State) (e : Nat) (hw : s.mem.wf = true) : (endReplacing s e).mem.wf = true := by
  unfold endReplacing
  (try dsimp only)
  (repeat' split) <;> simp [hw]

@[simp] theorem rekeyPorts_mem (s : State) : (rekeyPorts s).mem = s.mem := by simp [rekeyPorts, apply_ite State.mem]

@[simp] theorem endPortEpochs_mem (s : State) : (endPortEpochs s).mem = s.mem := by unfold endPortEpochs; simp

@[simp] theorem endReplacings_wf (s : State) (hw : s.mem.wf = true) : (endReplacings s).mem.wf = true := by
  unfold endReplacings
  (try dsimp only)
  (repeat' split) <;> simp_all

@[simp] theorem countEpoch_mem (s : State) : (countEpoch s).mem = s.mem := by unfold countEpoch; with_reducible rfl

@[simp] theorem epochBoundary_wf (s : State) (hw : s.mem.wf = true) : (epochBoundary s).mem.wf = true := by
  unfold epochBoundary
  (try dsimp only)
  (repeat' split) <;> simp [hw]

@[simp] theorem alignSend_wf (s : State) (hw : s.mem.wf = true) : (alignSend s).mem.wf = true := by
  unfold alignSend
  (try dsimp only)
  (repeat' split) <;> simp [hw]

@[simp] theorem leaveAlignment_mem (s : State) : (leaveAlignment s).mem = s.mem := by simp [leaveAlignment, apply_ite State.mem]

@[simp] theorem loseCirc_mem (e : Nat) (s : State) (c : Circ) : (loseCirc e s c).mem = s.mem := by simp [loseCirc, apply_ite State.mem]

@[simp] theorem moveEng_mem (d : Int) (b : Nat) (s : State) (e : Nat) : (moveEng d b s e).mem = s.mem := by simp [moveEng, apply_ite State.mem]

@[simp] theorem realign_wf (s : State) (b : Nat) (hw : s.mem.wf = true) : (realign s b).mem.wf = true := by
  unfold realign
  repeat' (first | with_reducible assumption | with_reducible apply forEach_wf | with_reducible apply setBeat_wf | with_reducible apply forEach_wf | simp only [almMod_mem, forEach_mem, moveEng_mem] | intro _ | dsimp only | split)

@[simp] theorem alignWord_wf (s : State) (port : Nat) (body : Nat) (hw : s.mem.wf = true) : (alignWord s port body).mem.wf = true := by
  unfold alignWord
  (try dsimp only)
  (repeat' split) <;> simp [hw]

@[simp] theorem epochInEdge_wf (s : State) (edge : Nat) (hw : s.mem.wf = true) : (epochInEdge s edge).mem.wf = true := by
  unfold epochInEdge
  (try dsimp only)
  (repeat' split) <;> simp [hw]

@[simp] theorem referenceLost_mem (s : State) (fallbackValid : Bool) : (referenceLost s fallbackValid).mem = s.mem := by simp [referenceLost, apply_ite State.mem]

@[simp] theorem relockRef_mem (s : State) : (relockRef s).mem = s.mem := by simp [relockRef, apply_ite State.mem]

@[simp] theorem holdoverTimeout_mem (s : State) : (holdoverTimeout s).mem = s.mem := by simp [holdoverTimeout, apply_ite State.mem]

@[simp] theorem hello_wf (s : State) (mb : Mb) (hw : s.mem.wf = true) : (hello s mb).mem.wf = true := by
  unfold hello
  (try dsimp only)
  (repeat' split) <;> simp_all

@[simp] theorem stopEngProgramming_mem (s : State) (e : Nat) : (stopEngProgramming s e).mem = s.mem := by unfold stopEngProgramming; simp

@[simp] theorem abortWaybill_wf (s : State) (e : Nat) (hw : s.mem.wf = true) : (abortWaybill s e).mem.wf = true := by
  unfold abortWaybill
  (try dsimp only)
  (repeat' split) <;> simp [hw]

@[simp] theorem tidyPlacing_mem (s : State) : (tidyPlacing s).mem = s.mem := by unfold tidyPlacing; with_reducible rfl

@[simp] theorem abortAdmit_wf (s : State) (e : Nat) (hw : s.mem.wf = true) : (abortAdmit s e).mem.wf = true := by unfold abortAdmit; simp [hw]

@[simp] theorem finishRelease_wf (s : State) (e : Nat) (hw : s.mem.wf = true) : (finishRelease s e).mem.wf = true := by
  unfold finishRelease
  exact finishRecs_wf _ _ _ _ (abortAdmit_wf _ _ (by simp [hw]))

@[simp] theorem release_wf (s : State) (mb : Mb) (hw : s.mem.wf = true) : (release s mb).mem.wf = true := by
  unfold release
  repeat' (first | with_reducible assumption | with_reducible apply abortCons_wf | with_reducible apply finishRelease_wf | with_reducible apply takeMsg_wf | with_reducible apply forEach_wf | simp only [modEng_mem, nameSwap_mem, pushRec_mem, stopEngProgramming_mem] | intro _ | dsimp only | split)

@[simp] theorem resetEngagement_wf (s : State) (mb : Mb) (hw : s.mem.wf = true) : (resetEngagement s mb).mem.wf = true := by
  unfold resetEngagement
  repeat' (first | with_reducible assumption | with_reducible apply abortCons_wf | with_reducible apply clearTables_wf | with_reducible apply clearTrackers_wf | with_reducible apply finishMsg_wf | with_reducible apply takeMsg_wf | with_reducible apply forEach_wf | simp only [modEng_mem, stopEngProgramming_mem] | intro _ | dsimp only | split)

@[simp] theorem verifyDecks_wf (s : State) (mb : Mb) (hw : s.mem.wf = true) : (verifyDecks s mb).mem.wf = true := by
  unfold verifyDecks
  repeat' (first | with_reducible assumption | with_reducible apply finishMsg_wf | with_reducible apply takeMsg_wf | with_reducible apply forEach_wf | intro _ | dsimp only | split)

@[simp] theorem markDecks_mem (s : State) (ks : List Nat) : (markDecks s ks).mem = s.mem := by unfold markDecks; simp

@[simp] theorem sealDecks_wf (s : State) (mb : Mb) (hw : s.mem.wf = true) : (sealDecks s mb).mem.wf = true := by
  unfold sealDecks
  repeat' (first | with_reducible assumption | with_reducible apply finishMsg_wf | with_reducible apply forEach_wf | with_reducible apply takeMsg_wf | with_reducible apply forEach_wf | simp only [forEach_mem, markDecks_mem, modDeck_mem] | intro _ | dsimp only | split)

@[simp] theorem unsealDecks_wf (s : State) (mb : Mb) (hw : s.mem.wf = true) : (unsealDecks s mb).mem.wf = true := by
  unfold unsealDecks
  repeat' (first | with_reducible assumption | with_reducible apply finishMsg_wf | with_reducible apply takeMsg_wf | with_reducible apply forEach_wf | simp only [markDecks_mem] | intro _ | dsimp only | split)

@[simp] theorem queueErase_mem (s : State) (k : Nat) : (queueErase s k).mem = s.mem := by unfold queueErase; simp

@[simp] theorem eraseDecks_wf (s : State) (mb : Mb) (hw : s.mem.wf = true) : (eraseDecks s mb).mem.wf = true := by
  unfold eraseDecks
  repeat' (first | with_reducible assumption | with_reducible apply finishMsg_wf | with_reducible apply forEach_wf | with_reducible apply takeMsg_wf | with_reducible apply forEach_wf | simp only [forEach_mem, pushRec_mem, queueErase_mem] | intro _ | dsimp only | split)

@[simp] theorem submit_wf (s : State) (mb : Mb) (hw : s.mem.wf = true) : (submit s mb).mem.wf = true := by
  unfold submit
  repeat' (first | with_reducible assumption | with_reducible apply finishMsg_wf | with_reducible apply takeMsg_wf | with_reducible apply forEach_wf | simp only [modMb_mem, reply_mem] | intro _ | dsimp only | split)

@[simp] theorem cancel_wf (s : State) (mb : Mb) (hw : s.mem.wf = true) : (cancel s mb).mem.wf = true := by
  unfold cancel
  repeat' (first | with_reducible assumption | with_reducible apply endCons_wf | with_reducible apply finishMsg_wf | with_reducible apply takeMsg_wf | with_reducible apply forEach_wf | simp only [modQ_mem] | intro _ | dsimp only | split)

@[simp] theorem queryHealth_wf (s : State) (mb : Mb) (hw : s.mem.wf = true) : (queryHealth s mb).mem.wf = true := by
  unfold queryHealth
  (try dsimp only)
  (repeat' split) <;> simp_all

@[simp] theorem fenceCore_wf (s : State) (mb : Mb) (hw : s.mem.wf = true) : (fenceCore s mb).mem.wf = true := by
  unfold fenceCore
  repeat' (first | with_reducible assumption | with_reducible apply finishMsg_wf | with_reducible apply takeMsg_wf | with_reducible apply forEach_wf | simp only [pushRec_mem] | intro _ | dsimp only | split)

@[simp] theorem openDecks_mem (s : State) (ks : List Nat) : (openDecks s ks).mem = s.mem := by simp [openDecks, apply_ite State.mem]

@[simp] theorem powerHint_wf (s : State) (mb : Mb) (hw : s.mem.wf = true) : (powerHint s mb).mem.wf = true := by
  unfold powerHint
  repeat' (first | with_reducible assumption | with_reducible apply finishMsg_wf | with_reducible apply leaveHalt_wf | with_reducible apply takeMsg_wf | with_reducible apply forEach_wf | simp only [retarget_mem] | intro _ | dsimp only | split)

@[simp] theorem debugConsent_wf (s : State) (mb : Mb) (hw : s.mem.wf = true) : (debugConsent s mb).mem.wf = true := by
  unfold debugConsent
  repeat' (first | with_reducible assumption | with_reducible apply finishMsg_wf | with_reducible apply takeMsg_wf | with_reducible apply forEach_wf | intro _ | dsimp only | split)

@[simp] theorem undefinedMsg_mem (s : State) (mb : Mb) : (undefinedMsg s mb).mem = s.mem := by simp [undefinedMsg, apply_ite State.mem]

@[simp] theorem takeToken_mem (s : State) (e : Nat) (c : Circ) : (takeToken s e c).mem = s.mem := by simp [takeToken, apply_ite State.mem]

@[simp] theorem sendWord_mem (s : State) (e : Nat) (c : Circ) (from_ : Option Nat) : (sendWord s e c from_).mem = s.mem := by simp [sendWord, apply_ite State.mem]

@[simp] theorem commitCircuit_wf (s : State) (e k : Nat) (hw : s.mem.wf = true) : (commitCircuit s e k).mem.wf = true := by
  unfold commitCircuit
  repeat' (first | with_reducible assumption | with_reducible apply advanceTo_wf | with_reducible apply leaveHalt_wf | with_reducible apply forEach_wf | simp only [modEng_mem, retireCircuits_mem, sendWord_mem, takeToken_mem] | intro _ | dsimp only | split)

@[simp] theorem condemnCirc_mem (s : State) (e : Nat) (c : Circ) (st : Byte) : (condemnCirc s e c st).mem = s.mem := by simp [condemnCirc, apply_ite State.mem]

@[simp] theorem runCircuit_mem (s : State) (p e : Nat) (c : Circ) : (runCircuit s p e c).mem = s.mem := by unfold runCircuit; simp

@[simp] theorem circuitStarts_wf (s : State) (core e k : Nat) (word : Option (BitVec 64)) (hw : s.mem.wf = true) : (circuitStarts s core e k word).mem.wf = true := by
  unfold circuitStarts
  repeat' (first | with_reducible assumption | with_reducible apply advanceTo_wf | with_reducible apply endCondemned_wf | with_reducible apply forEach_wf | simp only [condemnCirc_mem, retireCircuits_mem, runCircuit_mem] | intro _ | dsimp only | split)

@[simp] theorem atCycle_wf (s : State) (cyc : Nat) (hw : s.mem.wf = true) : (atCycle s cyc).mem.wf = true := by unfold atCycle; simp [hw]

@[simp] theorem atLeg_wf (s : State) (ctx : LegCtx) (cyc : Nat) (hw : s.mem.wf = true) : (atLeg s ctx cyc).mem.wf = true := by unfold atLeg; simp [hw]

@[simp] theorem onLeg_wf (s : State) (ctx : LegCtx) (b : LegBody) (act : State → Nat → State) (k : ∀ s n, s.mem.wf = true → (act s n).mem.wf = true)
    (h : s.mem.wf = true) : (onLeg s ctx b act).mem.wf = true := by
  unfold onLeg
  (repeat' split) <;> simp [k, h]

@[simp] theorem modCons_mem (s : State) (ctx : LegCtx) (f : QEntry → QEntry) : (modCons s ctx f).mem = s.mem := by
  unfold modCons
  (try dsimp only)
  (repeat' split) <;> simp

@[simp] theorem consPoison_mem (s : State) (ctx : LegCtx) : (consPoison s ctx).mem = s.mem := by unfold consPoison; simp

@[simp] theorem loadStandby_mem (s : State) (e : Fin 64) (pl : Plan) : (loadStandby s e pl).mem = s.mem := by unfold loadStandby; simp

@[simp] theorem swapCore_mem (e : Nat) (s : State) (p : Nat) : (swapCore e s p).mem = s.mem := by
  unfold swapCore
  (try dsimp only)
  (repeat' split) <;> simp

@[simp] theorem recomputePend_mem (s : State) : (recomputePend s).mem = s.mem := by unfold recomputePend; with_reducible rfl

@[simp] theorem takePages_mem (s : State) (e : Nat) (pl : Plan) : (takePages s e pl).mem = s.mem := by unfold takePages; simp

@[simp] theorem carryTrackers_wf (s : State) (e : Nat) (p : Plan) (hw : s.mem.wf = true) : (carryTrackers s e p).mem.wf = true := by
  unfold carryTrackers
  (try dsimp only)
  (repeat' split) <;> simp [hw]

@[simp] theorem takePlan_wf (s0 : State) (e : Nat) (hw : s0.mem.wf = true) : (takePlan s0 e).mem.wf = true := by
  unfold takePlan
  (try dsimp only)
  (repeat' split) <;> simp [hw]

@[simp] theorem takeState_mem (s : State) (e : Nat) : (takeState s e).mem = s.mem := by
  unfold takeState
  (try dsimp only)
  (repeat' split) <;> simp

@[simp] theorem finishUnfence_wf (s : State) (hw : s.mem.wf = true) : (finishUnfence s).mem.wf = true := by
  unfold finishUnfence
  (try dsimp only)
  (repeat' split) <;> simp_all

@[simp] theorem swapBanks_wf (s : State) (e : Nat) (hw : s.mem.wf = true) : (swapBanks s e).mem.wf = true := by
  unfold swapBanks
  repeat' (first | with_reducible assumption | with_reducible apply advanceTo_wf | with_reducible apply finishRelease_wf | with_reducible apply finishUnfence_wf | with_reducible apply forEach_wf | with_reducible apply takePlan_wf | with_reducible apply forEach_wf | simp only [forEach_mem, modEng_mem, nameSwap_mem, recomputePend_mem, retireCircuits_mem, swapCore_mem, takeState_mem] | intro _ | dsimp only | split)

@[simp] theorem watchdog_mem (s : State) (core : Nat) (e : Nat) (leg : BitVec 16) : (watchdog s core e leg).mem = s.mem := by simp [watchdog, apply_ite State.mem]

@[simp] theorem holdNotice_mem (s : State) (from_ : Option (Fin 8)) (body : Nat) : (holdNotice s from_ body).mem = s.mem := by simp [holdNotice, apply_ite State.mem]

@[simp] theorem holdReads_mem (s : State) (e : Nat) : (holdReads s e).mem = s.mem := rfl
@[simp] theorem holdCore_mem (s : State) (e h p : Nat) : (holdCore s e h p).mem = s.mem := by unfold holdCore; simp

@[simp] theorem startHold_wf (s : State) (e : Nat) (h : s.mem.wf = true) : (startHold s e).mem.wf = true := by
  unfold startHold
  split
  · exact h
  · rename_i x r _
    have k := advanceTo_wf s x.toNat h
    dsimp only
    split
    · rw [modEng_mem]; exact k
    · rw [forEach_mem _ _ _ (fun s p => holdCore_mem _ _ _ _), holdReads_mem, modEng_mem]; exact k

@[simp] theorem hostTouch_wf (s : State) (hw : s.mem.wf = true) : (hostTouch s).mem.wf = true := by
  unfold hostTouch
  (try dsimp only)
  (repeat' split) <;> simp [hw]

@[simp] theorem ideAbort_mem (s : State) (addr : Nat) (src : Nat) (write : Bool) (req : BitVec 16) (cid : Nat) : (ideAbort s addr src write req cid).mem = s.mem := by unfold ideAbort; simp

@[simp] theorem pageViolation_mem (s : State) (via : PageAccess) (page : Mb) (off : Nat) : (pageViolation s via page off).mem = s.mem := by unfold pageViolation; simp

@[simp] theorem pageWrite_wf (s : State) (via : PageAccess) (page : Mb) (off : Nat) (act : State → State)
    (k : ∀ s, s.mem.wf = true → (act s).mem.wf = true) (h : s.mem.wf = true) : (pageWrite s via page off act).mem.wf = true := by
  unfold pageWrite
  dsimp only
  (repeat' split) <;> simp [k, h]

@[simp] theorem mbxInDb_wf (s : State) (via : PageAccess) (page : Mb) (value : Word) (hw : s.mem.wf = true) : (mbxInDb s via page value).mem.wf = true := by
  unfold mbxInDb
  repeat' (first | with_reducible assumption | with_reducible apply pageWrite_wf | with_reducible apply forEach_wf | simp only [modMb_mem, pageViolation_mem, setMbErr_mem] | intro _ | dsimp only | split)

@[simp] theorem mbxOutAck_wf (s : State) (via : PageAccess) (page : Mb) (value : Word) (hw : s.mem.wf = true) : (mbxOutAck s via page value).mem.wf = true := by
  unfold mbxOutAck
  (try dsimp only)
  (repeat' split) <;> simp_all

@[simp] theorem ringWrite_wf (s : State) (via : PageAccess) (page : Mb) (outbound : Bool) (slot : Fin 64) (word : Fin 16) (value : Word) (hw : s.mem.wf = true) : (ringWrite s via page outbound slot word value).mem.wf = true := by
  unfold ringWrite
  repeat' (first | with_reducible assumption | with_reducible apply pageWrite_wf | with_reducible apply forEach_wf | simp only [modMb_mem, pageViolation_mem] | intro _ | dsimp only | split)

@[simp] theorem mbxCrst_wf (s : State) (via : PageAccess) (page : Mb) (hw : s.mem.wf = true) : (mbxCrst s via page).mem.wf = true := by
  unfold mbxCrst
  (try dsimp only)
  (repeat' split) <;> simp_all

@[simp] theorem mbxClrErr_wf (s : State) (via : PageAccess) (page : Mb) (hw : s.mem.wf = true) : (mbxClrErr s via page).mem.wf = true := by unfold mbxClrErr; simp [hw]

@[simp] theorem handOver_wf (s : State) (k : Nat) (hw : s.mem.wf = true) : (handOver s k).mem.wf = true := by
  unfold handOver
  (try dsimp only)
  (repeat' split) <;> simp [hw]

@[simp] theorem mbxGranReq_wf (s : State) (via : PageAccess) (page : Mb) (value : Word) (hw : s.mem.wf = true) : (mbxGranReq s via page value).mem.wf = true := by
  unfold mbxGranReq
  repeat' (first | with_reducible assumption | with_reducible apply forEach_wf | with_reducible apply handOver_wf | with_reducible apply pageWrite_wf | with_reducible apply forEach_wf | simp only [forEach_mem, pageViolation_mem, setMbErr_mem] | intro _ | dsimp only | split)

@[simp] theorem mbxGranWrite_wf (s : State) (k : Nat) (value : Word) (hw : s.mem.wf = true) : (mbxGranWrite s k value).mem.wf = true := by
  unfold mbxGranWrite
  (try dsimp only)
  (repeat' split) <;> simp [hw]

@[simp] theorem coalesceExpiry_mem (s : State) (page : Mb) : (coalesceExpiry s page).mem = s.mem := by simp [coalesceExpiry, apply_ite State.mem]

@[simp] theorem bar4Violation_mem (s : State) (addr : Nat) (write : Bool) (req : BitVec 16) : (bar4Violation s addr write req).mem = s.mem := by unfold bar4Violation; simp

@[simp] theorem bar4Read_wf (s : State) (addr : Word) (len : Nat) (ide : Bool) (req : BitVec 16) (hw : s.mem.wf = true) : (bar4Read s addr len ide req).mem.wf = true := by
  unfold bar4Read
  (try dsimp only)
  (repeat' split) <;> simp [hw]

@[simp] theorem bar4Write_wf (s : State) (addr : Word) (data : List Byte) (ide poisoned : Bool) (req : BitVec 16) (hw : s.mem.wf = true) : (bar4Write s addr data ide poisoned req).mem.wf = true := by
  unfold bar4Write
  (try dsimp only)
  (repeat' split) <;> simp [hw]

@[simp] theorem unprivileged_wf (s : State) (offset : BitVec 26) (write : Bool) (req : BitVec 16) (hw : s.mem.wf = true) : (unprivileged s offset write req).mem.wf = true := by
  unfold unprivileged
  (try dsimp only)
  (repeat' split) <;> simp [hw]

@[simp] theorem configAccess_wf (s : State) (power : Option Bool) (hw : s.mem.wf = true) : (configAccess s power).mem.wf = true := by
  unfold configAccess
  (try dsimp only)
  (repeat' split) <;> simp [hw]

@[simp] theorem flr_wf (s : State) (hw : s.mem.wf = true) : (flr s).mem.wf = true := by unfold flr; simp [hw]

@[simp] theorem hotReset_wf (s : State) (hw : s.mem.wf = true) : (hotReset s).mem.wf = true := by unfold hotReset; simp [hw]

@[simp] theorem fatalError_wf (s : State) (hw : s.mem.wf = true) : (fatalError s).mem.wf = true := by unfold fatalError; simp [hw]

@[simp] theorem tdiError_wf (s : State) (hw : s.mem.wf = true) : (tdiError s).mem.wf = true := by unfold tdiError; simp [hw]

@[simp] theorem ideFailure_wf (s : State) (hw : s.mem.wf = true) : (ideFailure s).mem.wf = true := by unfold ideFailure; simp [hw]

@[simp] theorem writeAlmCfg_mem (s : State) (v : Word) : (writeAlmCfg s v).mem = s.mem := by simp [writeAlmCfg, apply_ite State.mem]

@[simp] theorem writeHzlRoute_mem (s : State) (v : Word) : (writeHzlRoute s v).mem = s.mem := by simp [writeHzlRoute, apply_ite State.mem]

@[simp] theorem writeCalCfg_mem (s : State) (v : Word) : (writeCalCfg s v).mem = s.mem := by simp [writeCalCfg, apply_ite State.mem]

@[simp] theorem writeLdgCfg_mem (s : State) (v : Word) : (writeLdgCfg s v).mem = s.mem := by simp [writeLdgCfg, apply_ite State.mem]

@[simp] theorem writeEccCfg_mem (s : State) (v : Word) : (writeEccCfg s v).mem = s.mem := by simp [writeEccCfg, apply_ite State.mem]

@[simp] theorem writeRstCfg_mem (s : State) (v : Word) : (writeRstCfg s v).mem = s.mem := by simp [writeRstCfg, apply_ite State.mem]

@[simp] theorem writeTolCfg_mem (s : State) (v : Word) : (writeTolCfg s v).mem = s.mem := by simp [writeTolCfg, apply_ite State.mem]

@[simp] theorem writeLockable_mem (s : State) (r : LockReg) (v : Word) : (writeLockable s r v).mem = s.mem := by
  unfold writeLockable
  (try dsimp only)
  (repeat' split) <;> simp

@[simp] theorem setLock_mem (s : State) (r : LockReg) : (setLock s r).mem = s.mem := by
  unfold setLock
  (try dsimp only)
  (repeat' split) <;> simp

@[simp] theorem lockWrite_mem (s : State) (r : LockReg) (v : Word) : (lockWrite s r v).mem = s.mem := by simp [lockWrite, apply_ite State.mem]

@[simp] theorem lockSet_wf (s : State) (r : LockReg) (v : Word) (hw : s.mem.wf = true) : (lockSet s r v).mem.wf = true := by
  unfold lockSet
  (try dsimp only)
  (repeat' split) <;> simp [hw]

@[simp] theorem writeBktCfg_mem (s : State) (i : Nat) (v : Word) : (writeBktCfg s i v).mem = s.mem := by unfold writeBktCfg; simp

@[simp] theorem removeViolation_mem (s : State) : (removeViolation s).mem = s.mem := by
  unfold removeViolation
  (try dsimp only)
  (repeat' split) <;> simp

@[simp] theorem removeUe_mem (s : State) : (removeUe s).mem = s.mem := by
  unfold removeUe
  (try dsimp only)
  (repeat' split) <;> simp

@[simp] theorem clearBucket_mem (s : State) (i : Nat) : (clearBucket s i).mem = s.mem := by unfold clearBucket; simp

@[simp] theorem writeInj_mem (s : State) (v : Word) : (writeInj s v).mem = s.mem := by simp [writeInj, apply_ite State.mem]

@[simp] theorem writeEvict_wf (s : State) (v : Word) (hw : s.mem.wf = true) : (writeEvict s v).mem.wf = true := by
  unfold writeEvict
  (try dsimp only)
  (repeat' split) <;> simp [hw]

@[simp] theorem writeRstCtl_wf (s : State) (v : Word) (hw : s.mem.wf = true) : (writeRstCtl s v).mem.wf = true := by
  unfold writeRstCtl
  (try dsimp only)
  (repeat' split) <;> simp [hw]

@[simp] theorem clearCore_mem (s : State) (c : Nat) (f : Core → Core) : (clearCore s c f).mem = s.mem := by simp [clearCore, apply_ite State.mem]

@[simp] theorem clearTile_mem (s : State) (t : TileAddr) (f : Tile → Tile) : (clearTile s t f).mem = s.mem := by simp [clearTile, apply_ite State.mem]

@[simp] theorem writeCoreReg_mem (s : State) (c off : Nat) (v : Word) : (writeCoreReg s c off v).mem = s.mem := by unfold writeCoreReg; simp

@[simp] theorem clearDrvFault_mem (s : State) (c : Nat) : (clearDrvFault s c).mem = s.mem := by unfold clearDrvFault; simp

@[simp] theorem writeTileReg_mem (s : State) (t off : Nat) (v : Word) : (writeTileReg s t off v).mem = s.mem := by simp [writeTileReg, apply_ite State.mem]

@[simp] theorem writeMbxCtl_wf (s : State) (page : Mb) (v : Word) (hw : s.mem.wf = true) : (writeMbxCtl s page v).mem.wf = true := by
  unfold writeMbxCtl
  (try dsimp only)
  (repeat' split) <;> simp [hw]

@[simp] theorem writePageReg_wf (s : State) (page : Mb) (off : Nat) (v : Word) (hw : s.mem.wf = true) : (writePageReg s page off v).mem.wf = true := by
  unfold writePageReg
  (try dsimp only)
  (repeat' split) <;> simp_all

@[simp] theorem writeDeviceReg_wf (s : State) (off : Nat) (v : Word) (hw : s.mem.wf = true) : (writeDeviceReg s off v).mem.wf = true := by
  unfold writeDeviceReg
  (try dsimp only)
  (repeat' split) <;> simp [hw]

@[simp] theorem clearPort_mem (s : State) (i : Nat) (v : Word) : (clearPort s i v).mem = s.mem := by unfold clearPort; simp

@[simp] theorem regWrite_wf (s : State) (off : Nat) (v : Word) (hw : s.mem.wf = true) : (regWrite s off v).mem.wf = true := by
  unfold regWrite
  (try dsimp only)
  (repeat' split) <;> simp [hw]

@[simp] theorem barWrite_wf (s : State) (offset : BitVec 26) (v : Word) (be : BitVec 4) (hw : s.mem.wf = true) : (barWrite s offset v be).mem.wf = true := by
  unfold barWrite
  (try dsimp only)
  (repeat' split) <;> simp [hw]

@[simp] theorem hostWrite_wf (s : State) (act : State → State) (k : ∀ s, s.mem.wf = true → (act s).mem.wf = true) (h : s.mem.wf = true) :
    (hostWrite s act).mem.wf = true := by
  unfold hostWrite
  split <;> simp [k, h]

@[simp] theorem beatLoRead_wf (s : State) (hw : s.mem.wf = true) : (beatLoRead s).mem.wf = true := by unfold beatLoRead; simp [hw]

@[simp] theorem smcMod_mem (s : State) (f : Smc → Smc) : (smcMod s f).mem = s.mem := by unfold smcMod; with_reducible rfl

@[simp] theorem smbusNack_mem (s : State) (cmd : Byte) (write : Bool) : (smbusNack s cmd write).mem = s.mem := by unfold smbusNack; simp

@[simp] theorem smbusRead_mem (s : State) (address : BitVec 7) (cmd : Byte) (write pecOk : Bool) : (smbusRead s address cmd write pecOk).mem = s.mem := by
  unfold smbusRead
  (try dsimp only)
  (repeat' split) <;> simp

@[simp] theorem smbusMctp_mem (s : State) (address : BitVec 7) (eid : Option Byte) (pecOk : Bool) : (smbusMctp s address eid pecOk).mem = s.mem := by simp [smbusMctp, apply_ite State.mem]

@[simp] theorem smbusWake_wf (s : State) (address : BitVec 7) (hw : s.mem.wf = true) : (smbusWake s address).mem.wf = true := by
  unfold smbusWake
  (try dsimp only)
  (repeat' split) <;> simp [hw]

@[simp] theorem smbusReady_mem (s : State) : (smbusReady s).mem = s.mem := by simp [smbusReady, apply_ite State.mem]

@[simp] theorem takeStrike_mem (ctx : LegCtx) (l : StrikeLeg) (a : State × List (Nat × Nat × Bundle)) (t : Nat) :
    (takeStrike ctx l a t).1.mem = a.1.mem := by
  unfold takeStrike
  dsimp only
  (repeat' split) <;> simp

@[simp] theorem strikeRun_wf (s : State) (ctx : LegCtx) (l : StrikeLeg) (h : s.mem.wf = true) : (strikeRun s ctx l).mem.wf = true := by
  unfold strikeRun
  refine onLeg_wf _ _ _ _ (fun s _ h => ?_) h
  have k := foldl_fst_mem (maskTiles l.tmask) (s, ([] : List (Nat × Nat × Bundle))) (takeStrike ctx l) (takeStrike_mem ctx l)
  dsimp only
  (repeat' split) <;> simp [h, k]

@[simp] theorem selectTile_mem (ctx : LegCtx) (l : SelectLeg) (s : State) (t : Nat) : (selectTile ctx l s t).mem = s.mem := by simp [selectTile, apply_ite State.mem]

@[simp] theorem selectRun_wf (s : State) (ctx : LegCtx) (l : SelectLeg) (hw : s.mem.wf = true) : (selectRun s ctx l).mem.wf = true := by
  unfold selectRun
  (try dsimp only)
  (repeat' split) <;> simp [hw]

@[simp] theorem reduceRun_wf (s : State) (ctx : LegCtx) (l : ReduceLeg) (hw : s.mem.wf = true) : (reduceRun s ctx l).mem.wf = true := by
  unfold reduceRun
  repeat' (first | with_reducible assumption | with_reducible apply onLeg_wf | with_reducible apply forEach_wf | simp only [foreignPage_mem, launch_mem, legFault_mem, modCore_mem, takeBanks_mem] | intro _ | dsimp only | split)

@[simp] theorem scatter_wf (put : State → Nat → List MByte → State) (dst stride len : Nat) (s : State) (bs : List MByte)
    (k : ∀ s a l, s.mem.wf = true → (put s a l).mem.wf = true) (h : s.mem.wf = true) : (scatter put dst stride len s bs).mem.wf = true := by
  unfold scatter
  exact forEach_wf _ _ _ (fun _ _ h => k _ _ _ h) h

@[simp] theorem launchMove_mem (s : State) (ctx : LegCtx) (q b n : Nat) (d : PorterDesc) (bs : List MByte) (qs : Quants) : (launchMove s ctx q b n d bs qs).mem = s.mem := by unfold launchMove; simp

@[simp] theorem takeChan_mem (s : State) (p : Nat) (chan : Fin 4) (fin : Nat) (use : List BankUse) : (takeChan s p chan fin use).mem = s.mem := by unfold takeChan; simp

@[simp] theorem porterLeg_wf (s : State) (ctx : LegCtx) (l : PorterLeg) (op busy : Nat) (act : State → Nat → Nat → State)
    (k : ∀ s p n, s.mem.wf = true → (act s p n).mem.wf = true) (h : s.mem.wf = true) : (porterLeg s ctx l op busy act).mem.wf = true := by
  unfold porterLeg
  refine onLeg_wf _ _ _ _ (fun _ _ h => ?_) h
  dsimp only
  (repeat' split) <;> simp [k, h]

@[simp] theorem guarded_wf (s : State) (ctx : LegCtx) (f : Option (Nat × Bool)) (act : State) (k : act.mem.wf = true) (h : s.mem.wf = true) :
    (guarded s ctx f act).mem.wf = true := by
  unfold guarded
  split <;> simp [h, k]

@[simp] theorem multicast_wf (s : State) (ctx : LegCtx) (l : PorterLeg) (hw : s.mem.wf = true) : (multicast s ctx l).mem.wf = true := by
  unfold multicast
  refine porterLeg_wf _ _ _ _ _ _ (fun _ _ _ h => ?_) hw
  (try dsimp only)
  (repeat' split) <;> (first | (simp [*]; done) | (simp_all; done))

@[simp] theorem wsCopy_wf (s : State) (ctx : LegCtx) (l : PorterLeg) (hw : s.mem.wf = true) : (wsCopy s ctx l).mem.wf = true := by
  unfold wsCopy
  (try dsimp only)
  (repeat' split) <;> simp_all

@[simp] theorem convoyLeg_wf (s : State) (ctx : LegCtx) (l : ConvoyLeg) (net : Nat) (act : State → Nat → State)
    (k : ∀ s p, s.mem.wf = true → (act s p).mem.wf = true) (h : s.mem.wf = true) : (convoyLeg s ctx l net act).mem.wf = true := by
  unfold convoyLeg
  refine onLeg_wf _ _ _ _ (fun _ _ h => ?_) h
  dsimp only
  (repeat' split) <;> simp [k, h]

@[simp] theorem roadsRun_wf (s : State) (ctx : LegCtx) (l : ConvoyLeg) (hw : s.mem.wf = true) : (roadsRun s ctx l).mem.wf = true := by
  unfold roadsRun
  refine convoyLeg_wf _ _ _ _ _ (fun _ _ h => ?_) hw
  (try dsimp only)
  (repeat' split) <;> (first | (simp [*]; done) | (simp_all; done))

@[simp] theorem readRun_wf (s : State) (ctx : LegCtx) (l : PorterLeg) (hw : s.mem.wf = true) : (readRun s ctx l).mem.wf = true := by
  unfold readRun
  refine porterLeg_wf _ _ _ _ _ _ (fun _ _ _ h => ?_) hw
  (try dsimp only)
  (repeat' split) <;> (first | (simp [*]; done) | (simp_all; done))


@[simp] theorem dataArrives_mem (s : State) (core index bytes : Nat) (errs : List (Nat × CwErr)) : (dataArrives s core index bytes errs).mem = s.mem := by
  unfold dataArrives
  (try dsimp only)
  (repeat' split) <;> simp

@[simp] theorem poisonRest_wf (s : State) (p : Nat) (r : PendRead) (hw : s.mem.wf = true) : (poisonRest s p r).mem.wf = true := by
  unfold poisonRest
  repeat' (first | with_reducible assumption | with_reducible apply forEach_wf | with_reducible apply wsWrite_wf | with_reducible apply forEach_wf | simp only [forEach_mem] | intro _ | dsimp only | split)

@[simp] theorem countLate_mem (s : State) (p : Nat) (r : PendRead) : (countLate s p r).mem = s.mem := by simp [countLate, apply_ite State.mem]

@[simp] theorem lateWeights_wf (s : State) (core p : Nat) (r : PendRead) (hw : s.mem.wf = true) : (lateWeights s core p r).mem.wf = true := by
  unfold lateWeights
  repeat' (first | with_reducible assumption | with_reducible apply forEach_wf | with_reducible apply poisonRest_wf | with_reducible apply forEach_wf | simp only [consPoison_mem, countLate_mem, forEach_mem, holdNotice_mem, modCore_mem, modRead_mem] | intro _ | dsimp only | split)

@[simp] theorem sampleDeadline_wf (s0 : State) (core index : Nat) (hw : s0.mem.wf = true) : (sampleDeadline s0 core index).mem.wf = true := by
  unfold sampleDeadline
  (try dsimp only)
  (repeat' split) <;> simp [hw]

@[simp] theorem logProtected_mem (s : State) (req addr : Nat) : (logProtected s req addr).mem = s.mem := by unfold logProtected; simp

@[simp] theorem protectedPage_mem (s : State) (ctx : LegCtx) (addr : Nat) : (protectedPage s ctx addr).mem = s.mem := by unfold protectedPage; simp

@[simp] theorem writeRun_wf (s : State) (ctx : LegCtx) (l : PorterLeg) (replay : Bool) (hw : s.mem.wf = true) : (writeRun s ctx l replay).mem.wf = true := by
  unfold writeRun
  refine porterLeg_wf _ _ _ _ _ _ (fun _ _ _ h => ?_) hw
  (try dsimp only)
  (repeat' split) <;> (first | (simp [*]; done) | (simp_all; done))

@[simp] theorem kvRun_wf (s : State) (ctx : LegCtx) (l : PorterLeg) (hw : s.mem.wf = true) : (kvRun s ctx l).mem.wf = true := by
  unfold kvRun
  refine porterLeg_wf _ _ _ _ _ _ (fun _ _ _ h => ?_) hw
  (try dsimp only)
  (repeat' split) <;> (first | (simp [*]; done) | (simp_all; done))

@[simp] theorem channelForeign_mem (s : State) (addr : Nat) (write : Bool) : (channelForeign s addr write).mem = s.mem := by unfold channelForeign; simp

theorem channelMove_mem (s : State) (e op : Nat) (d : PorterDesc) (rs : List (Nat × Nat × Bool)) (act : State)
    (k : act.mem = s.mem) : (channelMove s e op d rs act).mem = s.mem := by
  unfold channelMove
  (repeat' split) <;> simp [k]

@[simp] theorem channelMove_wf (s : State) (e op : Nat) (d : PorterDesc) (rs : List (Nat × Nat × Bool)) (act : State)
    (k : act.mem.wf = true) (h : s.mem.wf = true) : (channelMove s e op d rs act).mem.wf = true := by
  unfold channelMove
  (repeat' split) <;> simp [h, k]

@[simp] theorem smCopy_wf (s : State) (e : Nat) (d : PorterDesc) (hw : s.mem.wf = true) : (smCopy s e d).mem.wf = true := by unfold smCopy; simp [hw]

@[simp] theorem winPost_mem (s : State) (addr : Nat) (bs : List MByte) : (winPost s addr bs).mem = s.mem := by unfold winPost; simp

@[simp] theorem windowMove_wf (s : State) (e : Nat) (d : PorterDesc) (toWindow : Bool) (hw : s.mem.wf = true) : (windowMove s e d toWindow).mem.wf = true := by
  unfold windowMove
  (try dsimp only)
  (repeat' split) <;> simp [hw]

@[simp] theorem regionPack_mem (s : State) (e : Nat) (d : PorterDesc) : (regionPack s e d).mem = s.mem := by
  have hp : ∀ (s : State) (a b : Nat) (l : List MByte), ((fun s e off b => engPost s e off b) s a b l : State).mem = s.mem := fun _ _ _ _ => engPost_mem _ _ _ _
  unfold regionPack
  dsimp only
  split
  · split
    · simp
    · rfl
  · split
    · split
      · simp
      · rfl
    · split
      · rfl
      · refine channelMove_mem _ _ _ _ _ _ ?_
        rw [packRun_mem _ _ _ _ _ _ _ _ hp]
        split
        · exact writeTable_mem _ _ _ _ _ _ hp
        · rfl

@[simp] theorem takeEngine_mem (s : State) (p free : Nat) (use : List BankUse) : (takeEngine s p free use).mem = s.mem := by unfold takeEngine; simp

@[simp] theorem matrixRun_wf (s : State) (ctx : LegCtx) (d : MatrixDesc) (hw : s.mem.wf = true) : (matrixRun s ctx d).mem.wf = true := by
  unfold matrixRun
  repeat' (first | with_reducible assumption | with_reducible apply landDue_wf | with_reducible apply onLeg_wf | with_reducible apply forEach_wf | simp only [foreignPage_mem, launch_mem, legFault_mem, takeEngine_mem] | intro _ | dsimp only | split)

@[simp] theorem attendRun_wf (s : State) (ctx : LegCtx) (d : AttnDesc) (hw : s.mem.wf = true) : (attendRun s ctx d).mem.wf = true := by
  unfold attendRun
  repeat' (first | with_reducible assumption | with_reducible apply landDue_wf | with_reducible apply onLeg_wf | with_reducible apply forEach_wf | simp only [foreignPage_mem, launch_mem, legFault_mem, modCore_mem, takeEngine_mem] | intro _ | dsimp only | split)

@[simp] theorem takeUnit_mem (s : State) (p fin : Nat) (use : List BankUse) : (takeUnit s p fin use).mem = s.mem := by unfold takeUnit; simp

@[simp] theorem vecLeg_wf (s : State) (ctx : LegCtx) (vop : Byte) (d : VecDesc) (act : State → Nat → VecOut) (hw : s.mem.wf = true) : (vecLeg s ctx vop d act).mem.wf = true := by
  unfold vecLeg
  repeat' (first | with_reducible assumption | with_reducible apply onLeg_wf | with_reducible apply forEach_wf | simp only [foreignPage_mem, launch_mem, legFault_mem, takeUnit_mem] | intro _ | dsimp only | split)

@[simp] theorem vecUnary_wf (s : State) (ctx : LegCtx) (vop : Byte) (d : VecDesc) (f : Word → Word × Bool) (hw : s.mem.wf = true) : (vecUnary s ctx vop d f).mem.wf = true := by unfold vecUnary; simp [hw]

@[simp] theorem vecBinary_wf (s : State) (ctx : LegCtx) (vop : Byte) (d : VecDesc) (f : Word → Word → Word × Bool) (hw : s.mem.wf = true) : (vecBinary s ctx vop d f).mem.wf = true := by unfold vecBinary; simp [hw]

@[simp] theorem vecTernary_wf (s : State) (ctx : LegCtx) (vop : Byte) (d : VecDesc) (f : Word → Word → Word → Word × Bool) (hw : s.mem.wf = true) : (vecTernary s ctx vop d f).mem.wf = true := by
  unfold vecTernary; simp [hw]

@[simp] theorem vecReduce_wf (s : State) (ctx : LegCtx) (vop : Byte) (d : VecDesc) (f : List Word → List (Word × Bool)) (hw : s.mem.wf = true) : (vecReduce s ctx vop d f).mem.wf = true := by unfold vecReduce; simp [hw]

@[simp] theorem vecRow_wf (s : State) (ctx : LegCtx) (vop : Byte) (d : VecDesc) (f : List Word → List Word → List (Word × Bool)) (hw : s.mem.wf = true) : (vecRow s ctx vop d f).mem.wf = true := by
  unfold vecRow; simp [hw]

@[simp] theorem assayUntil_mem (s : State) (a : DeckAddr) (b : Nat) : (assayUntil s a b).mem = s.mem := by unfold assayUntil; simp

@[simp] theorem workFor_mem (s : State) (a : DeckAddr) (n : Nat) : (workFor s a n).mem = s.mem := by unfold workFor; simp

@[simp] theorem modFinding_mem (s : State) (f : Finding) (h : Finding → Finding) : (modFinding s f h).mem = s.mem := by unfold modFinding; with_reducible rfl

@[simp] theorem refill_mem (s : State) : (refill s).mem = s.mem := by unfold refill; with_reducible rfl

@[simp] theorem unrepairable_mem (s : State) (f : Finding) : (unrepairable s f).mem = s.mem := by simp [unrepairable, apply_ite State.mem]

@[simp] theorem writeRecord_mem (s : State) (f0 : Finding) : (writeRecord s f0).1.mem = s.mem := by
  unfold writeRecord
  (try dsimp only)
  (repeat' split) <;> simp

@[simp] theorem twinRecord_mem (s : State) (f : Finding) : (twinRecord s f).mem = s.mem := by
  unfold twinRecord
  (try dsimp only)
  (repeat' split) <;> simp

@[simp] theorem onChosen_mem (s : State) (f : Finding) : (onChosen s f).mem = s.mem := by simp [onChosen, apply_ite State.mem]

@[simp] theorem giveRung_mem (s : State) (f : Finding) : (giveRung s f).1.mem = s.mem := by unfold giveRung; simp

@[simp] theorem detect_mem (s : State) (f : Finding) : (detect s f).mem = s.mem := by
  unfold detect
  (try dsimp only)
  (repeat' split) <;> simp

@[simp] theorem recordClosed_mem (s : State) (f : Finding) : (recordClosed s f).mem = s.mem := by unfold recordClosed; simp

@[simp] theorem setFinding_mem (s : State) (f : Finding) (st : BitVec 4) : (setFinding s f st).mem = s.mem := by simp [setFinding, apply_ite State.mem]

@[simp] theorem closeDeckFindings_mem (s : State) (k : Nat) : (closeDeckFindings s k).mem = s.mem := by unfold closeDeckFindings; simp

@[simp] theorem nextRung_mem (s : State) (f : Finding) : (nextRung s f).mem = s.mem := by unfold nextRung; simp

@[simp] theorem writeImages_wf (s : State) (e : Nat) (pl : Plan) (h : s.mem.wf = true) : (writeImages s e pl).mem.wf = true := by
  show MemOk (writeImages s e pl)
  unfold writeImages
  exact forEach_ok _ _ _ (fun s it h => wsWrite_ok _ _ _ _ h) h

@[simp] theorem loadActive_mem (s : State) (e : Fin 64) (pl : Plan) : (loadActive s e pl).mem = s.mem := by simp [loadActive, apply_ite State.mem]

@[simp] theorem growPages_mem (s : State) (e n : Nat) : (growPages s e n).mem = s.mem := by
  unfold growPages
  (try dsimp only)
  (repeat' split) <;> simp

@[simp] theorem takeRegions_wf (s : State) (e : Nat) (pl : Plan) (hw : s.mem.wf = true) : (takeRegions s e pl).mem.wf = true := by unfold takeRegions; exact hw

@[simp] theorem takeDecks_mem (s : State) (pl : Plan) : (takeDecks s pl).mem = s.mem := by simp [takeDecks, apply_ite State.mem]

@[simp] theorem reserve_wf (s : State) (e : Fin 64) (pl : Plan) (hw : s.mem.wf = true) : (reserve s e pl).mem.wf = true := by
  unfold reserve
  repeat' (first | with_reducible assumption | with_reducible apply takeRegions_wf | with_reducible apply writeImages_wf | with_reducible apply forEach_wf | simp only [growPages_mem, loadActive_mem, takePages_mem] | intro _ | dsimp only | split)

@[simp] theorem programDeck_mem (s : State) (a : DeckAddr) : (programDeck s a).mem = s.mem := by
  unfold programDeck
  (try dsimp only)
  (repeat' split) <;> simp

@[simp] theorem openHeader_mem (s : State) (a : DeckAddr) (t : Target) (x : PlanDeck) : (openHeader s a t x).mem = s.mem := by
  unfold openHeader
  (try dsimp only)
  (repeat' split) <;> simp

@[simp] theorem rowWritten_mem (s : State) (k : Nat) (t : Target) (row : Nat) : (rowWritten s k t row).mem = s.mem := by simp [rowWritten, apply_ite State.mem]

@[simp] theorem endRow_mem (s : State) (a : DeckAddr) (p : ProgState) (t : Target) (f : WFmt) (row : Nat) (bad : List CellGoal) : (endRow s a p t f row bad).mem = s.mem := by unfold endRow; simp

@[simp] theorem programStep_mem (s : State) (a : DeckAddr) (p : ProgState) (t : Target) (x : PlanDeck) (row : Nat) : (programStep s a p t x row).mem = s.mem := by simp [programStep, apply_ite State.mem]

@[simp] theorem repairStep_mem (s : State) (a : DeckAddr) (r : Repair) (row : Nat) (gs : List CellGoal) : (repairStep s a r row gs).mem = s.mem := by simp [repairStep, apply_ite State.mem]

@[simp] theorem finishRepair_mem (s : State) (k : Nat) (r : Repair) : (finishRepair s k r).mem = s.mem := by
  unfold finishRepair
  (try dsimp only)
  (repeat' split) <;> simp

@[simp] theorem tidyRepair_mem (s : State) (k : Nat) : (tidyRepair s k).mem = s.mem := by
  unfold tidyRepair
  (try dsimp only)
  (repeat' split) <;> simp

@[simp] theorem programLoop_mem (s : State) (a : DeckAddr) (row : Nat) : (programLoop s a row).mem = s.mem := by
  unfold programLoop
  (try dsimp only)
  (repeat' split) <;> simp

@[simp] theorem checkReady_mem (s : State) (e : Nat) : (checkReady s e).mem = s.mem := by simp [checkReady, apply_ite State.mem]

@[simp] theorem completeDeck_mem (s : State) (a : DeckAddr) (h : DeckHeader) (x : PlanDeck) : (completeDeck s a h x).mem = s.mem := by unfold completeDeck; simp

@[simp] theorem putRegion_wf (s : State) (e n blk : Nat) (data : List MByte) (hw : s.mem.wf = true) : (putRegion s e n blk data).mem.wf = true := by
  unfold putRegion
  repeat' (first | with_reducible assumption | with_reducible apply engWrite_wf | with_reducible apply packRun_wf | with_reducible apply writeTable_wf | with_reducible apply forEach_wf | intro _ | dsimp only | split)

@[simp] theorem writeShadow_wf (s : State) (a : DeckAddr) (hw : s.mem.wf = true) : (writeShadow s a).mem.wf = true := by
  unfold writeShadow
  repeat' (first | with_reducible assumption | with_reducible apply engWrite_wf | with_reducible apply forEach_wf | with_reducible apply putRegion_wf | with_reducible apply forEach_wf | simp only [forEach_mem] | intro _ | dsimp only | split)

@[simp] theorem countDone_mem (s : State) (e : Nat) : (countDone s e).mem = s.mem := by unfold countDone; simp

@[simp] theorem doneMark_wf (s : State) (a : DeckAddr) (t : Target) (x : PlanDeck) (h : DeckHeader) (hw : s.mem.wf = true) : (doneMark s a t x h).mem.wf = true := by unfold doneMark; simp [hw]

@[simp] theorem journalPulse_wf (s : State) (a : DeckAddr) (hw : s.mem.wf = true) : (journalPulse s a).mem.wf = true := by
  unfold journalPulse
  dsimp only
  split
  · split
    · exact hw
    · split
      · rw [workFor_mem, modDeck_mem]; exact hw
      · split
        · exact hw
        · split
          · rw [workFor_mem, modDeck_mem]; exact hw
          · split
            · split
              · refine doneMark_wf _ _ _ _ _ ?_
                rw [workFor_mem]; exact hw
              · exact hw
            · exact hw
  · exact hw

@[simp] theorem beginErase_mem (s : State) (a : DeckAddr) (p : ProgState) : (beginErase s a p).mem = s.mem := by unfold beginErase; simp

@[simp] theorem deckErase_wf (s : State) (a : DeckAddr) (hw : s.mem.wf = true) : (deckErase s a).mem.wf = true := by
  unfold deckErase
  (try dsimp only)
  (repeat' split) <;> simp [hw]

@[simp] theorem noteErased_wf (s : State) (k : Nat) (erased : Bool) (hw : s.mem.wf = true) : (noteErased s k erased).mem.wf = true := by
  unfold noteErased
  (try dsimp only)
  (repeat' split) <;> simp_all

@[simp] theorem freeResidents_mem (s : State) : (freeResidents s).mem = s.mem := by unfold freeResidents; simp

@[simp] theorem queueProgram_mem (s : State) (lg : Nat) : (queueProgram s lg).mem = s.mem := by
  unfold queueProgram
  (try dsimp only)
  (repeat' split) <;> simp

@[simp] theorem noteStatus_mem (s : State) (e : Nat) (st : Byte) : (noteStatus s e st).mem = s.mem := by unfold noteStatus; simp

@[simp] theorem noteFailed_mem (s : State) (lg : Nat) : (noteFailed s lg).mem = s.mem := by
  unfold noteFailed
  (try dsimp only)
  (repeat' split) <;> simp

@[simp] theorem eraseDone_wf (s : State) (a : DeckAddr) (hw : s.mem.wf = true) : (eraseDone s a).mem.wf = true := by unfold eraseDone; simp [hw]

@[simp] theorem eraseFailed_wf (s : State) (a : DeckAddr) (hw : s.mem.wf = true) : (eraseFailed s a).mem.wf = true := by unfold eraseFailed; simp [hw]

@[simp] theorem eraseLoop_wf (s : State) (a : DeckAddr) (verified : Bool) (hw : s.mem.wf = true) : (eraseLoop s a verified).mem.wf = true := by
  unfold eraseLoop
  (try dsimp only)
  (repeat' split) <;> simp [hw]

@[simp] theorem resumeDeck_mem (s : State) (k : Nat) : (resumeDeck s k).mem = s.mem := by
  unfold resumeDeck
  (try dsimp only)
  (repeat' split) <;> simp

@[simp] theorem resumeProgramming_mem (s : State) : (resumeProgramming s).mem = s.mem := by simp [resumeProgramming, apply_ite State.mem]

@[simp] theorem beginPlacing_mem (s : State) (mb : Mb) (w : List Word) (bs : List Byte) (e : Nat) : (beginPlacing s mb w bs e).mem = s.mem := by unfold beginPlacing; simp

@[simp] theorem placeOrRefuse_wf (s : State) (mb : Mb) (w : List Word) (bs : List Byte) (e : Nat) (hw : s.mem.wf = true) : (placeOrRefuse s mb w bs e).mem.wf = true := by
  unfold placeOrRefuse
  (try dsimp only)
  (repeat' split) <;> simp [hw]

@[simp] theorem admitModel_wf (s : State) (mb : Mb) (hw : s.mem.wf = true) : (admitModel s mb).mem.wf = true := by
  unfold admitModel
  repeat' (first | with_reducible assumption | with_reducible apply finishMsg_wf | with_reducible apply placeOrRefuse_wf | with_reducible apply takeMsg_wf | with_reducible apply forEach_wf | simp only [freshen_mem] | intro _ | dsimp only | split)

@[simp] theorem answerAdmit_wf (s : State) (e : Nat) (st : Byte) (payload : List Word) (hw : s.mem.wf = true) : (answerAdmit s e st payload).mem.wf = true := by unfold answerAdmit; simp [hw]

@[simp] theorem refuseAdmit_wf (s : State) (e : Nat) (st : Byte) (code : Nat) (hw : s.mem.wf = true) : (refuseAdmit s e st code).mem.wf = true := by unfold refuseAdmit; simp [hw]

@[simp] theorem commitPlacement_wf (s : State) (e : Fin 64) (pl : Plan) (hw : s.mem.wf = true) : (commitPlacement s e pl).mem.wf = true := by
  unfold commitPlacement
  (try dsimp only)
  (repeat' split) <;> simp [hw]

@[simp] theorem placementCommit_wf (s : State) (e : Fin 64) (pl : Plan) (hw : s.mem.wf = true) : (placementCommit s e pl).mem.wf = true := by
  unfold placementCommit
  (try dsimp only)
  (repeat' split) <;> simp [hw]

@[simp] theorem replaceSuspended_wf (s : State) (e : Fin 64) (pl : Plan) (hw : s.mem.wf = true) : (replaceSuspended s e pl).mem.wf = true := by
  unfold replaceSuspended
  (try dsimp only)
  (repeat' split) <;> simp [hw]

@[simp] theorem commitCommand_wf (s : State) (e : Fin 64) (pl : Plan) (hw : s.mem.wf = true) : (commitCommand s e pl).mem.wf = true := by
  unfold commitCommand
  (try dsimp only)
  (repeat' split) <;> simp [hw]

@[simp] theorem withPlan_mem (s : State) (e : Nat) (pl : Plan) : (withPlan s e pl).mem = s.mem := by unfold withPlan; simp

@[simp] theorem nameRebind_wf (s : State) (e o : Fin 64) (pl : Plan) (st : Option EngState) (x : Nat) (hw : s.mem.wf = true) : (nameRebind s e o pl st x).mem.wf = true := by unfold nameRebind; simp [hw]

@[simp] theorem rebindPlaces_wf (s : State) (mb : Mb) (w : List Word) (f t : Fin 64) (pf pt : Plan) (hw : s.mem.wf = true) : (rebindPlaces s mb w f t pf pt).mem.wf = true := by
  unfold rebindPlaces
  repeat' (first | with_reducible assumption | with_reducible apply finishMsg_wf | with_reducible apply nameRebind_wf | with_reducible apply forEach_wf | simp only [withPlan_mem] | intro _ | dsimp only | split)

@[simp] theorem rebindQueue_wf (s : State) (mb : Mb) (w : List Word) (f t : Fin 64) (hw : s.mem.wf = true) : (rebindQueue s mb w f t).mem.wf = true := by
  unfold rebindQueue
  (try dsimp only)
  (repeat' split) <;> simp [hw]

@[simp] theorem rebindCommand_wf (s : State) (mb : Mb) (pf pt : Plan) (hw : s.mem.wf = true) : (rebindCommand s mb pf pt).mem.wf = true := by
  unfold rebindCommand
  repeat' (first | with_reducible assumption | with_reducible apply finishMsg_wf | with_reducible apply rebindPlaces_wf | with_reducible apply rebindQueue_wf | with_reducible apply takeMsg_wf | with_reducible apply forEach_wf | intro _ | dsimp only | split)

@[simp] theorem queryLedger_wf (s : State) (mb : Mb) (hw : s.mem.wf = true) : (queryLedger s mb).mem.wf = true := by
  unfold queryLedger
  repeat' (first | with_reducible assumption | with_reducible apply finishMsg_wf | with_reducible apply takeMsg_wf | with_reducible apply winWrite_wf | with_reducible apply forEach_wf | intro _ | dsimp only | split)

@[simp] theorem readErrorLedger_wf (s : State) (mb : Mb) (hw : s.mem.wf = true) : (readErrorLedger s mb).mem.wf = true := by
  unfold readErrorLedger
  repeat' (first | with_reducible assumption | with_reducible apply finishMsg_wf | with_reducible apply takeMsg_wf | with_reducible apply winWrite_wf | with_reducible apply forEach_wf | intro _ | dsimp only | split)

@[simp] theorem rewriteGamma_mem (s : State) (a : DeckAddr) : (rewriteGamma s a).mem = s.mem := by simp [rewriteGamma, apply_ite State.mem]

@[simp] theorem hottest_mem (s : State) : (hottest s).mem = s.mem := by simp [hottest, apply_ite State.mem]

@[simp] theorem tempRead_mem (s : State) (t : TileAddr) (q : Nat) : (tempRead s t q).mem = s.mem := by simp [tempRead, apply_ite State.mem]

@[simp] theorem calibrate_mem (s : State) (a : DeckAddr) : (calibrate s a).mem = s.mem := by
  unfold calibrate
  (try dsimp only)
  (repeat' split) <;> simp

@[simp] theorem writeCoefficients_mem (s : State) (a : DeckAddr) (cs : List (Int × Int)) : (writeCoefficients s a cs).mem = s.mem := by simp [writeCoefficients, apply_ite State.mem]

@[simp] theorem coefficientWrite_mem (s : State) (a : DeckAddr) : (coefficientWrite s a).mem = s.mem := by
  unfold coefficientWrite
  (try dsimp only)
  (repeat' split) <;> simp

@[simp] theorem sweepDeck_mem (s : State) (a : DeckAddr) : (sweepDeck s a).mem = s.mem := by
  unfold sweepDeck
  (try dsimp only)
  (repeat' split) <;> simp

@[simp] theorem classify_mem (s : State) (a : DeckAddr) (d : Deck) (g : Nat) (rows : List Nat) (cols : List ColSeen) : (classify s a d g rows cols).mem = s.mem := by simp [classify, apply_ite State.mem]

@[simp] theorem findingLocate_mem (s : State) (a : DeckAddr) (g : Nat) (openCols : List Nat) : (findingLocate s a g openCols).mem = s.mem := by
  unfold findingLocate
  (try dsimp only)
  (repeat' split) <;> simp

@[simp] theorem noTarget_mem (s : State) (f : Finding) : (noTarget s f).mem = s.mem := by unfold noTarget; simp

@[simp] theorem beginRung_mem (s : State) (seq rung : Nat) (start : State → Deck → Finding → Target → Option Repair) : (beginRung s seq rung start).mem = s.mem := by
  unfold beginRung
  (try dsimp only)
  (repeat' split) <;> simp

@[simp] theorem repairReprogram_mem (s : State) (seq : Nat) : (repairReprogram s seq).mem = s.mem := by unfold repairReprogram; simp

@[simp] theorem spareSubstitute_mem (s : State) (seq : Nat) : (spareSubstitute s seq).mem = s.mem := by
  unfold spareSubstitute
  (try dsimp only)
  (repeat' split) <;> simp

@[simp] theorem neighbourAdjust_mem (s : State) (seq : Nat) : (neighbourAdjust s seq).mem = s.mem := by
  unfold neighbourAdjust
  (try dsimp only)
  (repeat' split) <;> simp

@[simp] theorem closingSweep_mem (s : State) (seq : Nat) : (closingSweep s seq).mem = s.mem := by
  unfold closingSweep
  (try dsimp only)
  (repeat' split) <;> simp

@[simp] theorem consignmentComplete_wf (s : State) (c q outBytes : Nat) (hw : s.mem.wf = true) : (consignmentComplete s c q outBytes).mem.wf = true := by
  unfold consignmentComplete
  repeat' (first | with_reducible assumption | with_reducible apply endCons_wf | with_reducible apply forEach_wf | simp only [modQ_mem, retireCircuits_mem] | intro _ | dsimp only | split)

@[simp] theorem cusMod_mem (s : State) (f : Cus → Cus) : (cusMod s f).mem = s.mem := by unfold cusMod; with_reducible rfl

@[simp] theorem modConn_mem (s : State) (p : SpdmPort) (f : SpdmConn → SpdmConn) : (modConn s p f).mem = s.mem := by unfold modConn; simp

@[simp] theorem serveReady_mem (act : Serve) (s : State) (p : SpdmPort) (h : ∀ s p, (act s p).1.mem = s.mem) :
    (serveReady act s p).1.mem = s.mem := by
  unfold serveReady
  split
  · rfl
  · exact h _ _

@[simp] theorem recordResp_mem (s : State) (p : SpdmPort) (r : SpdmResp) : (recordResp s p r).mem = s.mem := by unfold recordResp; simp

theorem spdmRequest_wf (s : State) (p : SpdmPort) (act : Serve) (k : ∀ s p, (act s p).1.mem = s.mem) (h : s.mem.wf = true) :
    (spdmRequest s p act).mem.wf = true := by
  unfold spdmRequest
  have g : ∀ t : State, t.mem.wf = true → (if spdmSilent t p then t else recordResp (serveReady act t p).1 p (serveReady act t p).2).mem.wf = true := by
    intro t h
    split
    · exact h
    · rw [recordResp_mem, serveReady_mem _ _ _ k]; exact h
  refine g _ ?_
  split
  · exact hostTouch_wf _ h
  · exact h

@[simp] theorem serveVersion_mem (s : State) (p : SpdmPort) : (serveVersion s p).1.mem = s.mem := by
  unfold serveVersion
  (try dsimp only)
  (repeat' split) <;> simp

@[simp] theorem serveCapabilities_mem (s : State) (p : SpdmPort) : (serveCapabilities s p).1.mem = s.mem := by
  unfold serveCapabilities
  (try dsimp only)
  (repeat' split) <;> simp

@[simp] theorem serveAlgorithms_mem (o : Bool) (s : State) (p : SpdmPort) : (serveAlgorithms o s p).1.mem = s.mem := by
  unfold serveAlgorithms
  (try dsimp only)
  (repeat' split) <;> simp

@[simp] theorem negotiated_mem (act : Serve) (s : State) (p : SpdmPort) (h : ∀ s p, (act s p).1.mem = s.mem) :
    (negotiated act s p).1.mem = s.mem := by
  unfold negotiated
  split
  · exact h _ _
  · rfl

@[simp] theorem serveDigests_mem (s : State) (p : SpdmPort) : (serveDigests s p).1.mem = s.mem := by
  unfold serveDigests
  refine negotiated_mem _ _ _ (fun s p => ?_)
  rfl

@[simp] theorem serveCertificate_mem (a b c : Nat) (s : State) (p : SpdmPort) : (serveCertificate a b c s p).1.mem = s.mem := by
  unfold serveCertificate
  refine negotiated_mem _ _ _ (fun s p => ?_)
  (try dsimp only)
  (repeat' split) <;> simp

@[simp] theorem drew2_mem (s : State) : (drew2 s).mem = s.mem := by unfold drew2; with_reducible rfl

@[simp] theorem serveChallenge_mem (a : Nat) (b : BitVec 256) (s : State) (p : SpdmPort) : (serveChallenge a b s p).1.mem = s.mem := by
  unfold serveChallenge
  refine negotiated_mem _ _ _ (fun s p => ?_)
  (try dsimp only)
  (repeat' split) <;> simp

@[simp] theorem serveSetCertificate_mem (a : Nat) (b : List Byte) (s : State) (p : SpdmPort) : (serveSetCertificate a b s p).1.mem = s.mem := by
  unfold serveSetCertificate
  refine negotiated_mem _ _ _ (fun s p => ?_)
  (try dsimp only)
  (repeat' split) <;> simp

@[simp] theorem serveMeasurements_mem (a : Byte) (b : Bool) (c : BitVec 256) (s : State) (p : SpdmPort) : (serveMeasurements a b c s p).1.mem = s.mem := by
  unfold serveMeasurements
  refine negotiated_mem _ _ _ (fun s p => ?_)
  (try dsimp only)
  (repeat' split) <;> simp

@[simp] theorem serveKeyExchange_mem (a : Nat) (b : Bool) (c : BitVec 768) (s : State) (p : SpdmPort) : (serveKeyExchange a b c s p).1.mem = s.mem := by
  unfold serveKeyExchange
  refine negotiated_mem _ _ _ (fun s p => ?_)
  (try dsimp only)
  (repeat' split) <;> simp

@[simp] theorem serveFinish_mem (a : Word) (b : List Byte) (c : Bool) (s : State) (p : SpdmPort) : (serveFinish a b c s p).1.mem = s.mem := by
  unfold serveFinish
  refine negotiated_mem _ _ _ (fun s p => ?_)
  (try dsimp only)
  (repeat' split) <;> simp

@[simp] theorem endSession_mem (s : State) (p : SpdmPort) (session : Word) : (endSession s p session).mem = s.mem := by unfold endSession; simp

@[simp] theorem inSession_mem (w : Word) (act : Serve) (s : State) (p : SpdmPort) (h : ∀ s p, (act s p).1.mem = s.mem) :
    (inSession w act s p).1.mem = s.mem := by
  unfold inSession
  split
  · exact h _ _
  · rfl

@[simp] theorem serveHeartbeat_mem (a : Word) (s : State) (p : SpdmPort) : (serveHeartbeat a s p).1.mem = s.mem := by
  unfold serveHeartbeat
  refine inSession_mem _ _ _ _ (fun s p => ?_)
  rfl

@[simp] theorem serveKeyUpdate_mem (a : Word) (s : State) (p : SpdmPort) : (serveKeyUpdate a s p).1.mem = s.mem := by
  unfold serveKeyUpdate
  refine inSession_mem _ _ _ _ (fun s p => ?_)
  (try dsimp only)
  (repeat' split) <;> simp

@[simp] theorem serveEndSession_mem (a : Word) (s : State) (p : SpdmPort) : (serveEndSession a s p).1.mem = s.mem := by
  unfold serveEndSession
  refine inSession_mem _ _ _ _ (fun s p => ?_)
  (try dsimp only)
  (repeat' split) <;> simp

@[simp] theorem vendorOk_mem (s : State) : (vendorOk s).1.mem = s.mem := by unfold vendorOk; with_reducible rfl

@[simp] theorem serveVendor_mem (a : Word) (b : VendorReq) (s : State) (p : SpdmPort) : (serveVendor a b s p).1.mem = s.mem := by
  unfold serveVendor
  refine inSession_mem _ _ _ _ (fun s p => ?_)
  (try dsimp only)
  (repeat' split) <;> simp

@[simp] theorem serveWhole_mem (r : SpdmReq) (s : State) (p : SpdmPort) : (serveWhole r s p).1.mem = s.mem := by
  unfold serveWhole
  (try dsimp only)
  (repeat' split) <;> simp

@[simp] theorem serveChunkSend_mem (a b : Nat) (c : Bool) (d : List Byte) (s : State) (p : SpdmPort) : (serveChunkSend a b c d s p).1.mem = s.mem := by
  unfold serveChunkSend
  (try dsimp only)
  (repeat' split) <;> simp

@[simp] theorem serveChunkGet_mem (a b : Nat) (s : State) (p : SpdmPort) : (serveChunkGet a b s p).1.mem = s.mem := by
  unfold serveChunkGet
  (try dsimp only)
  (repeat' split) <;> simp

@[simp] theorem chunkGet_wf (s : State) (p : SpdmPort) (handle seqNo : Nat) (hw : s.mem.wf = true) : (chunkGet s p handle seqNo).mem.wf = true := by
  unfold chunkGet
  rw [modConn_mem]
  exact spdmRequest_wf _ _ _ (fun s p => serveChunkGet_mem _ _ s p) hw

@[simp] theorem serve_mem (r : SpdmReq) (s : State) (p : SpdmPort) : (serve r s p).1.mem = s.mem := by
  unfold serve
  (try dsimp only)
  (repeat' split) <;> simp

@[simp] theorem heartbeatTimeout_mem (s : State) (p : SpdmPort) (session : Word) : (heartbeatTimeout s p session).mem = s.mem := by unfold heartbeatTimeout; simp

@[simp] theorem tunnelReply_wf (s : State) (mb : Nat) (w : List Word) (r : SpdmResp) (hw : s.mem.wf = true) : (tunnelReply s mb w r).mem.wf = true := by unfold tunnelReply; simp [hw]

@[simp] theorem spdmTunnel_wf (s : State) (mb : Mb) (h : s.mem.wf = true) : (spdmTunnel s mb).mem.wf = true := by
  unfold spdmTunnel
  first
  | (simp [h, apply_ite State.mem, apply_ite Memory.wf]; done)
  | ((try dsimp only)
     (repeat' split) <;> (first | exact h | (simp [h, apply_ite State.mem, apply_ite Memory.wf]; done) | (simp_all [apply_ite State.mem, apply_ite Memory.wf]; done)))
  | (refine takeMsg_wf _ _ _ _  (fun _ => ?_) h
     (try intro _); (try intro h); (try dsimp only)
     (repeat' split) <;> (first | exact h | (simp [h, apply_ite State.mem, apply_ite Memory.wf]; done) | (simp_all [apply_ite State.mem, apply_ite Memory.wf]; done)))
  | (refine pageWrite_wf _ _ _ _ _  (fun _ => ?_) h
     (try intro _); (try intro h); (try dsimp only)
     (repeat' split) <;> (first | exact h | (simp [h, apply_ite State.mem, apply_ite Memory.wf]; done) | (simp_all [apply_ite State.mem, apply_ite Memory.wf]; done)))
  | (refine hostWrite_wf _ _  (fun _ => ?_) h
     (try intro _); (try intro h); (try dsimp only)
     (repeat' split) <;> (first | exact h | (simp [h, apply_ite State.mem, apply_ite Memory.wf]; done) | (simp_all [apply_ite State.mem, apply_ite Memory.wf]; done)))
  | (refine onLeg_wf _ _ _  (fun _ => ?_) h
     (try intro _); (try intro h); (try dsimp only)
     (repeat' split) <;> (first | exact h | (simp [h, apply_ite State.mem, apply_ite Memory.wf]; done) | (simp_all [apply_ite State.mem, apply_ite Memory.wf]; done)))

@[simp] theorem installKeys_mem (s : State) (tid : BitVec 384) (k : KeyPkg) : (installKeys s tid k).mem = s.mem := by unfold installKeys; simp

@[simp] theorem keyDeliver_wf (s : State) (mb : Mb) (hw : s.mem.wf = true) : (keyDeliver s mb).mem.wf = true := by
  unfold keyDeliver
  repeat' (first | with_reducible assumption | with_reducible apply finishMsg_wf | with_reducible apply takeMsg_wf | with_reducible apply forEach_wf | simp only [beginSwitch_mem, installKeys_mem] | intro _ | dsimp only | split)

@[simp] theorem mapTiles_mem (s : State) (f : Tile → Tile) : (mapTiles s f).mem = s.mem := by unfold mapTiles; with_reducible rfl

@[simp] theorem switchStop_wf (s : State) (hw : s.mem.wf = true) : (switchStop s).mem.wf = true := by
  unfold switchStop
  have h1 : ∀ s : State, s.mem.wf = true → (memMod s fun m => { m with stop := [] }).mem.wf = true := by
    intro s h
    rw [memMod_mem]
    rw [Memory.wf_iff] at h ⊢
    simp_all
  rw [tidyTakeover_mem]
  dsimp only
  refine h1 _ ?_
  rw [mapTiles_mem]
  refine wsClear_wf _ ?_
  simp [hw]

@[simp] theorem destroyKeys_mem (s : State) : (destroyKeys s).mem = s.mem := by unfold destroyKeys; simp

@[simp] theorem sealOutgoing_mem (s : State) : (sealOutgoing s).mem = s.mem := by
  unfold sealOutgoing
  (try dsimp only)
  (repeat' split) <;> simp

@[simp] theorem switchCustoms_wf (s : State) (hw : s.mem.wf = true) : (switchCustoms s).mem.wf = true := by unfold switchCustoms; simp [hw]

@[simp] theorem switchConsignor_wf (s : State) (c : Nat) (hw : s.mem.wf = true) : (switchConsignor s c).mem.wf = true := by
  unfold switchConsignor
  (try dsimp only)
  (repeat' split) <;> simp_all

@[simp] theorem scrubTcm_wf (s : State) (h : s.mem.wf = true) : (scrubTcm s).mem.wf = true := by
  rw [Memory.wf_iff] at h
  unfold scrubTcm
  simp_all [memMod, Memory.wf_iff]

@[simp] theorem switchFactor_wf (s : State) (hw : s.mem.wf = true) : (switchFactor s).mem.wf = true := by
  unfold switchFactor
  repeat' (first | with_reducible assumption | with_reducible apply finishRecs_wf | with_reducible apply forEach_wf | with_reducible apply scrubTcm_wf | with_reducible apply switchConsignor_wf | with_reducible apply forEach_wf | simp only [clearGranules_mem, cusMod_mem, forEach_mem] | intro _ | dsimp only | split)

@[simp] theorem tenantSwitch_wf (s : State) (hw : s.mem.wf = true) : (tenantSwitch s).mem.wf = true := by
  unfold tenantSwitch
  (try dsimp only)
  (repeat' split) <;> simp [hw]

@[simp] theorem mgmtConnect_mem (s : State) (key : BitVec 384) (suiteOk : Bool) : (mgmtConnect s key suiteOk).mem = s.mem := by
  unfold mgmtConnect
  (try dsimp only)
  (repeat' split) <;> simp

@[simp] theorem asAdmin_wf (s : State) (client : BitVec 384) (act : State → State) (k : ∀ s, s.mem.wf = true → (act s).mem.wf = true) (h : s.mem.wf = true) :
    (asAdmin s client act).mem.wf = true := by
  unfold asAdmin
  split <;> simp [k, h]

@[simp] theorem mgmtEnrol_mem (s : State) (client key : BitVec 384) (role : Role) : (mgmtEnrol s client key role).mem = s.mem := by
  unfold mgmtEnrol asAdmin
  dsimp only
  (repeat' split) <;> rfl

@[simp] theorem powerRequest_mem (s : State) (target : BitVec 2) : (powerRequest s target).mem = s.mem := by unfold powerRequest; simp

@[simp] theorem debugGive_mem (s : State) (bit : Nat) (bs : List Byte) : (debugGive s bit bs).mem = s.mem := by simp [debugGive, apply_ite State.mem]

@[simp] theorem debugHalt_mem (s : State) (halt : Bool) : (debugHalt s halt).mem = s.mem := by simp [debugHalt, apply_ite State.mem]

@[simp] theorem sendData_mem (s : State) (p : Nat) (bs : List Byte) : (sendData s p bs).mem = s.mem := by simp [sendData, apply_ite State.mem]

@[simp] theorem broadcast_mem (s : State) (bs : List Byte) : (broadcast s bs).mem = s.mem := by unfold broadcast; simp

@[simp] theorem suspendForPort_mem (s : State) (e : Nat) : (suspendForPort s e).mem = s.mem := by unfold suspendForPort; simp

@[simp] theorem losePort_mem (s : State) (p : Nat) : (losePort s p).mem = s.mem := by simp [losePort, apply_ite State.mem]

@[simp] theorem portLost_mem (s : State) (p : Nat) : (portLost s p).mem = s.mem := by simp [portLost, apply_ite State.mem]

@[simp] theorem lostNotice_mem (s : State) (p body : Nat) : (lostNotice s p body).mem = s.mem := by simp [lostNotice, apply_ite State.mem]

@[simp] theorem ackWord_mem (s : State) (p body : Nat) : (ackWord s p body).mem = s.mem := by unfold ackWord; simp

@[simp] theorem ackSend_mem (s : State) (p : Nat) : (ackSend s p).mem = s.mem := by simp [ackSend, apply_ite State.mem]

@[simp] theorem nakWord_mem (s : State) (p body : Nat) : (nakWord s p body).mem = s.mem := by simp [nakWord, apply_ite State.mem]

@[simp] theorem rekeyWord_mem (s : State) (p body : Nat) : (rekeyWord s p body).mem = s.mem := by simp [rekeyWord, apply_ite State.mem]

@[simp] theorem landSlot_wf (s : State) (e k b : Nat) (l : PlanLink) (x : Nat) (bs : List Byte) (bad : Bool) (hw : s.mem.wf = true) : (landSlot s e k b l x bs bad).mem.wf = true := by
  unfold landSlot
  (try dsimp only)
  (repeat' split) <;> simp [hw]

@[simp] theorem wordArrives_wf (s : State) (p e k : Nat) (w : Nat) (hw : s.mem.wf = true) : (wordArrives s p e k w).mem.wf = true := by
  unfold wordArrives
  (try dsimp only)
  (repeat' split) <;> simp [hw]

@[simp] theorem ownedArrives_wf (s : State) (p : Nat) (slot : Fin 64 × Nat × Nat) (bs : List Byte) (bad : Bool) (hw : s.mem.wf = true) : (ownedArrives s p slot bs bad).mem.wf = true := by
  unfold ownedArrives
  (try dsimp only)
  (repeat' split) <;> simp [hw]

@[simp] theorem sendNak_mem (s : State) (p : Nat) : (sendNak s p).mem = s.mem := by simp [sendNak, apply_ite State.mem]

@[simp] theorem unownedArrives_mem (s : State) (p : Nat) (resent : Bool) (bs : List Byte) (bad : Bool) : (unownedArrives s p resent bs bad).mem = s.mem := by simp [unownedArrives, apply_ite State.mem]

@[simp] theorem frameDelivers_wf (p : Nat) (plain : Option (List Byte)) (s : State) (f : RxFrame × Nat) (hw : s.mem.wf = true) : (frameDelivers p plain s f).mem.wf = true := by
  unfold frameDelivers
  repeat' (first | with_reducible assumption | with_reducible apply ownedArrives_wf | with_reducible apply forEach_wf | simp only [unownedArrives_mem] | intro _ | dsimp only | split)

@[simp] theorem noteTag_mem (s : State) (p : Nat) (ok : Bool) : (noteTag s p ok).mem = s.mem := by simp [noteTag, apply_ite State.mem]

@[simp] theorem closeGroup_wf (s : State) (p : Nat) (hw : s.mem.wf = true) : (closeGroup s p).mem.wf = true := by
  unfold closeGroup
  repeat' (first | with_reducible assumption | with_reducible apply forEach_wf | with_reducible apply frameDelivers_wf | with_reducible apply forEach_wf | simp only [forEach_mem, modPort_mem, noteTag_mem] | intro _ | dsimp only | split)

@[simp] theorem countUe_mem (s : State) (p : Nat) : (countUe s p).mem = s.mem := by simp [countUe, apply_ite State.mem]

@[simp] theorem takeFrame_wf (s : State) (p : Nat) (ftype : BitVec 4) (f : Frame) (slot : Option (Fin 64 × Nat × Nat)) (hw : s.mem.wf = true) : (takeFrame s p ftype f slot).mem.wf = true := by
  unfold takeFrame
  repeat' (first | with_reducible assumption | with_reducible apply closeGroup_wf | with_reducible apply forEach_wf | simp only [countUe_mem, modPort_mem] | intro _ | dsimp only | split)

@[simp] theorem ownedFrame_wf (s : State) (p e k x : Nat) (f : Frame) (hw : s.mem.wf = true) : (ownedFrame s p e k x f).mem.wf = true := by
  unfold ownedFrame
  repeat' (first | with_reducible assumption | with_reducible apply advanceTo_wf | with_reducible apply ownedArrives_wf | with_reducible apply takeFrame_wf | with_reducible apply forEach_wf | intro _ | dsimp only | split)

@[simp] theorem unownedDataFrame_wf (s : State) (p : Nat) (f : Frame) (hw : s.mem.wf = true) : (unownedDataFrame s p f).mem.wf = true := by unfold unownedDataFrame; simp [hw]

@[simp] theorem unownedReplayFrame_wf (s : State) (p : Nat) (f : Frame) (hw : s.mem.wf = true) : (unownedReplayFrame s p f).mem.wf = true := by unfold unownedReplayFrame; simp [hw]

@[simp] theorem idleFrame_wf (s : State) (p : Nat) (f : Frame) (hw : s.mem.wf = true) : (idleFrame s p f).mem.wf = true := by unfold idleFrame; simp [hw]

@[simp] theorem linkRun_wf (s : State) (ctx : LegCtx) (l : ConvoyLeg) (hw : s.mem.wf = true) : (linkRun s ctx l).mem.wf = true := by unfold linkRun; simp [hw]

@[simp] theorem trainPasses_mem (s : State) (p phase peer peerPort : Nat) (peerVersion : Word) (roundTrip : Nat) : (trainPasses s p phase peer peerPort peerVersion roundTrip).mem = s.mem := by
  simp [trainPasses, apply_ite State.mem]

@[simp] theorem portTrain_mem (s : State) (p phase : Nat) (ok : Bool) (peer peerPort : Nat) (peerVersion : Word) (roundTrip : Nat) : (portTrain s p phase ok peer peerPort peerVersion roundTrip).mem = s.mem := by
  simp [portTrain, apply_ite State.mem]

@[simp] theorem portRetry_mem (s : State) (p : Nat) : (portRetry s p).mem = s.mem := by simp [portRetry, apply_ite State.mem]

@[simp] theorem wakePattern_wf (s : State) (p : Nat) (hw : s.mem.wf = true) : (wakePattern s p).mem.wf = true := by
  unfold wakePattern
  (try dsimp only)
  (repeat' split) <;> simp [hw]

@[simp] theorem joinRoute_mem (s : State) (ns : List Node) : (joinRoute s ns).mem = s.mem := by unfold joinRoute; simp

@[simp] theorem runAlone_mem (s : State) : (runAlone s).mem = s.mem := by unfold runAlone; simp

@[simp] theorem formRoute_mem (s : State) (ns : List Node) : (formRoute s ns).mem = s.mem := by simp [formRoute, apply_ite State.mem]

@[simp] theorem pwrMod_mem (s : State) (f : Pwr → Pwr) : (pwrMod s f).mem = s.mem := by unfold pwrMod; with_reducible rfl

@[simp] theorem refuseEntry_mem (s : State) (unit : Nat) : (refuseEntry s unit).mem = s.mem := by unfold refuseEntry; simp

@[simp] theorem beginEntry_mem (s : State) : (beginEntry s).mem = s.mem := by unfold beginEntry; simp

@[simp] theorem waitsNow_mem (s : State) : (waitsNow s).mem = s.mem := by
  unfold waitsNow
  (try dsimp only)
  (repeat' split) <;> simp

@[simp] theorem waits_mem (s : State) : (waits s).mem = s.mem := by simp [waits, apply_ite State.mem]

@[simp] theorem sleepPort_mem (s : State) (p : Nat) : (sleepPort s p).mem = s.mem := by simp [sleepPort, apply_ite State.mem]

@[simp] theorem enterCamp_mem (s : State) : (enterCamp s).mem = s.mem := by unfold enterCamp; simp

@[simp] theorem enterDeepCamp_wf (s : State) (hw : s.mem.wf = true) : (enterDeepCamp s).mem.wf = true := by unfold enterDeepCamp; simp [hw]

@[simp] theorem entryComplete_wf (s : State) (hw : s.mem.wf = true) : (entryComplete s).mem.wf = true := by
  unfold entryComplete
  (try dsimp only)
  (repeat' split) <;> simp [hw]

@[simp] theorem targetTrek_wf (s : State) (hw : s.mem.wf = true) : (targetTrek s).mem.wf = true := by
  unfold targetTrek
  (try dsimp only)
  (repeat' split) <;> simp [hw]

@[simp] theorem epochTimer_wf (s : State) (hw : s.mem.wf = true) : (epochTimer s).mem.wf = true := by
  unfold epochTimer
  (try dsimp only)
  (repeat' split) <;> simp [hw]

@[simp] theorem campExit_wf (s : State) (hw : s.mem.wf = true) : (campExit s).mem.wf = true := by
  unfold campExit
  (try dsimp only)
  (repeat' split) <;> simp_all

@[simp] theorem haltIdle_mem (s : State) : (haltIdle s).mem = s.mem := by simp [haltIdle, apply_ite State.mem]

@[simp] theorem hintExpiry_mem (s : State) : (hintExpiry s).mem = s.mem := by unfold hintExpiry; simp

@[simp] theorem setRail_mem (s : State) (r : Rail) (ok : Bool) : (setRail s r ok).mem = s.mem := by
  unfold setRail
  (try dsimp only)
  (repeat' split) <;> simp

@[simp] theorem supplyWarning_wf (s : State) (r : Rail) (hw : s.mem.wf = true) : (supplyWarning s r).mem.wf = true := by
  unfold supplyWarning
  (try dsimp only)
  (repeat' split) <;> simp [hw]

@[simp] theorem noteLockout_mem (s : State) (phys string : Nat) : (noteLockout s phys string).mem = s.mem := by unfold noteLockout; simp

@[simp] theorem dropSpare_mem (s : State) (phys : Nat) : (dropSpare s phys).mem = s.mem := by simp [dropSpare, apply_ite State.mem]

@[simp] theorem lockIvr_mem (s : State) (phys : Nat) : (lockIvr s phys).mem = s.mem := by unfold lockIvr; simp

@[simp] theorem lockPump_mem (s : State) (phys string : Nat) : (lockPump s phys string).mem = s.mem := by unfold lockPump; simp

@[simp] theorem regulatorTrip_mem (s : State) (phys : Nat) (pump : Option Nat) : (regulatorTrip s phys pump).mem = s.mem := by
  unfold regulatorTrip
  (try dsimp only)
  (repeat' split) <;> simp

@[simp] theorem ivrStart_mem (s : State) (phys : Nat) (shorted : Bool) : (ivrStart s phys shorted).mem = s.mem := by simp [ivrStart, apply_ite State.mem]

@[simp] theorem pumpStart_wf (s : State) (phys string : Nat) (shorted : Bool) (hw : s.mem.wf = true) : (pumpStart s phys string shorted).mem.wf = true := by
  unfold pumpStart
  (try dsimp only)
  (repeat' split) <;> simp [hw]

@[simp] theorem varrStep_mem (s : State) (phys : Nat) (up : Bool) : (varrStep s phys up).mem = s.mem := by simp [varrStep, apply_ite State.mem]

@[simp] theorem laneStep_mem (s : State) (p : Nat) (sleep : Bool) : (laneStep s p sleep).mem = s.mem := by simp [laneStep, apply_ite State.mem]

@[simp] theorem tollSample_mem (s : State) (q : Nat) : (tollSample s q).mem = s.mem := by simp [tollSample, apply_ite State.mem]

@[simp] theorem windowEnd_mem (s : State) (hundred : Bool) : (windowEnd s hundred).mem = s.mem := by simp [windowEnd, apply_ite State.mem]

@[simp] theorem targetDeck_wf (s : State) (e : Nat) (pl : Plan) (k : Nat) (q : QLayer) (d : PlanDeck) (hw : s.mem.wf = true) : (targetDeck s e pl k q d).mem.wf = true := by unfold targetDeck; simp [hw]

@[simp] theorem startDeck_mem (s : State) (e : Nat) (wb : BitVec 64) (lg : Nat) : (startDeck s e wb lg).mem = s.mem := by simp [startDeck, apply_ite State.mem]

@[simp] theorem useLayer_wf (s : State) (e : Nat) (wb : BitVec 64) (id k : Nat) (q : QLayer) (hw : s.mem.wf = true) : (useLayer s e wb id k q).mem.wf = true := by
  unfold useLayer
  (try dsimp only)
  (repeat' split) <;> simp_all

@[simp] theorem takeRecord_wf (s : State) (e : Nat) (w : Waybill) (bs : List Byte) (hw : s.mem.wf = true) : (takeRecord s e w bs).mem.wf = true := by
  unfold takeRecord
  (try dsimp only)
  (repeat' split) <;> simp [hw]

@[simp] theorem takeRecords_wf (n : Nat) (s : State) (e : Nat) (h : s.mem.wf = true) : (takeRecords n s e).mem.wf = true := by
  induction n generalizing s with
  | zero => exact h
  | succ n ih => unfold takeRecords; (repeat' split) <;> (try dsimp only) <;> (repeat' split) <;> simp [ih, h]

@[simp] theorem sendWay_mem (s : State) (lead : Nat) (bs : List Byte) : (sendWay s lead bs).mem = s.mem := by unfold sendWay; simp

@[simp] theorem programWaybill_wf (s : State) (mb : Mb) (hw : s.mem.wf = true) : (programWaybill s mb).mem.wf = true := by
  unfold programWaybill
  repeat' (first | with_reducible assumption | with_reducible apply finishMsg_wf | with_reducible apply takeMsg_wf | with_reducible apply forEach_wf | simp only [modEng_mem, pushRec_mem, sendWay_mem] | intro _ | dsimp only | split)

@[simp] theorem useSegment_wf (s : State) (e : Nat) (w : Waybill) (bs : List Byte) (hw : s.mem.wf = true) : (useSegment s e w bs).mem.wf = true := by
  unfold useSegment
  (try dsimp only)
  (repeat' split) <;> simp [hw]

@[simp] theorem joinWaybill_mem (s : State) (e lead : Nat) (bs : List Byte) : (joinWaybill s e lead bs).mem = s.mem := by simp [joinWaybill, apply_ite State.mem]

@[simp] theorem waybillSegment_wf (s : State) (e lead : Nat) (bytes : List Byte) (hw : s.mem.wf = true) : (waybillSegment s e lead bytes).mem.wf = true := by
  unfold waybillSegment
  (try dsimp only)
  (repeat' split) <;> simp [hw]

@[simp] theorem endWaybill_mem (s : State) (e : Nat) (ok : Bool) : (endWaybill s e ok).mem = s.mem := by unfold endWaybill; simp

@[simp] theorem takeReport_wf (s : State) (e dev : Nat) (w : Waybill) (st : Byte) (done skipped : Nat) (hw : s.mem.wf = true) : (takeReport s e dev w st done skipped).mem.wf = true := by
  unfold takeReport
  (try dsimp only)
  (repeat' split) <;> simp [hw]

@[simp] theorem takeOther_wf (s : State) (e dev : Nat) (w : Waybill) (st : Byte) (done skipped : Nat) (hw : s.mem.wf = true) : (takeOther s e dev w st done skipped).mem.wf = true := by
  unfold takeOther
  (try dsimp only)
  (repeat' split) <;> simp [hw]

@[simp] theorem waybillReport_wf (s : State) (e dev : Nat) (st : Byte) (done skipped : Nat) (hw : s.mem.wf = true) : (waybillReport s e dev st done skipped).mem.wf = true := by
  unfold waybillReport
  (try dsimp only)
  (repeat' split) <;> simp [hw]

@[simp] theorem restoreHist_wf (s : State) (e : Nat) (on : Nat → Bool) (hw : s.mem.wf = true) : (restoreHist s e on).mem.wf = true := by unfold restoreHist; simp [hw]

@[simp] theorem nameReturn_wf (s : State) (e : Nat) (hw : s.mem.wf = true) : (nameReturn s e).mem.wf = true := by
  unfold nameReturn
  (try dsimp only)
  (repeat' split) <;> simp [hw]

@[simp] theorem returnEngs_wf (s : State) (c : Nat) (hw : s.mem.wf = true) : (returnEngs s c).mem.wf = true := by
  unfold returnEngs
  repeat' (first | with_reducible assumption | with_reducible apply forEach_wf | with_reducible apply nameReturn_wf | with_reducible apply restoreHist_wf | with_reducible apply forEach_wf | simp only [forEach_mem] | intro _ | dsimp only | split)

@[simp] theorem returnCore_wf (s : State) (c : Nat) (hw : s.mem.wf = true) : (returnCore s c).mem.wf = true := by unfold returnCore; simp [hw]

@[simp] theorem unfenceCore_wf (s : State) (mb : Mb) (checkOk : Bool) (hw : s.mem.wf = true) : (unfenceCore s mb checkOk).mem.wf = true := by
  unfold unfenceCore
  repeat' (first | with_reducible assumption | with_reducible apply finishMsg_wf | with_reducible apply returnCore_wf | with_reducible apply takeMsg_wf | with_reducible apply forEach_wf | simp only [mapMod_mem, pushRec_mem, saveCoreMap_mem] | intro _ | dsimp only | split)

@[simp] theorem stopCore_mem (s : State) (p : Nat) : (stopCore s p).mem = s.mem := by unfold stopCore; simp

@[simp] theorem stopTiles_mem (s : State) (p : Nat) : (stopTiles s p).mem = s.mem := by unfold stopTiles; with_reducible rfl

@[simp] theorem stopCoreDecks_mem (s : State) (p : Nat) : (stopCoreDecks s p).mem = s.mem := by unfold stopCoreDecks; simp

@[simp] theorem replayCons_mem (s : State) (e : Nat) (x : Nat × Nat) : (replayCons s e x).mem = s.mem := by unfold replayCons; simp

@[simp] theorem replayEng_wf (s : State) (e : Nat) (hw : s.mem.wf = true) : (replayEng s e).mem.wf = true := by
  unfold replayEng
  repeat' (first | with_reducible assumption | with_reducible apply forEach_wf | with_reducible apply restoreHist_wf | with_reducible apply forEach_wf | simp only [forEach_mem, modEng_mem, replayCons_mem] | intro _ | dsimp only | split)

@[simp] theorem withdrawSwap_mem (s : State) (e : Nat) : (withdrawSwap s e).mem = s.mem := by simp [withdrawSwap, apply_ite State.mem]

@[simp] theorem addPages_mem (s : State) (e : Nat) (pl : Plan) : (addPages s e pl).mem = s.mem := by unfold addPages; simp

@[simp] theorem degradeEng_wf (plans : List (Fin 64 × Plan)) (spare : Bool) (s : State) (e : Nat) (hw : s.mem.wf = true) : (degradeEng plans spare s e).mem.wf = true := by
  unfold degradeEng
  repeat' (first | with_reducible assumption | with_reducible apply replayEng_wf | with_reducible apply writeImages_wf | with_reducible apply forEach_wf | simp only [addPages_mem, loadStandby_mem, modEng_mem, nameSwap_mem] | intro _ | dsimp only | split)

@[simp] theorem endStranded_wf (s : State) (c : Nat) (e : Nat) (hw : s.mem.wf = true) : (endStranded s c e).mem.wf = true := by
  unfold endStranded
  (try dsimp only)
  (repeat' split) <;> simp [hw]

@[simp] theorem fenceRun_wf (s : State) (c : Nat) (cause : BitVec 4) (plans : List (Fin 64 × Plan)) (hw : s.mem.wf = true) : (fenceRun s c cause plans).mem.wf = true := by
  unfold fenceRun
  repeat' (first | with_reducible assumption | with_reducible apply degradeEng_wf | with_reducible apply endStranded_wf | with_reducible apply finishRecs_wf | with_reducible apply forEach_wf | with_reducible apply forEach_wf | simp only [forEach_mem, mapMod_mem, saveCoreMap_mem, stopCore_mem, stopCoreDecks_mem, stopTiles_mem, tidyTakeover_mem, withdrawSwap_mem] | intro _ | dsimp only | split)

@[simp] theorem coreFence_wf (s : State) (c : Nat) (cause : BitVec 4) (plans : List (Fin 64 × Plan)) (hw : s.mem.wf = true) : (coreFence s c cause plans).mem.wf = true := by
  unfold coreFence
  (try dsimp only)
  (repeat' split) <;> simp [hw]

@[simp] theorem assignSpare_mem (s : State) (c : Nat) (p : Nat) : (assignSpare s c p).mem = s.mem := by simp [assignSpare, apply_ite State.mem]

@[simp] theorem finishTakeover_wf (s : State) (c : Nat) (hw : s.mem.wf = true) : (finishTakeover s c).mem.wf = true := by
  unfold finishTakeover
  (try dsimp only)
  (repeat' split) <;> simp [hw]

@[simp] theorem spareTakeover_wf (s : State) (c : Nat) (hw : s.mem.wf = true) : (spareTakeover s c).mem.wf = true := by
  unfold spareTakeover
  (try dsimp only)
  (repeat' split) <;> simp [hw]

@[simp] theorem rouse_wf (s : State) (hw : s.mem.wf = true) : (rouse s).mem.wf = true := by
  unfold rouse
  (try dsimp only)
  (repeat' split) <;> simp [hw]

@[simp] theorem deviceReset_wf (s : State) (src : Nat) (cold : Bool) (hw : s.mem.wf = true) : (deviceReset s src cold).mem.wf = true := by
  unfold deviceReset
  (try dsimp only)
  (repeat' split) <;> simp [hw]

@[simp] theorem powerOnReset_wf (s : State) (vsbLost : Bool) (hw : s.mem.wf = true) : (powerOnReset s vsbLost).mem.wf = true := by unfold powerOnReset; simp [hw]

@[simp] theorem perstChange_wf (s : State) (asserted : Bool) (hw : s.mem.wf = true) : (perstChange s asserted).mem.wf = true := by
  unfold perstChange
  (try dsimp only)
  (repeat' split) <;> simp [hw]

@[simp] theorem rstNInput_wf (s : State) (lowNs : Nat) (hw : s.mem.wf = true) : (rstNInput s lowNs).mem.wf = true := by
  unfold rstNInput
  (try dsimp only)
  (repeat' split) <;> simp [hw]

@[simp] theorem factorWatchdog_wf (s : State) (hw : s.mem.wf = true) : (factorWatchdog s).mem.wf = true := by
  unfold factorWatchdog
  (try dsimp only)
  (repeat' split) <;> simp [hw]

@[simp] theorem thermalShutdown_wf (s : State) (hw : s.mem.wf = true) : (thermalShutdown s).mem.wf = true := by unfold thermalShutdown; simp [hw]

@[simp] theorem routeReset_wf (s : State) (sender : Nat) (cold : Bool) (hw : s.mem.wf = true) : (routeReset s sender cold).mem.wf = true := by
  unfold routeReset
  (try dsimp only)
  (repeat' split) <;> simp [hw]

@[simp] theorem tamper_wf (s : State) (lowNs : Nat) (hw : s.mem.wf = true) : (tamper s lowNs).mem.wf = true := by
  unfold tamper
  (try dsimp only)
  (repeat' split) <;> simp [hw]

@[simp] theorem stretchEnd_mem (s : State) : (stretchEnd s).mem = s.mem := by simp [stretchEnd, apply_ite State.mem]

@[simp] theorem optThr_mem (s : State) (bs : List Byte) : (optThr s bs).mem = s.mem := by unfold optThr; simp

@[simp] theorem optRstCfg_mem (s : State) (bs : List Byte) : (optRstCfg s bs).mem = s.mem := by unfold optRstCfg; with_reducible rfl

@[simp] theorem optLocks_mem (s : State) (bs : List Byte) : (optLocks s bs).mem = s.mem := by simp [optLocks, apply_ite State.mem]

@[simp] theorem optCold_mem (s : State) (bs : List Byte) : (optCold s bs).mem = s.mem := by unfold optCold; simp

@[simp] theorem loadOptions_mem (s : State) (cold : Bool) : (loadOptions s cold).mem = s.mem := by
  unfold loadOptions
  (try dsimp only)
  (repeat' split) <;> simp

@[simp] theorem loadCoreMap_mem (s : State) : (loadCoreMap s).mem = s.mem := by
  unfold loadCoreMap
  (try dsimp only)
  (repeat' split) <;> simp

@[simp] theorem loadRing_mem (s : State) : (loadRing s).mem = s.mem := by unfold loadRing; with_reducible rfl

@[simp] theorem loadResident_mem (s : State) (e : Nat) : (loadResident s e).mem = s.mem := by simp [loadResident, apply_ite State.mem]

@[simp] theorem loadDecks_mem (s : State) : (loadDecks s).mem = s.mem := by unfold loadDecks; simp

@[simp] theorem finishSwitchRecord_mem (s : State) : (finishSwitchRecord s).mem = s.mem := by
  unfold finishSwitchRecord
  (try dsimp only)
  (repeat' split) <;> simp

@[simp] theorem loadedState_mem (s : State) (smba : BitVec 2) : (loadedState s smba).mem = s.mem := by simp [loadedState, apply_ite State.mem]

@[simp] theorem optionLoading_mem (s : State) (smba : BitVec 2) (recovN : Bool) : (optionLoading s smba recovN).mem = s.mem := by simp [optionLoading, apply_ite State.mem]

@[simp] theorem pendingCrst_wf (s : State) (hw : s.mem.wf = true) : (pendingCrst s).mem.wf = true := by
  unfold pendingCrst
  (try dsimp only)
  (repeat' split) <;> simp_all

@[simp] theorem factorUp_wf (s : State) (hw : s.mem.wf = true) : (factorUp s).mem.wf = true := by
  unfold factorUp
  repeat' (first | with_reducible assumption | with_reducible apply flushCompletions_wf | with_reducible apply forEach_wf | with_reducible apply pendingCrst_wf | with_reducible apply switchFactor_wf | with_reducible apply forEach_wf | simp only [confirmImage_mem, forEach_mem] | intro _ | dsimp only | split)

@[simp] theorem factorReady_wf (s : State) (hw : s.mem.wf = true) : (factorReady s).mem.wf = true := by
  unfold factorReady
  (try dsimp only)
  (repeat' split) <;> simp [hw]

@[simp] theorem factorResume_wf (s : State) (hw : s.mem.wf = true) : (factorResume s).mem.wf = true := by
  unfold factorResume
  (try dsimp only)
  (repeat' split) <;> simp [hw]

end Sys2Proof.Machine
end

