-- ==== Sys2Proof/Laws/Queue.lean ====
section
/-! SUPPORT. What every operation of the machine leaves of the queue of waiting commands: all of it. -/

set_option linter.unusedSimpArgs false
set_option linter.unusedVariables false

namespace Sys2Proof.Machine

theorem foldl_pending {α : Type} (l : List α) (s : State) (f : State → α → State) (h : ∀ s a, (f s a).pending = s.pending) :
    (l.foldl f s).pending = s.pending := by
  induction l generalizing s with
  | nil => rfl
  | cons a l ih => simp only [List.foldl_cons]; rw [ih]; exact h s a

@[simp] theorem forEach_pending {α : Type} (l : List α) (s : State) (f : State → α → State) (h : ∀ s a, (f s a).pending = s.pending) :
    (forEach l s f).pending = s.pending := by
  unfold forEach
  exact foldl_pending l s f h

/-- `pending` stands as in `s`.  (A relation of its own: the kernel then compares states before it evaluates them.) -/
def Same_pending (s t : State) : Prop := t.pending = s.pending

theorem Same_pending.trans {s t u : State} (h : Same_pending s t) (k : Same_pending t u) : Same_pending s u := Eq.trans k h

theorem forEach_same_pending {α : Type} (l : List α) (s : State) (f : State → α → State) (h : ∀ s a, Same_pending s (f s a)) : Same_pending s (forEach l s f) :=
  forEach_pending l s f h

theorem foldl_fst_pending {α β : Type} (l : List α) (a : State × β) (f : State × β → α → State × β) (h : ∀ a x, (f a x).1.pending = a.1.pending) :
    (l.foldl f a).1.pending = a.1.pending := by
  induction l generalizing a with
  | nil => rfl
  | cons x l ih => simp only [List.foldl_cons]; rw [ih]; exact h a x

@[simp] theorem takeSnap_pending (s : State) : (takeSnap s).pending = s.pending := by unfold takeSnap; with_reducible rfl

@[simp] theorem freshen_pending (s : State) : (freshen s).pending = s.pending := by unfold freshen; with_reducible rfl

@[simp] theorem mapMod_pending (s : State) (c : Nat) (f : LdgEntry → LdgEntry) : (mapMod s c f).pending = s.pending := by unfold mapMod; with_reducible rfl

@[simp] theorem modDeck_pending (s : State) (k : Nat) (f : Deck → Deck) : (modDeck s k f).pending = s.pending := by unfold modDeck; with_reducible rfl

@[simp] theorem modTile_pending (s : State) (k : Nat) (f : Tile → Tile) : (modTile s k f).pending = s.pending := by unfold modTile; with_reducible rfl

@[simp] theorem modCore_pending (s : State) (p : Nat) (f : Core → Core) : (modCore s p f).pending = s.pending := by unfold modCore; with_reducible rfl

@[simp] theorem modEng_pending (s : State) (e : Nat) (f : Eng → Eng) : (modEng s e f).pending = s.pending := by unfold modEng; with_reducible rfl

@[simp] theorem modMb_pending (s : State) (p : Nat) (f : MbPage → MbPage) : (modMb s p f).pending = s.pending := by unfold modMb; with_reducible rfl

@[simp] theorem modPort_pending (s : State) (p : Nat) (f : Port → Port) : (modPort s p f).pending = s.pending := by unfold modPort; with_reducible rfl

@[simp] theorem modStack_pending (s : State) (i : Nat) (f : Stack → Stack) : (modStack s i f).pending = s.pending := by unfold modStack; with_reducible rfl



@[simp] theorem fireVector_pending (s : State) (v : Nat) : (fireVector s v).pending = s.pending := by simp [fireVector, apply_ite State.pending]

@[simp] theorem msixWrite_pending (s : State) (i : Nat) (w : Word) : (msixWrite s i w).pending = s.pending := by simp [msixWrite, apply_ite State.pending]

@[simp] theorem logViolation_pending (s : State) (v : Viol) : (logViolation s v).pending = s.pending := by simp [logViolation, apply_ite State.pending]

@[simp] theorem memMod_pending (s : State) (f : Memory → Memory) : (memMod s f).pending = s.pending := by unfold memMod; with_reducible rfl

@[simp] theorem wsClear_pending (s : State) : (wsClear s).pending = s.pending := by unfold wsClear; simp

@[simp] theorem wsPutChunk_pending (s : State) (c : Nat × List MByte) : (wsPutChunk s c).pending = s.pending := by unfold wsPutChunk; simp

@[simp] theorem wsWrite_pending (s : State) (phys addr : Nat) (bs : List MByte) : (wsWrite s phys addr bs).pending = s.pending := by
  unfold wsWrite
  exact forEach_pending _ _ _ wsPutChunk_pending

theorem wsWrite_same_pending (s : State) (phys addr : Nat) (bs : List MByte) : Same_pending s (wsWrite s phys addr bs) := wsWrite_pending s phys addr bs

@[simp] theorem stopWrite_pending (s : State) (phys addr : Nat) (bs : List MByte) : (stopWrite s phys addr bs).pending = s.pending := by unfold stopWrite; simp

@[simp] theorem smPutChunk_pending (s : State) (c : Nat × List MByte) : (smPutChunk s c).pending = s.pending := by unfold smPutChunk; simp

@[simp] theorem smWrite_pending (s : State) (pa : Nat) (bs : List MByte) : (smWrite s pa bs).pending = s.pending := by unfold smWrite; simp

@[simp] theorem smClear_pending (s : State) : (smClear s).pending = s.pending := by unfold smClear; simp

@[simp] theorem landWrite_pending (s : State) (p : Posted) : (landWrite s p).pending = s.pending := by unfold landWrite; simp

@[simp] theorem settled_pending (s : State) : (settled s).pending = s.pending := by unfold settled; simp

@[simp] theorem noteStaging_pending (s : State) : (noteStaging s).pending = s.pending := by unfold noteStaging; with_reducible rfl
@[simp] theorem holdStaging_pending (s : State) (id n : Nat) (b : Beat) : (holdStaging s id n b).pending = s.pending := by unfold holdStaging; simp

@[simp] theorem postWrite_pending (s : State) (pa : Nat) (bs : List MByte) : (postWrite s pa bs).pending = s.pending := by unfold postWrite; simp

@[simp] theorem engWrite_pending (s : State) (e off : Nat) (bs : List MByte) : (engWrite s e off bs).pending = s.pending := by unfold engWrite; simp

@[simp] theorem engPost_pending (s : State) (e off : Nat) (bs : List MByte) : (engPost s e off bs).pending = s.pending := by unfold engPost; simp

@[simp] theorem modGran_pending (s : State) (k : Nat) (f : Gran → Gran) : (modGran s k f).pending = s.pending := by unfold modGran; with_reducible rfl

@[simp] theorem winWrite_pending (s : State) (addr : Nat) (bs : List MByte) : (winWrite s addr bs).pending = s.pending := by unfold winWrite; simp

@[simp] theorem bouncePushChunk_pending (k ctr : Nat) (s : State) (c : Nat) : (bouncePushChunk k ctr s c).pending = s.pending := by
  unfold bouncePushChunk
  dsimp only
  generalize List.replicate 4096 (0 : Byte) = w
  simp only [memMod_pending]

@[simp] theorem bouncePush_pending (s : State) (k : Nat) : (bouncePush s k).pending = s.pending := by unfold bouncePush; simp

@[simp] theorem bouncePull_pending (s : State) (k : Nat) : (bouncePull s k).1.pending = s.pending := by
  unfold bouncePull
  dsimp only
  split <;> exact winWrite_pending _ _ _

@[simp] theorem granHold_pending (s : State) (ks : List Nat) : (granHold s ks).pending = s.pending := by unfold granHold; simp

@[simp] theorem granDrop_pending (s : State) (k : Nat) : (granDrop s k).pending = s.pending := by simp [granDrop, apply_ite State.pending]

@[simp] theorem granRelease_pending (s : State) (ks : List Nat) : (granRelease s ks).pending = s.pending := by unfold granRelease; simp

@[simp] theorem granTidy_pending (s : State) (j : Nat) : (granTidy s j).pending = s.pending := by simp [granTidy, apply_ite State.pending]

@[simp] theorem setResp_pending (s : State) (r : HostResp) : (setResp s r).pending = s.pending := by unfold setResp; with_reducible rfl

@[simp] theorem aerNonFatal_pending (s : State) : (aerNonFatal s).pending = s.pending := by unfold aerNonFatal; with_reducible rfl

@[simp] theorem bstMod_pending (s : State) (f : Bst → Bst) : (bstMod s f).pending = s.pending := by unfold bstMod; with_reducible rfl

@[simp] theorem bstCmdErr_pending (s : State) : (bstCmdErr s).pending = s.pending := by unfold bstCmdErr; simp

@[simp] theorem bstStartProgram_pending (s : State) (l : List (Nat × Word)) : (bstStartProgram s l).pending = s.pending := by
  unfold bstStartProgram
  (try dsimp only)
  (repeat' split) <;> simp

@[simp] theorem bstFinishProgram_pending (s : State) : (bstFinishProgram s).pending = s.pending := by
  unfold bstFinishProgram
  (try dsimp only)
  (repeat' split) <;> simp

@[simp] theorem bstStartErase_pending (s : State) (l : List (Nat × Word)) : (bstStartErase s l).pending = s.pending := by
  unfold bstStartErase
  (try dsimp only)
  (repeat' split) <;> simp

@[simp] theorem bstScramble_pending (s : State) (off n : Nat) : (bstScramble s off n).pending = s.pending := by unfold bstScramble; simp

@[simp] theorem bstSegment_pending (s : State) (last verifyOk : Bool) : (bstSegment s last verifyOk).pending = s.pending := by simp [bstSegment, apply_ite State.pending]

@[simp] theorem bstDoSuspend_pending (s : State) (l : List (Nat × Word)) : (bstDoSuspend s l).pending = s.pending := by simp [bstDoSuspend, apply_ite State.pending]

@[simp] theorem bstDoResume_pending (s : State) (l : List (Nat × Word)) : (bstDoResume s l).pending = s.pending := by simp [bstDoResume, apply_ite State.pending]

@[simp] theorem bstCutShort_pending (s : State) : (bstCutShort s).pending = s.pending := by
  unfold bstCutShort
  (repeat' split) <;> simp [foldl_pending]

@[simp] theorem bstDoAbort_pending (s : State) (l : List (Nat × Word)) : (bstDoAbort s l).pending = s.pending := by simp [bstDoAbort, apply_ite State.pending]

@[simp] theorem bstNote_pending (s : State) (off cbc : Nat) : (bstNote s off cbc).pending = s.pending := by unfold bstNote; simp

@[simp] theorem bstRead_pending (s : State) (offset errs : Nat) (fetch taken : Bool) : (bstRead s offset errs fetch taken).pending = s.pending := by simp [bstRead, apply_ite State.pending]

@[simp] theorem bstRefresh_pending (s : State) : (bstRefresh s).pending = s.pending := by
  unfold bstRefresh
  (try dsimp only)
  (repeat' split) <;> simp

@[simp] theorem bstClearWarn_pending (s : State) : (bstClearWarn s).pending = s.pending := by unfold bstClearWarn; simp

@[simp] theorem startImage_pending (s : State) : (startImage s).pending = s.pending := by
  unfold startImage
  (try dsimp only)
  (repeat' split) <;> simp

@[simp] theorem updateImage_pending (s : State) (client : BitVec 384) (h : ImageHdr) : (updateImage s client h).pending = s.pending := by
  unfold updateImage
  (try dsimp only)
  (repeat' split) <;> simp

@[simp] theorem raiseSvn_pending (s : State) (client : BitVec 384) : (raiseSvn s client).pending = s.pending := by
  unfold raiseSvn
  (try dsimp only)
  (repeat' split) <;> simp

@[simp] theorem confirmImage_pending (s : State) : (confirmImage s).pending = s.pending := by
  unfold confirmImage
  (try dsimp only)
  (repeat' split) <;> simp

@[simp] theorem putBoot_pending (s : State) (off : Nat) (bs : List Byte) : (putBoot s off bs).pending = s.pending := by unfold putBoot; simp

@[simp] theorem eraseLogSector_pending (s : State) (c : Nat) : (eraseLogSector s c).pending = s.pending := by unfold eraseLogSector; simp

@[simp] theorem appendErase_pending (s : State) (k cycles : Nat) (map : List (Nat × Nat × Nat)) : (appendErase s k cycles map).pending = s.pending := by unfold appendErase; simp

@[simp] theorem commitErase_pending (s : State) (k : Nat) : (commitErase s k).pending = s.pending := by unfold commitErase; simp

@[simp] theorem signalMb_pending (s : State) (mb : Nat) : (signalMb s mb).pending = s.pending := by simp [signalMb, apply_ite State.pending]

@[simp] theorem writeOut_pending (s : State) (mb : Nat) (m : List Word) : (writeOut s mb m).pending = s.pending := by unfold writeOut; simp

@[simp] theorem sendOut_pending (s : State) (mb : Nat) (m : List Word) : (sendOut s mb m).pending = s.pending := by simp [sendOut, apply_ite State.pending]

theorem drainHeldN_pending (n : Nat) (s : State) (mb : Nat) : (drainHeldN n s mb).pending = s.pending := by
  induction n generalizing s with
  | zero => rfl
  | succ n ih => unfold drainHeldN; split <;> (try split) <;> simp [ih]

@[simp] theorem drainHeld_pending (s : State) (mb : Nat) : (drainHeld s mb).pending = s.pending := drainHeldN_pending _ _ _

@[simp] theorem reply_pending (s : State) (mb : Nat) (op seq : Byte) (st : Byte) (payload : List Word) : (reply s mb op seq st payload).pending = s.pending := by unfold reply; simp

@[simp] theorem modQ_pending (s : State) (c q : Nat) (f : QEntry → QEntry) : (modQ s c q f).pending = s.pending := by
  unfold modQ
  (try dsimp only)
  (repeat' split) <;> simp

theorem flushN_pending (n : Nat) (s : State) (c : Nat) : (flushN n s c).pending = s.pending := by
  induction n generalizing s with
  | zero => rfl
  | succ n ih => unfold flushN; (repeat' split) <;> simp [ih]

@[simp] theorem flushOnce_pending (s : State) (c : Nat) : (flushOnce s c).pending = s.pending := flushN_pending _ _ _
@[simp] theorem flushCompletions_pending (s : State) (c : Nat) : (flushCompletions s c).pending = s.pending := by simp [flushCompletions]

@[simp] theorem endCons_pending (s : State) (c q : Nat) (st : Byte) : (endCons s c q st).pending = s.pending := by unfold endCons; simp

@[simp] theorem endAll_pending (s : State) (p : QEntry → Bool) (st : Byte) : (endAll s p st).pending = s.pending := by unfold endAll; simp

@[simp] theorem commitMsg_pending (s : State) (mb : Nat) : (commitMsg s mb).pending = s.pending := by unfold commitMsg; simp

@[simp] theorem refuseMsg_pending (s : State) (mb : Nat) (w : List Word) (st : Byte) : (refuseMsg s mb w st).pending = s.pending := by unfold refuseMsg; simp

@[simp] theorem finishMsg_pending (s : State) (mb : Nat) (w : List Word) (st : Byte) (payload : List Word) : (finishMsg s mb w st payload).pending = s.pending := by unfold finishMsg; simp

@[simp] theorem takeMsg_pending (s : State) (mb : Mb) (op : Nat) (act : State → List Word → State)
    (h : ∀ s w, (act s w).pending = s.pending) : (takeMsg s mb op act).pending = s.pending := by
  unfold takeMsg
  dsimp only
  (repeat' split) <;> simp [h]

@[simp] theorem pushRec_pending (s : State) (mb : Nat) (w : List Word) (r : LongRec) : (pushRec s mb w r).pending = s.pending := by unfold pushRec; simp

@[simp] theorem finishRec_pending (s : State) (mb : Nat) (r : LongRec) (st : Byte) (payload : List Word) : (finishRec s mb r st payload).pending = s.pending := by simp [finishRec, apply_ite State.pending]

@[simp] theorem finishRecs_pending (s : State) (p : LongRec → Bool) (st : Byte) (payload : List Word) : (finishRecs s p st payload).pending = s.pending := by unfold finishRecs; simp

@[simp] theorem dropUnread_pending (s : State) (mb : Nat) : (dropUnread s mb).pending = s.pending := by simp [dropUnread, apply_ite State.pending]

@[simp] theorem performCrst_pending (s : State) (mb : Nat) : (performCrst s mb).pending = s.pending := by unfold performCrst; simp

@[simp] theorem startCrst_pending (s : State) (mb : Nat) : (startCrst s mb).pending = s.pending := by simp [startCrst, apply_ite State.pending]

@[simp] theorem clearGranules_pending (s : State) : (clearGranules s).pending = s.pending := by unfold clearGranules; with_reducible rfl

@[simp] theorem resetConsignors_pending (s : State) : (resetConsignors s).pending = s.pending := by unfold resetConsignors; simp

@[simp] theorem setMbErr_pending (s : State) (mb : Nat) : (setMbErr s mb).pending = s.pending := by unfold setMbErr; simp

@[simp] theorem mapDecks_pending (s : State) (f : Nat → Deck → Deck) : (mapDecks s f).pending = s.pending := by unfold mapDecks; with_reducible rfl

@[simp] theorem stopAllProgramming_pending (s : State) (thermal : Bool) : (stopAllProgramming s thermal).pending = s.pending := by unfold stopAllProgramming; simp

@[simp] theorem closeLatches_pending (s : State) : (closeLatches s).pending = s.pending := by unfold closeLatches; simp

@[simp] theorem assertCold_pending (s : State) (vsbLost thermal : Bool) : (assertCold s vsbLost thermal).pending = s.pending := by unfold assertCold; simp

@[simp] theorem gpioHold_pending (s : State) : (gpioHold s).pending = s.pending := by
  unfold gpioHold
  (try dsimp only)
  (repeat' split) <;> simp

@[simp] theorem gpioConfigure_pending (s : State) : (gpioConfigure s).pending = s.pending := by simp [gpioConfigure, apply_ite State.pending]

@[simp] theorem beginSwitch_pending (s : State) : (beginSwitch s).pending = s.pending := by simp [beginSwitch, apply_ite State.pending]

@[simp] theorem assertPerst_pending (s : State) : (assertPerst s).pending = s.pending := by simp [assertPerst, apply_ite State.pending]

@[simp] theorem assertWarm_pending (s : State) (perst : Bool) : (assertWarm s perst).pending = s.pending := by simp [assertWarm, apply_ite State.pending]

@[simp] theorem beginReset_pending (s : State) (src : Nat) (cold vsbLost thermal : Bool) : (beginReset s src cold vsbLost thermal).pending = s.pending := by simp [beginReset, apply_ite State.pending]

@[simp] theorem abortEntry_pending (s : State) : (abortEntry s).pending = s.pending := by unfold abortEntry; with_reducible rfl

@[simp] theorem retarget_pending (s : State) : (retarget s).pending = s.pending := by unfold retarget; with_reducible rfl

@[simp] theorem wake_pending (s : State) (code port : Nat) : (wake s code port).pending = s.pending := by simp [wake, apply_ite State.pending]

@[simp] theorem leaveHalt_pending (s : State) (code : Nat) : (leaveHalt s code).pending = s.pending := by simp [leaveHalt, apply_ite State.pending]

@[simp] theorem dropItins_pending (s : State) (e : Nat) : (dropItins s e).pending = s.pending := by unfold dropItins; with_reducible rfl

@[simp] theorem dropWsPages_pending (s : State) (e : Nat) : (dropWsPages s e).pending = s.pending := by unfold dropWsPages; with_reducible rfl

@[simp] theorem dropRegions_pending (s : State) (e : Nat) : (dropRegions s e).pending = s.pending := by unfold dropRegions; with_reducible rfl

@[simp] theorem dropTargets_pending (s : State) (e : Nat) : (dropTargets s e).pending = s.pending := by unfold dropTargets; with_reducible rfl

@[simp] theorem dropReservations_pending (s : State) (e : Nat) : (dropReservations s e).pending = s.pending := by unfold dropReservations; simp

@[simp] theorem retireEng_pending (s : State) (e : Nat) : (retireEng s e).pending = s.pending := by simp [retireEng, apply_ite State.pending]

@[simp] theorem retireCircuits_pending (s : State) (e : Nat) : (retireCircuits s e).pending = s.pending := by unfold retireCircuits; simp

@[simp] theorem condemn_pending (s : State) (c q : Nat) (st : Byte) : (condemn s c q st).pending = s.pending := by unfold condemn; simp

@[simp] theorem endCondemned_pending (s : State) (e : Nat) : (endCondemned s e).pending = s.pending := by unfold endCondemned; simp

@[simp] theorem abortCons_pending (s : State) (e : Nat) : (abortCons s e).pending = s.pending := by unfold abortCons; simp

@[simp] theorem nameSwap_pending (s : State) (e : Nat) (x : Nat) : (nameSwap s e x).pending = s.pending := by unfold nameSwap; simp

@[simp] theorem recordFault_pending (s : State) (p : Nat) (cause : Nat) (e : Nat) (leg : BitVec 16) : (recordFault s p cause e leg).pending = s.pending := by unfold recordFault; simp

@[simp] theorem legFault_pending (s : State) (ctx : LegCtx) (cause : Nat) : (legFault s ctx cause).pending = s.pending := by unfold legFault; simp

@[simp] theorem foreignPage_pending (s : State) (ctx : LegCtx) (addr : Nat) (write : Bool) : (foreignPage s ctx addr write).pending = s.pending := by unfold foreignPage; simp

@[simp] theorem putHistories_pending (s : State) (hs : List ((Nat × Nat) × List Byte)) : (putHistories s hs).pending = s.pending := by unfold putHistories; simp

@[simp] theorem clearTrackers_pending (s : State) (e : Nat) : (clearTrackers s e).pending = s.pending := by unfold clearTrackers; simp

@[simp] theorem moveTrackers_pending (s : State) (e : Nat) (old new : Plan) : (moveTrackers s e old new).pending = s.pending := by unfold moveTrackers; simp

@[simp] theorem unmarkTable_pending (s : State) (e : Nat) (r : Region) : (unmarkTable s e r).pending = s.pending := by
  unfold unmarkTable
  (try dsimp only)
  (repeat' split) <;> simp

@[simp] theorem clearTables_pending (s : State) (e : Nat) : (clearTables s e).pending = s.pending := by unfold clearTables; simp

@[simp] theorem tidyTakeover_pending (s : State) : (tidyTakeover s).pending = s.pending := by unfold tidyTakeover; with_reducible rfl

@[simp] theorem saveCoreMap_pending (s : State) : (saveCoreMap s).pending = s.pending := by unfold saveCoreMap; simp

@[simp] theorem sendCtrl_pending (s : State) (p n : Nat) (w : BitVec 64) : (sendCtrl s p n w).pending = s.pending := by unfold sendCtrl; simp

@[simp] theorem placeInTree_pending (s : State) (ns : List Node) : (placeInTree s ns).pending = s.pending := by unfold placeInTree; simp

@[simp] theorem recomputeTree_pending (s : State) : (recomputeTree s).pending = s.pending := by simp [recomputeTree, apply_ite State.pending]

@[simp] theorem cutWaybills_pending (s : State) (d p : Nat) : (cutWaybills s d p).pending = s.pending := by unfold cutWaybills; simp

@[simp] theorem noteOvf_pending (s : State) (n j : Nat) (ovf : Bool) : (noteOvf s n j ovf).pending = s.pending := by
  unfold noteOvf
  (try dsimp only)
  (repeat' split) <;> simp

@[simp] theorem packRun_pending (put : State → Nat → Nat → List MByte → State) (e n : Nat) (r : Region) (tab : List Nat) (s : State)
    (blk : Nat) (blocks : List (List MByte)) (h : ∀ s a b l, (put s a b l).pending = s.pending) :
    (packRun put e n r tab s blk blocks).pending = s.pending := by
  unfold packRun
  simp [h]

@[simp] theorem writeTable_pending (put : State → Nat → Nat → List MByte → State) (e n : Nat) (r : Region) (data : List MByte) (s : State)
    (h : ∀ s a b l, (put s a b l).pending = s.pending) : (writeTable put e n r data s).pending = s.pending := by
  unfold writeTable
  simp [h]

@[simp] theorem countExpanded_pending (s : State) (p : Nat) (xs : List Expanded) : (countExpanded s p xs).pending = s.pending := by unfold countExpanded; simp

@[simp] theorem writeTarget_pending (s : State) (r : TargetRef) (weight : Nat → Nat → Int) (out : Nat → Byte × Int) : (writeTarget s r weight out).pending = s.pending := by unfold writeTarget; simp

@[simp] theorem bucketAdd_pending (s : State) (st n : Nat) : (bucketAdd s st n).pending = s.pending := by simp [bucketAdd, apply_ite State.pending]

@[simp] theorem countCorrected_pending (s : State) (st : Nat) : (countCorrected s st).pending = s.pending := by unfold countCorrected; simp

@[simp] theorem markGroup_pending (s : State) (st g : Nat) : (markGroup s st g).pending = s.pending := by simp [markGroup, apply_ite State.pending]

@[simp] theorem noteGroup_pending (s : State) (st : Nat) (g : Nat) : (noteGroup s st g).pending = s.pending := by simp [noteGroup, apply_ite State.pending]

@[simp] theorem poisonTarget_pending (s : State) (pa : Nat) : (poisonTarget s pa).pending = s.pending := by
  unfold poisonTarget
  refine forEach_pending _ _ _ (fun _ _ => ?_)
  (try dsimp only)
  (repeat' split) <;> (first | with_reducible rfl | (simp [apply_ite State.pending]; done) | (simp_all [apply_ite State.pending]; done))

@[simp] theorem noteUe_pending (s : State) (pa kind : Nat) : (noteUe s pa kind).pending = s.pending := by unfold noteUe; simp

@[simp] theorem readCw_pending (s : State) (pa kind : Nat) (err : CwErr) (inj : Bool) : (readCw s pa kind err inj).1.pending = s.pending := by
  unfold readCw
  (try dsimp only)
  (repeat' split) <;> simp

@[simp] theorem drainWrite_pending (s : State) (err : CwErr) : (drainWrite s err).pending = s.pending := by
  unfold drainWrite
  (try dsimp only)
  (repeat' split) <;> simp

@[simp] theorem patrolStep_pending (s : State) (st : Nat) : (patrolStep s st).pending = s.pending := by unfold patrolStep; simp

@[simp] theorem patrol_pending (s : State) (st : Nat) (err : CwErr) (copies : BitVec 3) : (patrol s st err copies).pending = s.pending := by simp [patrol, apply_ite State.pending]

@[simp] theorem leak_pending (s : State) (st : Nat) : (leak s st).pending = s.pending := by simp [leak, apply_ite State.pending]

@[simp] theorem bringup_pending (s : State) (fail0 fail1 : Bool) : (bringup s fail0 fail1).pending = s.pending := by simp [bringup, apply_ite State.pending]

@[simp] theorem readCws_pending (s : State) (e : Nat) (cws : List Nat) (errs : List (Nat × CwErr)) : (readCws s e cws errs).pending = s.pending := by
  unfold readCws
  refine forEach_pending _ _ _ (fun _ _ => ?_)
  (try dsimp only)
  (repeat' split) <;> (first | with_reducible rfl | (simp [apply_ite State.pending]; done) | (simp_all [apply_ite State.pending]; done))

@[simp] theorem landMove_pending (s : State) (p : Nat) (d : PorterDesc) (lo : Nat) (bs : List MByte) : (landMove s p d lo bs).pending = s.pending := by
  unfold landMove
  exact forEach_pending _ _ _ fun _ _ => wsWrite_pending _ _ _ _

theorem landMove_same_pending (s : State) (p : Nat) (d : PorterDesc) (lo : Nat) (bs : List MByte) : Same_pending s (landMove s p d lo bs) :=
  landMove_pending s p d lo bs

@[simp] theorem landPacked_pending (s : State) (p e : Nat) (d : PorterDesc) (r : Region) (lo hi : Nat) : (landPacked s p e d r lo hi).pending = s.pending := by
  show Same_pending s (landPacked s p e d r lo hi)
  unfold landPacked
  dsimp only
  have hs : ∀ (s : State) (l : List Nat) (f : Nat → Nat) (g : State → Nat → List MByte), Same_pending s (forEach l s fun s i => landMove s p d (f i) (g s i)) :=
    fun s l f g => forEach_same_pending _ _ _ fun s i => landMove_same_pending _ _ _ _ _
  split
  · exact (hs _ _ _ _).trans (hs _ _ _ _)
  · exact ((hs _ _ _ _).trans (hs _ _ _ _)).trans (forEach_same_pending _ _ _ fun s t => wsWrite_same_pending _ _ _ _)

@[simp] theorem landStrips_pending (s : State) (p e : Nat) (d : PorterDesc) : (landStrips s p e d).pending = s.pending := by
  show Same_pending s (landStrips s p e d)
  unfold landStrips
  split
  · exact forEach_same_pending _ _ _ fun s j => wsWrite_same_pending _ _ _ _
  · exact Eq.refl s.pending

@[simp] theorem landFetched_pending (s : State) (p : Nat) (r : PendRead) (n : Nat) (errs : List (Nat × CwErr)) : (landFetched s p r n errs).pending = s.pending := by
  unfold landFetched
  (try dsimp only)
  (repeat' split) <;> simp

@[simp] theorem modRead_pending (s : State) (p id : Nat) (f : PendRead → PendRead) : (modRead s p id f).pending = s.pending := by unfold modRead; simp

@[simp] theorem dropRead_pending (s : State) (p id : Nat) : (dropRead s p id).pending = s.pending := by unfold dropRead; simp

@[simp] theorem landArrival_pending (s : State) (p id n : Nat) (errs : List (Nat × CwErr)) : (landArrival s p id n errs).pending = s.pending := by
  unfold landArrival
  (try dsimp only)
  (repeat' split) <;> simp

@[simp] theorem takeBanks_pending (s : State) (p : Nat) (us : List BankUse) : (takeBanks s p us).pending = s.pending := by unfold takeBanks; simp

@[simp] theorem launch_pending (s : State) (ctx : LegCtx) (due : Nat) (w : Land) : (launch s ctx due w).pending = s.pending := by unfold launch; with_reducible rfl

@[simp] theorem follow_pending (s : State) (f : Flight) (due : Nat) (w : Land) : (follow s f due w).pending = s.pending := by unfold follow; with_reducible rfl

@[simp] theorem flightCons_pending (s : State) (f : Flight) (g : QEntry → QEntry) : (flightCons s f g).pending = s.pending := by
  unfold flightCons
  (try dsimp only)
  (repeat' split) <;> simp

@[simp] theorem flightFault_pending (s : State) (f : Flight) (cause : Nat) : (flightFault s f cause).pending = s.pending := by unfold flightFault; simp

@[simp] theorem beginTile_pending (f : Flight) (l : StrikeLeg) (b : Nat) (a : State × List TileOuts) (x : Nat × Nat × Bundle) :
    (beginTile f l b a x).1.pending = a.1.pending := by
  unfold beginTile
  dsimp only
  (repeat' split) <;> simp

@[simp] theorem beginStrike_pending (s : State) (f : Flight) (l : StrikeLeg) (tiles : List (Nat × Nat × Bundle)) :
    (beginStrike s f l tiles).pending = s.pending := by
  have h := foldl_fst_pending tiles (s, ([] : List TileOuts)) (beginTile f l (f.due / 8)) (beginTile_pending f l (f.due / 8))
  unfold beginStrike
  dsimp only
  split <;> simp [h]

@[simp] theorem convOuts_pending (s : State) (p : Nat) (f : BitVec 4) (outs : List PVal) : (convOuts s p f outs).1.pending = s.pending := by unfold convOuts; simp

@[simp] theorem takeBus_pending (s : State) (p string b : Nat) : (takeBus s p string b).pending = s.pending := by unfold takeBus; simp

@[simp] theorem landOutputs_pending (s : State) (f : Flight) (l : StrikeLeg) (rs : List TileOuts) : (landOutputs s f l rs).pending = s.pending := by simp [landOutputs, apply_ite State.pending]

@[simp] theorem landReduced_pending (s : State) (f : Flight) (l : ReduceLeg) (string : Nat) (outs : List PVal) : (landReduced s f l string outs).pending = s.pending := by simp [landReduced, apply_ite State.pending]

@[simp] theorem landBytes_pending (from_ : Nat) (s : State) (w : Nat × Nat × List MByte) : (landBytes from_ s w).pending = s.pending := by simp [landBytes, apply_ite State.pending]

@[simp] theorem landResult_pending (s : State) (f : Flight) (ws : List (Nat × Nat × List MByte)) (k : Tally) (qs : Quants) : (landResult s f ws k qs).pending = s.pending := by unfold landResult; simp

@[simp] theorem landTile_pending (s : State) (f : Flight) (d : MatrixDesc) (t : Nat) : (landTile s f d t).pending = s.pending := by simp [landTile, apply_ite State.pending]

@[simp] theorem landBlock_pending (s : State) (f : Flight) (d : AttnDesc) (cyc j : Nat) (run : AttnRun) : (landBlock s f d cyc j run).pending = s.pending := by
  unfold landBlock
  (try dsimp only)
  (repeat' split) <;> simp

@[simp] theorem tableBuilt_pending (s : State) (n : Nat) : (tableBuilt s n).pending = s.pending := by
  unfold tableBuilt
  (try dsimp only)
  (repeat' split) <;> simp

@[simp] theorem landPost_pending (s : State) (f : Flight) (w : PostRec) : (landPost s f w).pending = s.pending := by
  unfold landPost
  (try dsimp only)
  (repeat' split) <;> simp

@[simp] theorem clearUnits_pending (s : State) (phys addr n : Nat) : (clearUnits s phys addr n).pending = s.pending := by unfold clearUnits; simp

@[simp] theorem landLinkSlot_pending (s : State) (f : Flight) (addr n off : Nat) (bs : List MByte) : (landLinkSlot s f addr n off bs).pending = s.pending := by simp [landLinkSlot, apply_ite State.pending]

@[simp] theorem sendSlot_pending (s : State) (p : Nat) (bs : List MByte) : (sendSlot s p bs).pending = s.pending := by simp [sendSlot, apply_ite State.pending]

@[simp] theorem landOne_pending (s : State) (f : Flight) : (landOne s f).pending = s.pending := by
  unfold landOne
  (try dsimp only)
  (repeat' split) <;> simp

theorem landFuel_pending (n cc : Nat) (s : State) : (landFuel n cc s).pending = s.pending := by
  induction n generalizing s with
  | zero => rfl
  | succ n ih => unfold landFuel; split <;> simp [ih]

@[simp] theorem landDue_pending (s : State) (cc : Nat) : (landDue s cc).pending = s.pending := landFuel_pending _ _ _

@[simp] theorem dropFlights_pending (s : State) (p : Nat) : (dropFlights s p).pending = s.pending := by unfold dropFlights; simp

@[simp] theorem setBeat_pending (s : State) (b : Beat) : (setBeat s b).pending = s.pending := by simp [setBeat, apply_ite State.pending]

@[simp] theorem tickBeat_pending (s : State) : (tickBeat s).pending = s.pending := by simp [tickBeat, apply_ite State.pending]

@[simp] theorem advanceTo_pending (s : State) (b : Nat) : (advanceTo s b).pending = s.pending := by simp [advanceTo, apply_ite State.pending]

@[simp] theorem almMod_pending (s : State) (f : Alm → Alm) : (almMod s f).pending = s.pending := by unfold almMod; with_reducible rfl

@[simp] theorem pllLocks_pending (s : State) : (pllLocks s).pending = s.pending := by simp [pllLocks, apply_ite State.pending]

@[simp] theorem rekeyPort_pending (s : State) (p : Nat) : (rekeyPort s p).pending = s.pending := by unfold rekeyPort; simp

@[simp] theorem endReplacing_pending (s : State) (e : Nat) : (endReplacing s e).pending = s.pending := by simp [endReplacing, apply_ite State.pending]

@[simp] theorem rekeyPorts_pending (s : State) : (rekeyPorts s).pending = s.pending := by simp [rekeyPorts, apply_ite State.pending]

@[simp] theorem endPortEpochs_pending (s : State) : (endPortEpochs s).pending = s.pending := by unfold endPortEpochs; simp

@[simp] theorem endReplacings_pending (s : State) : (endReplacings s).pending = s.pending := by unfold endReplacings; simp

@[simp] theorem countEpoch_pending (s : State) : (countEpoch s).pending = s.pending := by unfold countEpoch; with_reducible rfl

@[simp] theorem epochBoundary_pending (s : State) : (epochBoundary s).pending = s.pending := by simp [epochBoundary, apply_ite State.pending]

@[simp] theorem alignSend_pending (s : State) : (alignSend s).pending = s.pending := by simp [alignSend, apply_ite State.pending]

@[simp] theorem leaveAlignment_pending (s : State) : (leaveAlignment s).pending = s.pending := by simp [leaveAlignment, apply_ite State.pending]

@[simp] theorem loseCirc_pending (e : Nat) (s : State) (c : Circ) : (loseCirc e s c).pending = s.pending := by simp [loseCirc, apply_ite State.pending]

@[simp] theorem moveEng_pending (d : Int) (b : Nat) (s : State) (e : Nat) : (moveEng d b s e).pending = s.pending := by simp [moveEng, apply_ite State.pending]

@[simp] theorem realign_pending (s : State) (b : Nat) : (realign s b).pending = s.pending := by unfold realign; simp

@[simp] theorem alignWord_pending (s : State) (port : Nat) (body : Nat) : (alignWord s port body).pending = s.pending := by simp [alignWord, apply_ite State.pending]

@[simp] theorem epochInEdge_pending (s : State) (edge : Nat) : (epochInEdge s edge).pending = s.pending := by simp [epochInEdge, apply_ite State.pending]

@[simp] theorem referenceLost_pending (s : State) (fallbackValid : Bool) : (referenceLost s fallbackValid).pending = s.pending := by simp [referenceLost, apply_ite State.pending]

@[simp] theorem relockRef_pending (s : State) : (relockRef s).pending = s.pending := by simp [relockRef, apply_ite State.pending]

@[simp] theorem holdoverTimeout_pending (s : State) : (holdoverTimeout s).pending = s.pending := by simp [holdoverTimeout, apply_ite State.pending]

@[simp] theorem hello_pending (s : State) (mb : Mb) : (hello s mb).pending = s.pending := by unfold hello; simp

@[simp] theorem stopEngProgramming_pending (s : State) (e : Nat) : (stopEngProgramming s e).pending = s.pending := by unfold stopEngProgramming; simp

@[simp] theorem abortWaybill_pending (s : State) (e : Nat) : (abortWaybill s e).pending = s.pending := by
  unfold abortWaybill
  (try dsimp only)
  (repeat' split) <;> simp

@[simp] theorem tidyPlacing_pending (s : State) : (tidyPlacing s).pending = s.pending := by unfold tidyPlacing; with_reducible rfl

@[simp] theorem abortAdmit_pending (s : State) (e : Nat) : (abortAdmit s e).pending = s.pending := by unfold abortAdmit; simp

@[simp] theorem finishRelease_pending (s : State) (e : Nat) : (finishRelease s e).pending = s.pending := by unfold finishRelease; simp

@[simp] theorem release_pending (s : State) (mb : Mb) : (release s mb).pending = s.pending := by simp [release, apply_ite State.pending]

@[simp] theorem resetEngagement_pending (s : State) (mb : Mb) : (resetEngagement s mb).pending = s.pending := by unfold resetEngagement; simp

@[simp] theorem verifyDecks_pending (s : State) (mb : Mb) : (verifyDecks s mb).pending = s.pending := by simp [verifyDecks, apply_ite State.pending]

@[simp] theorem markDecks_pending (s : State) (ks : List Nat) : (markDecks s ks).pending = s.pending := by unfold markDecks; simp

@[simp] theorem sealDecks_pending (s : State) (mb : Mb) : (sealDecks s mb).pending = s.pending := by simp [sealDecks, apply_ite State.pending]

@[simp] theorem unsealDecks_pending (s : State) (mb : Mb) : (unsealDecks s mb).pending = s.pending := by simp [unsealDecks, apply_ite State.pending]

@[simp] theorem queueErase_pending (s : State) (k : Nat) : (queueErase s k).pending = s.pending := by unfold queueErase; simp

@[simp] theorem eraseDecks_pending (s : State) (mb : Mb) : (eraseDecks s mb).pending = s.pending := by simp [eraseDecks, apply_ite State.pending]

@[simp] theorem submit_pending (s : State) (mb : Mb) : (submit s mb).pending = s.pending := by
  unfold submit
  refine takeMsg_pending _ _ _ _ (fun _ _ => ?_)
  (try dsimp only)
  (repeat' split) <;> (first | with_reducible rfl | (simp [apply_ite State.pending]; done) | (simp_all [apply_ite State.pending]; done))

@[simp] theorem cancel_pending (s : State) (mb : Mb) : (cancel s mb).pending = s.pending := by
  unfold cancel
  refine takeMsg_pending _ _ _ _ (fun _ _ => ?_)
  (try dsimp only)
  (repeat' split) <;> (first | with_reducible rfl | (simp [apply_ite State.pending]; done) | (simp_all [apply_ite State.pending]; done))

@[simp] theorem queryHealth_pending (s : State) (mb : Mb) : (queryHealth s mb).pending = s.pending := by unfold queryHealth; simp

@[simp] theorem fenceCore_pending (s : State) (mb : Mb) : (fenceCore s mb).pending = s.pending := by simp [fenceCore, apply_ite State.pending]

@[simp] theorem openDecks_pending (s : State) (ks : List Nat) : (openDecks s ks).pending = s.pending := by simp [openDecks, apply_ite State.pending]

@[simp] theorem powerHint_pending (s : State) (mb : Mb) : (powerHint s mb).pending = s.pending := by simp [powerHint, apply_ite State.pending]

@[simp] theorem debugConsent_pending (s : State) (mb : Mb) : (debugConsent s mb).pending = s.pending := by simp [debugConsent, apply_ite State.pending]

@[simp] theorem undefinedMsg_pending (s : State) (mb : Mb) : (undefinedMsg s mb).pending = s.pending := by simp [undefinedMsg, apply_ite State.pending]

@[simp] theorem takeToken_pending (s : State) (e : Nat) (c : Circ) : (takeToken s e c).pending = s.pending := by simp [takeToken, apply_ite State.pending]

@[simp] theorem sendWord_pending (s : State) (e : Nat) (c : Circ) (from_ : Option Nat) : (sendWord s e c from_).pending = s.pending := by simp [sendWord, apply_ite State.pending]

@[simp] theorem commitCircuit_pending (s : State) (e k : Nat) : (commitCircuit s e k).pending = s.pending := by simp [commitCircuit, apply_ite State.pending]

@[simp] theorem condemnCirc_pending (s : State) (e : Nat) (c : Circ) (st : Byte) : (condemnCirc s e c st).pending = s.pending := by simp [condemnCirc, apply_ite State.pending]

@[simp] theorem runCircuit_pending (s : State) (p e : Nat) (c : Circ) : (runCircuit s p e c).pending = s.pending := by unfold runCircuit; simp

@[simp] theorem circuitStarts_pending (s : State) (core e k : Nat) (word : Option (BitVec 64)) : (circuitStarts s core e k word).pending = s.pending := by
  unfold circuitStarts
  (try dsimp only)
  (repeat' split) <;> simp

@[simp] theorem atCycle_pending (s : State) (cyc : Nat) : (atCycle s cyc).pending = s.pending := by unfold atCycle; simp

@[simp] theorem atLeg_pending (s : State) (ctx : LegCtx) (cyc : Nat) : (atLeg s ctx cyc).pending = s.pending := by unfold atLeg; simp

@[simp] theorem onLeg_pending (s : State) (ctx : LegCtx) (b : LegBody) (act : State → Nat → State) (h : ∀ s n, (act s n).pending = s.pending) :
    (onLeg s ctx b act).pending = s.pending := by
  unfold onLeg
  (repeat' split) <;> simp [h]

@[simp] theorem modCons_pending (s : State) (ctx : LegCtx) (f : QEntry → QEntry) : (modCons s ctx f).pending = s.pending := by
  unfold modCons
  (try dsimp only)
  (repeat' split) <;> simp

@[simp] theorem consPoison_pending (s : State) (ctx : LegCtx) : (consPoison s ctx).pending = s.pending := by unfold consPoison; simp

@[simp] theorem loadStandby_pending (s : State) (e : Fin 64) (pl : Plan) : (loadStandby s e pl).pending = s.pending := by unfold loadStandby; simp

@[simp] theorem swapCore_pending (e : Nat) (s : State) (p : Nat) : (swapCore e s p).pending = s.pending := by
  unfold swapCore
  (try dsimp only)
  (repeat' split) <;> simp

@[simp] theorem recomputePend_pending (s : State) : (recomputePend s).pending = s.pending := by unfold recomputePend; with_reducible rfl

@[simp] theorem takePages_pending (s : State) (e : Nat) (pl : Plan) : (takePages s e pl).pending = s.pending := by unfold takePages; simp

@[simp] theorem carryTrackers_pending (s : State) (e : Nat) (p : Plan) : (carryTrackers s e p).pending = s.pending := by
  unfold carryTrackers
  (try dsimp only)
  (repeat' split) <;> simp

@[simp] theorem takePlan_pending (s0 : State) (e : Nat) : (takePlan s0 e).pending = s0.pending := by
  unfold takePlan
  (try dsimp only)
  (repeat' split) <;> simp

@[simp] theorem takeState_pending (s : State) (e : Nat) : (takeState s e).pending = s.pending := by
  unfold takeState
  (try dsimp only)
  (repeat' split) <;> simp

@[simp] theorem finishUnfence_pending (s : State) : (finishUnfence s).pending = s.pending := by unfold finishUnfence; simp

@[simp] theorem swapBanks_pending (s : State) (e : Nat) : (swapBanks s e).pending = s.pending := by
  unfold swapBanks
  (try dsimp only)
  (repeat' split) <;> simp

@[simp] theorem watchdog_pending (s : State) (core : Nat) (e : Nat) (leg : BitVec 16) : (watchdog s core e leg).pending = s.pending := by simp [watchdog, apply_ite State.pending]

@[simp] theorem holdNotice_pending (s : State) (from_ : Option (Fin 8)) (body : Nat) : (holdNotice s from_ body).pending = s.pending := by simp [holdNotice, apply_ite State.pending]

@[simp] theorem holdReads_pending (s : State) (e : Nat) : (holdReads s e).pending = s.pending := rfl
@[simp] theorem holdCore_pending (s : State) (e h p : Nat) : (holdCore s e h p).pending = s.pending := by unfold holdCore; simp

@[simp] theorem startHold_pending (s : State) (e : Nat) : (startHold s e).pending = s.pending := by
  unfold startHold
  split
  · rfl
  · dsimp only
    split
    · simp
    · simp [apply_ite State.pending]

@[simp] theorem hostTouch_pending (s : State) : (hostTouch s).pending = s.pending := by simp [hostTouch, apply_ite State.pending]

@[simp] theorem ideAbort_pending (s : State) (addr : Nat) (src : Nat) (write : Bool) (req : BitVec 16) (cid : Nat) : (ideAbort s addr src write req cid).pending = s.pending := by unfold ideAbort; simp

@[simp] theorem pageViolation_pending (s : State) (via : PageAccess) (page : Mb) (off : Nat) : (pageViolation s via page off).pending = s.pending := by unfold pageViolation; simp

@[simp] theorem pageWrite_pending (s : State) (via : PageAccess) (page : Mb) (off : Nat) (act : State → State)
    (h : ∀ s, (act s).pending = s.pending) : (pageWrite s via page off act).pending = s.pending := by
  unfold pageWrite
  dsimp only
  (repeat' split) <;> simp [h]

@[simp] theorem mbxInDb_pending (s : State) (via : PageAccess) (page : Mb) (value : Word) : (mbxInDb s via page value).pending = s.pending := by simp [mbxInDb, apply_ite State.pending]

@[simp] theorem mbxOutAck_pending (s : State) (via : PageAccess) (page : Mb) (value : Word) : (mbxOutAck s via page value).pending = s.pending := by unfold mbxOutAck; simp

@[simp] theorem ringWrite_pending (s : State) (via : PageAccess) (page : Mb) (outbound : Bool) (slot : Fin 64) (word : Fin 16) (value : Word) : (ringWrite s via page outbound slot word value).pending = s.pending := by
  simp [ringWrite, apply_ite State.pending]

@[simp] theorem mbxCrst_pending (s : State) (via : PageAccess) (page : Mb) : (mbxCrst s via page).pending = s.pending := by unfold mbxCrst; simp

@[simp] theorem mbxClrErr_pending (s : State) (via : PageAccess) (page : Mb) : (mbxClrErr s via page).pending = s.pending := by unfold mbxClrErr; simp

@[simp] theorem handOver_pending (s : State) (k : Nat) : (handOver s k).pending = s.pending := by simp [handOver, apply_ite State.pending]

@[simp] theorem mbxGranReq_pending (s : State) (via : PageAccess) (page : Mb) (value : Word) : (mbxGranReq s via page value).pending = s.pending := by simp [mbxGranReq, apply_ite State.pending]

@[simp] theorem mbxGranWrite_pending (s : State) (k : Nat) (value : Word) : (mbxGranWrite s k value).pending = s.pending := by
  unfold mbxGranWrite
  (try dsimp only)
  (repeat' split) <;> simp

@[simp] theorem coalesceExpiry_pending (s : State) (page : Mb) : (coalesceExpiry s page).pending = s.pending := by simp [coalesceExpiry, apply_ite State.pending]

@[simp] theorem bar4Violation_pending (s : State) (addr : Nat) (write : Bool) (req : BitVec 16) : (bar4Violation s addr write req).pending = s.pending := by unfold bar4Violation; simp

@[simp] theorem bar4Read_pending (s : State) (addr : Word) (len : Nat) (ide : Bool) (req : BitVec 16) : (bar4Read s addr len ide req).pending = s.pending := by simp [bar4Read, apply_ite State.pending]

@[simp] theorem bar4Write_pending (s : State) (addr : Word) (data : List Byte) (ide poisoned : Bool) (req : BitVec 16) : (bar4Write s addr data ide poisoned req).pending = s.pending := by
  simp [bar4Write, apply_ite State.pending]

@[simp] theorem unprivileged_pending (s : State) (offset : BitVec 26) (write : Bool) (req : BitVec 16) : (unprivileged s offset write req).pending = s.pending := by simp [unprivileged, apply_ite State.pending]

@[simp] theorem configAccess_pending (s : State) (power : Option Bool) : (configAccess s power).pending = s.pending := by
  unfold configAccess
  (try dsimp only)
  (repeat' split) <;> simp

@[simp] theorem flr_pending (s : State) : (flr s).pending = s.pending := by unfold flr; simp

@[simp] theorem hotReset_pending (s : State) : (hotReset s).pending = s.pending := by unfold hotReset; simp

@[simp] theorem fatalError_pending (s : State) : (fatalError s).pending = s.pending := by unfold fatalError; simp

@[simp] theorem tdiError_pending (s : State) : (tdiError s).pending = s.pending := by unfold tdiError; simp

@[simp] theorem ideFailure_pending (s : State) : (ideFailure s).pending = s.pending := by unfold ideFailure; simp

@[simp] theorem writeAlmCfg_pending (s : State) (v : Word) : (writeAlmCfg s v).pending = s.pending := by simp [writeAlmCfg, apply_ite State.pending]

@[simp] theorem writeHzlRoute_pending (s : State) (v : Word) : (writeHzlRoute s v).pending = s.pending := by simp [writeHzlRoute, apply_ite State.pending]

@[simp] theorem writeCalCfg_pending (s : State) (v : Word) : (writeCalCfg s v).pending = s.pending := by simp [writeCalCfg, apply_ite State.pending]

@[simp] theorem writeLdgCfg_pending (s : State) (v : Word) : (writeLdgCfg s v).pending = s.pending := by simp [writeLdgCfg, apply_ite State.pending]

@[simp] theorem writeEccCfg_pending (s : State) (v : Word) : (writeEccCfg s v).pending = s.pending := by simp [writeEccCfg, apply_ite State.pending]

@[simp] theorem writeRstCfg_pending (s : State) (v : Word) : (writeRstCfg s v).pending = s.pending := by simp [writeRstCfg, apply_ite State.pending]

@[simp] theorem writeTolCfg_pending (s : State) (v : Word) : (writeTolCfg s v).pending = s.pending := by simp [writeTolCfg, apply_ite State.pending]

@[simp] theorem writeLockable_pending (s : State) (r : LockReg) (v : Word) : (writeLockable s r v).pending = s.pending := by
  unfold writeLockable
  (try dsimp only)
  (repeat' split) <;> simp

@[simp] theorem setLock_pending (s : State) (r : LockReg) : (setLock s r).pending = s.pending := by
  unfold setLock
  (try dsimp only)
  (repeat' split) <;> simp

@[simp] theorem lockWrite_pending (s : State) (r : LockReg) (v : Word) : (lockWrite s r v).pending = s.pending := by simp [lockWrite, apply_ite State.pending]

@[simp] theorem lockSet_pending (s : State) (r : LockReg) (v : Word) : (lockSet s r v).pending = s.pending := by simp [lockSet, apply_ite State.pending]

@[simp] theorem writeBktCfg_pending (s : State) (i : Nat) (v : Word) : (writeBktCfg s i v).pending = s.pending := by unfold writeBktCfg; simp

@[simp] theorem removeViolation_pending (s : State) : (removeViolation s).pending = s.pending := by
  unfold removeViolation
  (try dsimp only)
  (repeat' split) <;> simp

@[simp] theorem removeUe_pending (s : State) : (removeUe s).pending = s.pending := by
  unfold removeUe
  (try dsimp only)
  (repeat' split) <;> simp

@[simp] theorem clearBucket_pending (s : State) (i : Nat) : (clearBucket s i).pending = s.pending := by unfold clearBucket; simp

@[simp] theorem writeInj_pending (s : State) (v : Word) : (writeInj s v).pending = s.pending := by simp [writeInj, apply_ite State.pending]

@[simp] theorem writeEvict_pending (s : State) (v : Word) : (writeEvict s v).pending = s.pending := by simp [writeEvict, apply_ite State.pending]

@[simp] theorem writeRstCtl_pending (s : State) (v : Word) : (writeRstCtl s v).pending = s.pending := by simp [writeRstCtl, apply_ite State.pending]

@[simp] theorem clearCore_pending (s : State) (c : Nat) (f : Core → Core) : (clearCore s c f).pending = s.pending := by simp [clearCore, apply_ite State.pending]

@[simp] theorem clearTile_pending (s : State) (t : TileAddr) (f : Tile → Tile) : (clearTile s t f).pending = s.pending := by simp [clearTile, apply_ite State.pending]

@[simp] theorem writeCoreReg_pending (s : State) (c off : Nat) (v : Word) : (writeCoreReg s c off v).pending = s.pending := by unfold writeCoreReg; simp

@[simp] theorem clearDrvFault_pending (s : State) (c : Nat) : (clearDrvFault s c).pending = s.pending := by unfold clearDrvFault; simp

@[simp] theorem writeTileReg_pending (s : State) (t off : Nat) (v : Word) : (writeTileReg s t off v).pending = s.pending := by simp [writeTileReg, apply_ite State.pending]

@[simp] theorem writeMbxCtl_pending (s : State) (page : Mb) (v : Word) : (writeMbxCtl s page v).pending = s.pending := by simp [writeMbxCtl, apply_ite State.pending]

@[simp] theorem writePageReg_pending (s : State) (page : Mb) (off : Nat) (v : Word) : (writePageReg s page off v).pending = s.pending := by simp [writePageReg, apply_ite State.pending]

@[simp] theorem writeDeviceReg_pending (s : State) (off : Nat) (v : Word) : (writeDeviceReg s off v).pending = s.pending := by
  unfold writeDeviceReg
  (try dsimp only)
  (repeat' split) <;> simp

@[simp] theorem clearPort_pending (s : State) (i : Nat) (v : Word) : (clearPort s i v).pending = s.pending := by unfold clearPort; simp

@[simp] theorem regWrite_pending (s : State) (off : Nat) (v : Word) : (regWrite s off v).pending = s.pending := by simp [regWrite, apply_ite State.pending]

@[simp] theorem barWrite_pending (s : State) (offset : BitVec 26) (v : Word) (be : BitVec 4) : (barWrite s offset v be).pending = s.pending := by simp [barWrite, apply_ite State.pending]

@[simp] theorem hostWrite_pending (s : State) (act : State → State) (h : ∀ s, (act s).pending = s.pending) : (hostWrite s act).pending = s.pending := by
  unfold hostWrite
  split <;> simp [h]

@[simp] theorem beatLoRead_pending (s : State) : (beatLoRead s).pending = s.pending := by unfold beatLoRead; simp

@[simp] theorem smcMod_pending (s : State) (f : Smc → Smc) : (smcMod s f).pending = s.pending := by unfold smcMod; with_reducible rfl

@[simp] theorem smbusNack_pending (s : State) (cmd : Byte) (write : Bool) : (smbusNack s cmd write).pending = s.pending := by unfold smbusNack; simp

@[simp] theorem smbusRead_pending (s : State) (address : BitVec 7) (cmd : Byte) (write pecOk : Bool) : (smbusRead s address cmd write pecOk).pending = s.pending := by
  unfold smbusRead
  (try dsimp only)
  (repeat' split) <;> simp

@[simp] theorem smbusMctp_pending (s : State) (address : BitVec 7) (eid : Option Byte) (pecOk : Bool) : (smbusMctp s address eid pecOk).pending = s.pending := by simp [smbusMctp, apply_ite State.pending]

@[simp] theorem smbusWake_pending (s : State) (address : BitVec 7) : (smbusWake s address).pending = s.pending := by simp [smbusWake, apply_ite State.pending]

@[simp] theorem smbusReady_pending (s : State) : (smbusReady s).pending = s.pending := by simp [smbusReady, apply_ite State.pending]

@[simp] theorem takeStrike_pending (ctx : LegCtx) (l : StrikeLeg) (a : State × List (Nat × Nat × Bundle)) (t : Nat) :
    (takeStrike ctx l a t).1.pending = a.1.pending := by
  unfold takeStrike
  dsimp only
  (repeat' split) <;> simp

@[simp] theorem strikeRun_pending (s : State) (ctx : LegCtx) (l : StrikeLeg) : (strikeRun s ctx l).pending = s.pending := by
  unfold strikeRun
  refine onLeg_pending _ _ _ _ fun s _ => ?_
  have h := foldl_fst_pending (maskTiles l.tmask) (s, ([] : List (Nat × Nat × Bundle))) (takeStrike ctx l) (takeStrike_pending ctx l)
  dsimp only
  (repeat' split) <;> simp [h]

@[simp] theorem selectTile_pending (ctx : LegCtx) (l : SelectLeg) (s : State) (t : Nat) : (selectTile ctx l s t).pending = s.pending := by simp [selectTile, apply_ite State.pending]

@[simp] theorem selectRun_pending (s : State) (ctx : LegCtx) (l : SelectLeg) : (selectRun s ctx l).pending = s.pending := by simp [selectRun, apply_ite State.pending]

@[simp] theorem reduceRun_pending (s : State) (ctx : LegCtx) (l : ReduceLeg) : (reduceRun s ctx l).pending = s.pending := by simp [reduceRun, apply_ite State.pending]

@[simp] theorem scatter_pending (put : State → Nat → List MByte → State) (dst stride len : Nat) (s : State) (bs : List MByte)
    (h : ∀ s a l, (put s a l).pending = s.pending) : (scatter put dst stride len s bs).pending = s.pending := by
  unfold scatter
  exact forEach_pending _ _ _ fun _ _ => h _ _ _

@[simp] theorem launchMove_pending (s : State) (ctx : LegCtx) (q b n : Nat) (d : PorterDesc) (bs : List MByte) (qs : Quants) : (launchMove s ctx q b n d bs qs).pending = s.pending := by unfold launchMove; simp

@[simp] theorem takeChan_pending (s : State) (p : Nat) (chan : Fin 4) (fin : Nat) (use : List BankUse) : (takeChan s p chan fin use).pending = s.pending := by unfold takeChan; simp

@[simp] theorem porterLeg_pending (s : State) (ctx : LegCtx) (l : PorterLeg) (op busy : Nat) (act : State → Nat → Nat → State)
    (h : ∀ s p n, (act s p n).pending = s.pending) : (porterLeg s ctx l op busy act).pending = s.pending := by
  unfold porterLeg
  refine onLeg_pending _ _ _ _ fun _ _ => ?_
  dsimp only
  (repeat' split) <;> simp [h]

@[simp] theorem guarded_pending (s : State) (ctx : LegCtx) (f : Option (Nat × Bool)) (act : State) (h : act.pending = s.pending) :
    (guarded s ctx f act).pending = s.pending := by
  unfold guarded
  split <;> simp [h]

@[simp] theorem multicast_pending (s : State) (ctx : LegCtx) (l : PorterLeg) : (multicast s ctx l).pending = s.pending := by
  unfold multicast
  refine porterLeg_pending _ _ _ _ _ _ (fun _ _ _ => ?_)
  (try dsimp only)
  (repeat' split) <;> (first | with_reducible rfl | (simp [apply_ite State.pending]; done) | (simp_all [apply_ite State.pending]; done))

@[simp] theorem wsCopy_pending (s : State) (ctx : LegCtx) (l : PorterLeg) : (wsCopy s ctx l).pending = s.pending := by unfold wsCopy; simp

@[simp] theorem convoyLeg_pending (s : State) (ctx : LegCtx) (l : ConvoyLeg) (net : Nat) (act : State → Nat → State)
    (h : ∀ s p, (act s p).pending = s.pending) : (convoyLeg s ctx l net act).pending = s.pending := by
  unfold convoyLeg
  refine onLeg_pending _ _ _ _ fun _ _ => ?_
  dsimp only
  (repeat' split) <;> simp [h]

@[simp] theorem roadsRun_pending (s : State) (ctx : LegCtx) (l : ConvoyLeg) : (roadsRun s ctx l).pending = s.pending := by simp [roadsRun, apply_ite State.pending]

@[simp] theorem readRun_pending (s : State) (ctx : LegCtx) (l : PorterLeg) : (readRun s ctx l).pending = s.pending := by
  unfold readRun
  refine porterLeg_pending _ _ _ _ _ _ (fun _ _ _ => ?_)
  (try dsimp only)
  (repeat' split) <;> (first | with_reducible rfl | (simp [apply_ite State.pending]; done) | (simp_all [apply_ite State.pending]; done))


@[simp] theorem dataArrives_pending (s : State) (core index bytes : Nat) (errs : List (Nat × CwErr)) : (dataArrives s core index bytes errs).pending = s.pending := by
  unfold dataArrives
  (try dsimp only)
  (repeat' split) <;> simp

@[simp] theorem poisonRest_pending (s : State) (p : Nat) (r : PendRead) : (poisonRest s p r).pending = s.pending := by unfold poisonRest; simp

@[simp] theorem countLate_pending (s : State) (p : Nat) (r : PendRead) : (countLate s p r).pending = s.pending := by simp [countLate, apply_ite State.pending]

@[simp] theorem lateWeights_pending (s : State) (core p : Nat) (r : PendRead) : (lateWeights s core p r).pending = s.pending := by simp [lateWeights, apply_ite State.pending]

@[simp] theorem sampleDeadline_pending (s0 : State) (core index : Nat) : (sampleDeadline s0 core index).pending = s0.pending := by
  unfold sampleDeadline
  (try dsimp only)
  (repeat' split) <;> simp

@[simp] theorem logProtected_pending (s : State) (req addr : Nat) : (logProtected s req addr).pending = s.pending := by unfold logProtected; simp

@[simp] theorem protectedPage_pending (s : State) (ctx : LegCtx) (addr : Nat) : (protectedPage s ctx addr).pending = s.pending := by unfold protectedPage; simp

@[simp] theorem writeRun_pending (s : State) (ctx : LegCtx) (l : PorterLeg) (replay : Bool) : (writeRun s ctx l replay).pending = s.pending := by
  unfold writeRun
  refine porterLeg_pending _ _ _ _ _ _ (fun _ _ _ => ?_)
  (try dsimp only)
  (repeat' split) <;> (first | with_reducible rfl | (simp [apply_ite State.pending]; done) | (simp_all [apply_ite State.pending]; done))

@[simp] theorem kvRun_pending (s : State) (ctx : LegCtx) (l : PorterLeg) : (kvRun s ctx l).pending = s.pending := by
  unfold kvRun
  refine porterLeg_pending _ _ _ _ _ _ (fun _ _ _ => ?_)
  (try dsimp only)
  (repeat' split) <;> (first | with_reducible rfl | (simp [apply_ite State.pending]; done) | (simp_all [apply_ite State.pending]; done))

@[simp] theorem channelForeign_pending (s : State) (addr : Nat) (write : Bool) : (channelForeign s addr write).pending = s.pending := by unfold channelForeign; simp

@[simp] theorem channelMove_pending (s : State) (e op : Nat) (d : PorterDesc) (rs : List (Nat × Nat × Bool)) (act : State)
    (h : act.pending = s.pending) : (channelMove s e op d rs act).pending = s.pending := by
  unfold channelMove
  (repeat' split) <;> simp [h]

@[simp] theorem smCopy_pending (s : State) (e : Nat) (d : PorterDesc) : (smCopy s e d).pending = s.pending := by unfold smCopy; simp

@[simp] theorem winPost_pending (s : State) (addr : Nat) (bs : List MByte) : (winPost s addr bs).pending = s.pending := by unfold winPost; simp

@[simp] theorem windowMove_pending (s : State) (e : Nat) (d : PorterDesc) (toWindow : Bool) : (windowMove s e d toWindow).pending = s.pending := by simp [windowMove, apply_ite State.pending]

@[simp] theorem regionPack_pending (s : State) (e : Nat) (d : PorterDesc) : (regionPack s e d).pending = s.pending := by
  unfold regionPack
  (try dsimp only)
  (repeat' split) <;> simp

@[simp] theorem takeEngine_pending (s : State) (p free : Nat) (use : List BankUse) : (takeEngine s p free use).pending = s.pending := by unfold takeEngine; simp

@[simp] theorem matrixRun_pending (s : State) (ctx : LegCtx) (d : MatrixDesc) : (matrixRun s ctx d).pending = s.pending := by
  unfold matrixRun
  refine onLeg_pending _ _ _ _ (fun _ _ => ?_)
  (try dsimp only)
  (repeat' split) <;> (first | with_reducible rfl | (simp [apply_ite State.pending]; done) | (simp_all [apply_ite State.pending]; done))

@[simp] theorem attendRun_pending (s : State) (ctx : LegCtx) (d : AttnDesc) : (attendRun s ctx d).pending = s.pending := by
  unfold attendRun
  refine onLeg_pending _ _ _ _ (fun _ _ => ?_)
  (try dsimp only)
  (repeat' split) <;> (first | with_reducible rfl | (simp [apply_ite State.pending]; done) | (simp_all [apply_ite State.pending]; done))

@[simp] theorem takeUnit_pending (s : State) (p fin : Nat) (use : List BankUse) : (takeUnit s p fin use).pending = s.pending := by unfold takeUnit; simp

@[simp] theorem vecLeg_pending (s : State) (ctx : LegCtx) (vop : Byte) (d : VecDesc) (act : State → Nat → VecOut) : (vecLeg s ctx vop d act).pending = s.pending := by
  unfold vecLeg
  refine onLeg_pending _ _ _ _ (fun _ _ => ?_)
  (try dsimp only)
  (repeat' split) <;> (first | with_reducible rfl | (simp [apply_ite State.pending]; done) | (simp_all [apply_ite State.pending]; done))

@[simp] theorem vecUnary_pending (s : State) (ctx : LegCtx) (vop : Byte) (d : VecDesc) (f : Word → Word × Bool) : (vecUnary s ctx vop d f).pending = s.pending := by unfold vecUnary; simp

@[simp] theorem vecBinary_pending (s : State) (ctx : LegCtx) (vop : Byte) (d : VecDesc) (f : Word → Word → Word × Bool) : (vecBinary s ctx vop d f).pending = s.pending := by unfold vecBinary; simp

@[simp] theorem vecTernary_pending (s : State) (ctx : LegCtx) (vop : Byte) (d : VecDesc) (f : Word → Word → Word → Word × Bool) : (vecTernary s ctx vop d f).pending = s.pending := by unfold vecTernary; simp

@[simp] theorem vecReduce_pending (s : State) (ctx : LegCtx) (vop : Byte) (d : VecDesc) (f : List Word → List (Word × Bool)) : (vecReduce s ctx vop d f).pending = s.pending := by unfold vecReduce; simp

@[simp] theorem vecRow_pending (s : State) (ctx : LegCtx) (vop : Byte) (d : VecDesc) (f : List Word → List Word → List (Word × Bool)) : (vecRow s ctx vop d f).pending = s.pending := by unfold vecRow; simp

@[simp] theorem assayUntil_pending (s : State) (a : DeckAddr) (b : Nat) : (assayUntil s a b).pending = s.pending := by unfold assayUntil; simp

@[simp] theorem workFor_pending (s : State) (a : DeckAddr) (n : Nat) : (workFor s a n).pending = s.pending := by unfold workFor; simp

@[simp] theorem modFinding_pending (s : State) (f : Finding) (h : Finding → Finding) : (modFinding s f h).pending = s.pending := by unfold modFinding; with_reducible rfl

@[simp] theorem refill_pending (s : State) : (refill s).pending = s.pending := by unfold refill; with_reducible rfl

@[simp] theorem unrepairable_pending (s : State) (f : Finding) : (unrepairable s f).pending = s.pending := by simp [unrepairable, apply_ite State.pending]

@[simp] theorem writeRecord_pending (s : State) (f0 : Finding) : (writeRecord s f0).1.pending = s.pending := by
  unfold writeRecord
  (try dsimp only)
  (repeat' split) <;> simp

@[simp] theorem twinRecord_pending (s : State) (f : Finding) : (twinRecord s f).pending = s.pending := by
  unfold twinRecord
  (try dsimp only)
  (repeat' split) <;> simp

@[simp] theorem onChosen_pending (s : State) (f : Finding) : (onChosen s f).pending = s.pending := by simp [onChosen, apply_ite State.pending]

@[simp] theorem giveRung_pending (s : State) (f : Finding) : (giveRung s f).1.pending = s.pending := by unfold giveRung; simp

@[simp] theorem detect_pending (s : State) (f : Finding) : (detect s f).pending = s.pending := by
  unfold detect
  (try dsimp only)
  (repeat' split) <;> simp

@[simp] theorem recordClosed_pending (s : State) (f : Finding) : (recordClosed s f).pending = s.pending := by unfold recordClosed; simp

@[simp] theorem setFinding_pending (s : State) (f : Finding) (st : BitVec 4) : (setFinding s f st).pending = s.pending := by simp [setFinding, apply_ite State.pending]

@[simp] theorem closeDeckFindings_pending (s : State) (k : Nat) : (closeDeckFindings s k).pending = s.pending := by unfold closeDeckFindings; simp

@[simp] theorem nextRung_pending (s : State) (f : Finding) : (nextRung s f).pending = s.pending := by unfold nextRung; simp

@[simp] theorem writeImages_pending (s : State) (e : Nat) (pl : Plan) : (writeImages s e pl).pending = s.pending := by
  show Same_pending s (writeImages s e pl)
  unfold writeImages
  exact forEach_same_pending _ _ _ fun s it => wsWrite_same_pending _ _ _ _

@[simp] theorem loadActive_pending (s : State) (e : Fin 64) (pl : Plan) : (loadActive s e pl).pending = s.pending := by simp [loadActive, apply_ite State.pending]

@[simp] theorem growPages_pending (s : State) (e n : Nat) : (growPages s e n).pending = s.pending := by
  unfold growPages
  (try dsimp only)
  (repeat' split) <;> simp

@[simp] theorem takeRegions_pending (s : State) (e : Nat) (pl : Plan) : (takeRegions s e pl).pending = s.pending := by unfold takeRegions; with_reducible rfl

@[simp] theorem takeDecks_pending (s : State) (pl : Plan) : (takeDecks s pl).pending = s.pending := by simp [takeDecks, apply_ite State.pending]

@[simp] theorem reserve_pending (s : State) (e : Fin 64) (pl : Plan) : (reserve s e pl).pending = s.pending := by unfold reserve; simp

@[simp] theorem programDeck_pending (s : State) (a : DeckAddr) : (programDeck s a).pending = s.pending := by
  unfold programDeck
  (try dsimp only)
  (repeat' split) <;> simp

@[simp] theorem openHeader_pending (s : State) (a : DeckAddr) (t : Target) (x : PlanDeck) : (openHeader s a t x).pending = s.pending := by
  unfold openHeader
  (try dsimp only)
  (repeat' split) <;> simp

@[simp] theorem rowWritten_pending (s : State) (k : Nat) (t : Target) (row : Nat) : (rowWritten s k t row).pending = s.pending := by simp [rowWritten, apply_ite State.pending]

@[simp] theorem endRow_pending (s : State) (a : DeckAddr) (p : ProgState) (t : Target) (f : WFmt) (row : Nat) (bad : List CellGoal) : (endRow s a p t f row bad).pending = s.pending := by unfold endRow; simp

@[simp] theorem programStep_pending (s : State) (a : DeckAddr) (p : ProgState) (t : Target) (x : PlanDeck) (row : Nat) : (programStep s a p t x row).pending = s.pending := by simp [programStep, apply_ite State.pending]

@[simp] theorem repairStep_pending (s : State) (a : DeckAddr) (r : Repair) (row : Nat) (gs : List CellGoal) : (repairStep s a r row gs).pending = s.pending := by simp [repairStep, apply_ite State.pending]

@[simp] theorem finishRepair_pending (s : State) (k : Nat) (r : Repair) : (finishRepair s k r).pending = s.pending := by
  unfold finishRepair
  (try dsimp only)
  (repeat' split) <;> simp

@[simp] theorem tidyRepair_pending (s : State) (k : Nat) : (tidyRepair s k).pending = s.pending := by
  unfold tidyRepair
  (try dsimp only)
  (repeat' split) <;> simp

@[simp] theorem programLoop_pending (s : State) (a : DeckAddr) (row : Nat) : (programLoop s a row).pending = s.pending := by
  unfold programLoop
  (try dsimp only)
  (repeat' split) <;> simp

@[simp] theorem checkReady_pending (s : State) (e : Nat) : (checkReady s e).pending = s.pending := by simp [checkReady, apply_ite State.pending]

@[simp] theorem completeDeck_pending (s : State) (a : DeckAddr) (h : DeckHeader) (x : PlanDeck) : (completeDeck s a h x).pending = s.pending := by unfold completeDeck; simp

@[simp] theorem putRegion_pending (s : State) (e n blk : Nat) (data : List MByte) : (putRegion s e n blk data).pending = s.pending := by
  unfold putRegion
  (try dsimp only)
  (repeat' split) <;> simp

@[simp] theorem writeShadow_pending (s : State) (a : DeckAddr) : (writeShadow s a).pending = s.pending := by
  unfold writeShadow
  (try dsimp only)
  (repeat' split) <;> simp

@[simp] theorem countDone_pending (s : State) (e : Nat) : (countDone s e).pending = s.pending := by unfold countDone; simp

@[simp] theorem doneMark_pending (s : State) (a : DeckAddr) (t : Target) (x : PlanDeck) (h : DeckHeader) : (doneMark s a t x h).pending = s.pending := by unfold doneMark; simp

@[simp] theorem journalPulse_pending (s : State) (a : DeckAddr) : (journalPulse s a).pending = s.pending := by
  unfold journalPulse
  (try dsimp only)
  (repeat' split) <;> simp

@[simp] theorem beginErase_pending (s : State) (a : DeckAddr) (p : ProgState) : (beginErase s a p).pending = s.pending := by unfold beginErase; simp

@[simp] theorem deckErase_pending (s : State) (a : DeckAddr) : (deckErase s a).pending = s.pending := by
  unfold deckErase
  (try dsimp only)
  (repeat' split) <;> simp

@[simp] theorem noteErased_pending (s : State) (k : Nat) (erased : Bool) : (noteErased s k erased).pending = s.pending := by unfold noteErased; simp

@[simp] theorem freeResidents_pending (s : State) : (freeResidents s).pending = s.pending := by unfold freeResidents; simp

@[simp] theorem queueProgram_pending (s : State) (lg : Nat) : (queueProgram s lg).pending = s.pending := by
  unfold queueProgram
  (try dsimp only)
  (repeat' split) <;> simp

@[simp] theorem noteStatus_pending (s : State) (e : Nat) (st : Byte) : (noteStatus s e st).pending = s.pending := by unfold noteStatus; simp

@[simp] theorem noteFailed_pending (s : State) (lg : Nat) : (noteFailed s lg).pending = s.pending := by
  unfold noteFailed
  (try dsimp only)
  (repeat' split) <;> simp

@[simp] theorem eraseDone_pending (s : State) (a : DeckAddr) : (eraseDone s a).pending = s.pending := by unfold eraseDone; simp

@[simp] theorem eraseFailed_pending (s : State) (a : DeckAddr) : (eraseFailed s a).pending = s.pending := by unfold eraseFailed; simp

@[simp] theorem eraseLoop_pending (s : State) (a : DeckAddr) (verified : Bool) : (eraseLoop s a verified).pending = s.pending := by
  unfold eraseLoop
  (try dsimp only)
  (repeat' split) <;> simp

@[simp] theorem resumeDeck_pending (s : State) (k : Nat) : (resumeDeck s k).pending = s.pending := by
  unfold resumeDeck
  (try dsimp only)
  (repeat' split) <;> simp

@[simp] theorem resumeProgramming_pending (s : State) : (resumeProgramming s).pending = s.pending := by simp [resumeProgramming, apply_ite State.pending]

@[simp] theorem beginPlacing_pending (s : State) (mb : Mb) (w : List Word) (bs : List Byte) (e : Nat) : (beginPlacing s mb w bs e).pending = s.pending := by unfold beginPlacing; simp

@[simp] theorem placeOrRefuse_pending (s : State) (mb : Mb) (w : List Word) (bs : List Byte) (e : Nat) : (placeOrRefuse s mb w bs e).pending = s.pending := by simp [placeOrRefuse, apply_ite State.pending]

@[simp] theorem admitModel_pending (s : State) (mb : Mb) : (admitModel s mb).pending = s.pending := by
  unfold admitModel
  refine takeMsg_pending _ _ _ _ (fun _ _ => ?_)
  (try dsimp only)
  (repeat' split) <;> (first | with_reducible rfl | (simp [apply_ite State.pending]; done) | (simp_all [apply_ite State.pending]; done))

@[simp] theorem answerAdmit_pending (s : State) (e : Nat) (st : Byte) (payload : List Word) : (answerAdmit s e st payload).pending = s.pending := by unfold answerAdmit; simp

@[simp] theorem refuseAdmit_pending (s : State) (e : Nat) (st : Byte) (code : Nat) : (refuseAdmit s e st code).pending = s.pending := by unfold refuseAdmit; simp

@[simp] theorem commitPlacement_pending (s : State) (e : Fin 64) (pl : Plan) : (commitPlacement s e pl).pending = s.pending := by simp [commitPlacement, apply_ite State.pending]

@[simp] theorem placementCommit_pending (s : State) (e : Fin 64) (pl : Plan) : (placementCommit s e pl).pending = s.pending := by
  unfold placementCommit
  (try dsimp only)
  (repeat' split) <;> simp

@[simp] theorem replaceSuspended_pending (s : State) (e : Fin 64) (pl : Plan) : (replaceSuspended s e pl).pending = s.pending := by simp [replaceSuspended, apply_ite State.pending]

@[simp] theorem commitCommand_pending (s : State) (e : Fin 64) (pl : Plan) : (commitCommand s e pl).pending = s.pending := by simp [commitCommand, apply_ite State.pending]

@[simp] theorem withPlan_pending (s : State) (e : Nat) (pl : Plan) : (withPlan s e pl).pending = s.pending := by unfold withPlan; simp

@[simp] theorem nameRebind_pending (s : State) (e o : Fin 64) (pl : Plan) (st : Option EngState) (x : Nat) : (nameRebind s e o pl st x).pending = s.pending := by unfold nameRebind; simp

@[simp] theorem rebindPlaces_pending (s : State) (mb : Mb) (w : List Word) (f t : Fin 64) (pf pt : Plan) : (rebindPlaces s mb w f t pf pt).pending = s.pending := by simp [rebindPlaces, apply_ite State.pending]

@[simp] theorem rebindQueue_pending (s : State) (mb : Mb) (w : List Word) (f t : Fin 64) : (rebindQueue s mb w f t).pending = s.pending := by simp [rebindQueue, apply_ite State.pending]

@[simp] theorem rebindCommand_pending (s : State) (mb : Mb) (pf pt : Plan) : (rebindCommand s mb pf pt).pending = s.pending := by simp [rebindCommand, apply_ite State.pending]

@[simp] theorem queryLedger_pending (s : State) (mb : Mb) : (queryLedger s mb).pending = s.pending := by unfold queryLedger; simp

@[simp] theorem readErrorLedger_pending (s : State) (mb : Mb) : (readErrorLedger s mb).pending = s.pending := by unfold readErrorLedger; simp

@[simp] theorem rewriteGamma_pending (s : State) (a : DeckAddr) : (rewriteGamma s a).pending = s.pending := by simp [rewriteGamma, apply_ite State.pending]

@[simp] theorem hottest_pending (s : State) : (hottest s).pending = s.pending := by simp [hottest, apply_ite State.pending]

@[simp] theorem tempRead_pending (s : State) (t : TileAddr) (q : Nat) : (tempRead s t q).pending = s.pending := by simp [tempRead, apply_ite State.pending]

@[simp] theorem calibrate_pending (s : State) (a : DeckAddr) : (calibrate s a).pending = s.pending := by
  unfold calibrate
  (try dsimp only)
  (repeat' split) <;> simp

@[simp] theorem writeCoefficients_pending (s : State) (a : DeckAddr) (cs : List (Int × Int)) : (writeCoefficients s a cs).pending = s.pending := by simp [writeCoefficients, apply_ite State.pending]

@[simp] theorem coefficientWrite_pending (s : State) (a : DeckAddr) : (coefficientWrite s a).pending = s.pending := by
  unfold coefficientWrite
  (try dsimp only)
  (repeat' split) <;> simp

@[simp] theorem sweepDeck_pending (s : State) (a : DeckAddr) : (sweepDeck s a).pending = s.pending := by
  unfold sweepDeck
  (try dsimp only)
  (repeat' split) <;> simp

@[simp] theorem classify_pending (s : State) (a : DeckAddr) (d : Deck) (g : Nat) (rows : List Nat) (cols : List ColSeen) : (classify s a d g rows cols).pending = s.pending := by simp [classify, apply_ite State.pending]

@[simp] theorem findingLocate_pending (s : State) (a : DeckAddr) (g : Nat) (openCols : List Nat) : (findingLocate s a g openCols).pending = s.pending := by
  unfold findingLocate
  (try dsimp only)
  (repeat' split) <;> simp

@[simp] theorem noTarget_pending (s : State) (f : Finding) : (noTarget s f).pending = s.pending := by unfold noTarget; simp

@[simp] theorem beginRung_pending (s : State) (seq rung : Nat) (start : State → Deck → Finding → Target → Option Repair) : (beginRung s seq rung start).pending = s.pending := by
  unfold beginRung
  (try dsimp only)
  (repeat' split) <;> simp

@[simp] theorem repairReprogram_pending (s : State) (seq : Nat) : (repairReprogram s seq).pending = s.pending := by unfold repairReprogram; simp

@[simp] theorem spareSubstitute_pending (s : State) (seq : Nat) : (spareSubstitute s seq).pending = s.pending := by
  unfold spareSubstitute
  (try dsimp only)
  (repeat' split) <;> simp

@[simp] theorem neighbourAdjust_pending (s : State) (seq : Nat) : (neighbourAdjust s seq).pending = s.pending := by
  unfold neighbourAdjust
  (try dsimp only)
  (repeat' split) <;> simp

@[simp] theorem closingSweep_pending (s : State) (seq : Nat) : (closingSweep s seq).pending = s.pending := by
  unfold closingSweep
  (try dsimp only)
  (repeat' split) <;> simp

@[simp] theorem consignmentComplete_pending (s : State) (c q outBytes : Nat) : (consignmentComplete s c q outBytes).pending = s.pending := by
  unfold consignmentComplete
  (try dsimp only)
  (repeat' split) <;> simp

@[simp] theorem cusMod_pending (s : State) (f : Cus → Cus) : (cusMod s f).pending = s.pending := by unfold cusMod; with_reducible rfl

@[simp] theorem modConn_pending (s : State) (p : SpdmPort) (f : SpdmConn → SpdmConn) : (modConn s p f).pending = s.pending := by unfold modConn; simp

@[simp] theorem serveReady_pending (act : Serve) (s : State) (p : SpdmPort) (h : ∀ s p, (act s p).1.pending = s.pending) :
    (serveReady act s p).1.pending = s.pending := by
  unfold serveReady
  split
  · rfl
  · exact h _ _

@[simp] theorem recordResp_pending (s : State) (p : SpdmPort) (r : SpdmResp) : (recordResp s p r).pending = s.pending := by unfold recordResp; simp

@[simp] theorem spdmRequest_pending (s : State) (p : SpdmPort) (act : Serve) (h : ∀ s p, (act s p).1.pending = s.pending) :
    (spdmRequest s p act).pending = s.pending := by
  unfold spdmRequest
  dsimp only
  (repeat' split) <;> simp [h]

@[simp] theorem serveVersion_pending (s : State) (p : SpdmPort) : (serveVersion s p).1.pending = s.pending := by
  unfold serveVersion
  (try dsimp only)
  (repeat' split) <;> simp

@[simp] theorem serveCapabilities_pending (s : State) (p : SpdmPort) : (serveCapabilities s p).1.pending = s.pending := by
  unfold serveCapabilities
  (try dsimp only)
  (repeat' split) <;> simp

@[simp] theorem serveAlgorithms_pending (o : Bool) (s : State) (p : SpdmPort) : (serveAlgorithms o s p).1.pending = s.pending := by
  unfold serveAlgorithms
  (try dsimp only)
  (repeat' split) <;> simp

@[simp] theorem negotiated_pending (act : Serve) (s : State) (p : SpdmPort) (h : ∀ s p, (act s p).1.pending = s.pending) :
    (negotiated act s p).1.pending = s.pending := by
  unfold negotiated
  split
  · exact h _ _
  · rfl

@[simp] theorem serveDigests_pending (s : State) (p : SpdmPort) : (serveDigests s p).1.pending = s.pending := by
  unfold serveDigests
  refine negotiated_pending _ _ _ (fun s p => ?_)
  rfl

@[simp] theorem serveCertificate_pending (a b c : Nat) (s : State) (p : SpdmPort) : (serveCertificate a b c s p).1.pending = s.pending := by
  unfold serveCertificate
  refine negotiated_pending _ _ _ (fun s p => ?_)
  (try dsimp only)
  (repeat' split) <;> simp

@[simp] theorem drew2_pending (s : State) : (drew2 s).pending = s.pending := by unfold drew2; with_reducible rfl

@[simp] theorem serveChallenge_pending (a : Nat) (b : BitVec 256) (s : State) (p : SpdmPort) : (serveChallenge a b s p).1.pending = s.pending := by
  unfold serveChallenge
  refine negotiated_pending _ _ _ (fun s p => ?_)
  (try dsimp only)
  (repeat' split) <;> simp

@[simp] theorem serveSetCertificate_pending (a : Nat) (b : List Byte) (s : State) (p : SpdmPort) : (serveSetCertificate a b s p).1.pending = s.pending := by
  unfold serveSetCertificate
  refine negotiated_pending _ _ _ (fun s p => ?_)
  (try dsimp only)
  (repeat' split) <;> simp

@[simp] theorem serveMeasurements_pending (a : Byte) (b : Bool) (c : BitVec 256) (s : State) (p : SpdmPort) : (serveMeasurements a b c s p).1.pending = s.pending := by
  unfold serveMeasurements
  refine negotiated_pending _ _ _ (fun s p => ?_)
  (try dsimp only)
  (repeat' split) <;> simp

@[simp] theorem serveKeyExchange_pending (a : Nat) (b : Bool) (c : BitVec 768) (s : State) (p : SpdmPort) : (serveKeyExchange a b c s p).1.pending = s.pending := by
  unfold serveKeyExchange
  refine negotiated_pending _ _ _ (fun s p => ?_)
  (try dsimp only)
  (repeat' split) <;> simp

@[simp] theorem serveFinish_pending (a : Word) (b : List Byte) (c : Bool) (s : State) (p : SpdmPort) : (serveFinish a b c s p).1.pending = s.pending := by
  unfold serveFinish
  refine negotiated_pending _ _ _ (fun s p => ?_)
  (try dsimp only)
  (repeat' split) <;> simp

@[simp] theorem endSession_pending (s : State) (p : SpdmPort) (session : Word) : (endSession s p session).pending = s.pending := by unfold endSession; simp

@[simp] theorem inSession_pending (w : Word) (act : Serve) (s : State) (p : SpdmPort) (h : ∀ s p, (act s p).1.pending = s.pending) :
    (inSession w act s p).1.pending = s.pending := by
  unfold inSession
  split
  · exact h _ _
  · rfl

@[simp] theorem serveHeartbeat_pending (a : Word) (s : State) (p : SpdmPort) : (serveHeartbeat a s p).1.pending = s.pending := by
  unfold serveHeartbeat
  refine inSession_pending _ _ _ _ (fun s p => ?_)
  rfl

@[simp] theorem serveKeyUpdate_pending (a : Word) (s : State) (p : SpdmPort) : (serveKeyUpdate a s p).1.pending = s.pending := by
  unfold serveKeyUpdate
  refine inSession_pending _ _ _ _ (fun s p => ?_)
  (try dsimp only)
  (repeat' split) <;> simp

@[simp] theorem serveEndSession_pending (a : Word) (s : State) (p : SpdmPort) : (serveEndSession a s p).1.pending = s.pending := by
  unfold serveEndSession
  refine inSession_pending _ _ _ _ (fun s p => ?_)
  (try dsimp only)
  (repeat' split) <;> simp

@[simp] theorem vendorOk_pending (s : State) : (vendorOk s).1.pending = s.pending := by unfold vendorOk; with_reducible rfl

@[simp] theorem serveVendor_pending (a : Word) (b : VendorReq) (s : State) (p : SpdmPort) : (serveVendor a b s p).1.pending = s.pending := by
  unfold serveVendor
  refine inSession_pending _ _ _ _ (fun s p => ?_)
  (try dsimp only)
  (repeat' split) <;> simp

@[simp] theorem serveWhole_pending (r : SpdmReq) (s : State) (p : SpdmPort) : (serveWhole r s p).1.pending = s.pending := by
  unfold serveWhole
  (try dsimp only)
  (repeat' split) <;> simp

@[simp] theorem serveChunkSend_pending (a b : Nat) (c : Bool) (d : List Byte) (s : State) (p : SpdmPort) : (serveChunkSend a b c d s p).1.pending = s.pending := by
  unfold serveChunkSend
  (try dsimp only)
  (repeat' split) <;> simp

@[simp] theorem serveChunkGet_pending (a b : Nat) (s : State) (p : SpdmPort) : (serveChunkGet a b s p).1.pending = s.pending := by
  unfold serveChunkGet
  (try dsimp only)
  (repeat' split) <;> simp

@[simp] theorem chunkGet_pending (s : State) (p : SpdmPort) (handle seqNo : Nat) : (chunkGet s p handle seqNo).pending = s.pending := by unfold chunkGet; simp

@[simp] theorem serve_pending (r : SpdmReq) (s : State) (p : SpdmPort) : (serve r s p).1.pending = s.pending := by
  unfold serve
  (try dsimp only)
  (repeat' split) <;> simp

@[simp] theorem heartbeatTimeout_pending (s : State) (p : SpdmPort) (session : Word) : (heartbeatTimeout s p session).pending = s.pending := by unfold heartbeatTimeout; simp

@[simp] theorem tunnelReply_pending (s : State) (mb : Nat) (w : List Word) (r : SpdmResp) : (tunnelReply s mb w r).pending = s.pending := by unfold tunnelReply; simp

@[simp] theorem spdmTunnel_pending (s : State) (mb : Mb) : (spdmTunnel s mb).pending = s.pending := by
  unfold spdmTunnel
  refine takeMsg_pending _ _ _ _ fun s w => ?_
  simp

@[simp] theorem installKeys_pending (s : State) (tid : BitVec 384) (k : KeyPkg) : (installKeys s tid k).pending = s.pending := by unfold installKeys; simp

@[simp] theorem keyDeliver_pending (s : State) (mb : Mb) : (keyDeliver s mb).pending = s.pending := by
  unfold keyDeliver
  refine takeMsg_pending _ _ _ _ (fun _ _ => ?_)
  (try dsimp only)
  (repeat' split) <;> (first | with_reducible rfl | (simp [apply_ite State.pending]; done) | (simp_all [apply_ite State.pending]; done))

@[simp] theorem mapTiles_pending (s : State) (f : Tile → Tile) : (mapTiles s f).pending = s.pending := by unfold mapTiles; with_reducible rfl

@[simp] theorem switchStop_pending (s : State) : (switchStop s).pending = s.pending := by unfold switchStop; simp

@[simp] theorem destroyKeys_pending (s : State) : (destroyKeys s).pending = s.pending := by unfold destroyKeys; simp

@[simp] theorem sealOutgoing_pending (s : State) : (sealOutgoing s).pending = s.pending := by
  unfold sealOutgoing
  (try dsimp only)
  (repeat' split) <;> simp

@[simp] theorem switchCustoms_pending (s : State) : (switchCustoms s).pending = s.pending := by unfold switchCustoms; simp

@[simp] theorem switchConsignor_pending (s : State) (c : Nat) : (switchConsignor s c).pending = s.pending := by unfold switchConsignor; simp

@[simp] theorem scrubTcm_pending (s : State) : (scrubTcm s).pending = s.pending := by unfold scrubTcm; simp

@[simp] theorem switchFactor_pending (s : State) : (switchFactor s).pending = s.pending := by unfold switchFactor; simp

@[simp] theorem tenantSwitch_pending (s : State) : (tenantSwitch s).pending = s.pending := by simp [tenantSwitch, apply_ite State.pending]

@[simp] theorem mgmtConnect_pending (s : State) (key : BitVec 384) (suiteOk : Bool) : (mgmtConnect s key suiteOk).pending = s.pending := by
  unfold mgmtConnect
  (try dsimp only)
  (repeat' split) <;> simp

@[simp] theorem asAdmin_pending (s : State) (client : BitVec 384) (act : State → State) (h : ∀ s, (act s).pending = s.pending) :
    (asAdmin s client act).pending = s.pending := by
  unfold asAdmin
  split <;> simp [h]

@[simp] theorem mgmtEnrol_pending (s : State) (client key : BitVec 384) (role : Role) : (mgmtEnrol s client key role).pending = s.pending := by simp [mgmtEnrol, apply_ite State.pending]

@[simp] theorem powerRequest_pending (s : State) (target : BitVec 2) : (powerRequest s target).pending = s.pending := by unfold powerRequest; simp

@[simp] theorem debugGive_pending (s : State) (bit : Nat) (bs : List Byte) : (debugGive s bit bs).pending = s.pending := by simp [debugGive, apply_ite State.pending]

@[simp] theorem debugHalt_pending (s : State) (halt : Bool) : (debugHalt s halt).pending = s.pending := by simp [debugHalt, apply_ite State.pending]

@[simp] theorem sendData_pending (s : State) (p : Nat) (bs : List Byte) : (sendData s p bs).pending = s.pending := by simp [sendData, apply_ite State.pending]

@[simp] theorem broadcast_pending (s : State) (bs : List Byte) : (broadcast s bs).pending = s.pending := by unfold broadcast; simp

@[simp] theorem suspendForPort_pending (s : State) (e : Nat) : (suspendForPort s e).pending = s.pending := by unfold suspendForPort; simp

@[simp] theorem losePort_pending (s : State) (p : Nat) : (losePort s p).pending = s.pending := by simp [losePort, apply_ite State.pending]

@[simp] theorem portLost_pending (s : State) (p : Nat) : (portLost s p).pending = s.pending := by simp [portLost, apply_ite State.pending]

@[simp] theorem lostNotice_pending (s : State) (p body : Nat) : (lostNotice s p body).pending = s.pending := by simp [lostNotice, apply_ite State.pending]

@[simp] theorem ackWord_pending (s : State) (p body : Nat) : (ackWord s p body).pending = s.pending := by unfold ackWord; simp

@[simp] theorem ackSend_pending (s : State) (p : Nat) : (ackSend s p).pending = s.pending := by simp [ackSend, apply_ite State.pending]

@[simp] theorem nakWord_pending (s : State) (p body : Nat) : (nakWord s p body).pending = s.pending := by simp [nakWord, apply_ite State.pending]

@[simp] theorem rekeyWord_pending (s : State) (p body : Nat) : (rekeyWord s p body).pending = s.pending := by simp [rekeyWord, apply_ite State.pending]

@[simp] theorem landSlot_pending (s : State) (e k b : Nat) (l : PlanLink) (x : Nat) (bs : List Byte) (bad : Bool) : (landSlot s e k b l x bs bad).pending = s.pending := by
  unfold landSlot
  (try dsimp only)
  (repeat' split) <;> simp

@[simp] theorem wordArrives_pending (s : State) (p e k : Nat) (w : Nat) : (wordArrives s p e k w).pending = s.pending := by simp [wordArrives, apply_ite State.pending]

@[simp] theorem ownedArrives_pending (s : State) (p : Nat) (slot : Fin 64 × Nat × Nat) (bs : List Byte) (bad : Bool) : (ownedArrives s p slot bs bad).pending = s.pending := by
  unfold ownedArrives
  (try dsimp only)
  (repeat' split) <;> simp

@[simp] theorem sendNak_pending (s : State) (p : Nat) : (sendNak s p).pending = s.pending := by simp [sendNak, apply_ite State.pending]

@[simp] theorem unownedArrives_pending (s : State) (p : Nat) (resent : Bool) (bs : List Byte) (bad : Bool) : (unownedArrives s p resent bs bad).pending = s.pending := by simp [unownedArrives, apply_ite State.pending]

@[simp] theorem frameDelivers_pending (p : Nat) (plain : Option (List Byte)) (s : State) (f : RxFrame × Nat) : (frameDelivers p plain s f).pending = s.pending := by
  unfold frameDelivers
  dsimp only
  split
  · exact ownedArrives_pending _ _ _ _ _
  · exact unownedArrives_pending _ _ _ _ _
  · exact unownedArrives_pending _ _ _ _ _
  · rfl

@[simp] theorem noteTag_pending (s : State) (p : Nat) (ok : Bool) : (noteTag s p ok).pending = s.pending := by simp [noteTag, apply_ite State.pending]

@[simp] theorem closeGroup_pending (s : State) (p : Nat) : (closeGroup s p).pending = s.pending := by simp [closeGroup, apply_ite State.pending]

@[simp] theorem countUe_pending (s : State) (p : Nat) : (countUe s p).pending = s.pending := by simp [countUe, apply_ite State.pending]

@[simp] theorem takeFrame_pending (s : State) (p : Nat) (ftype : BitVec 4) (f : Frame) (slot : Option (Fin 64 × Nat × Nat)) :
    (takeFrame s p ftype f slot).pending = s.pending := by
  unfold takeFrame
  dsimp only
  generalize (f.payload ++ List.replicate 500 0).take 500 = w
  split
  · generalize hb : (if decide (symLimit < f.symErrs) = true then countUe s p else s) = s1
    have h1 : s1.pending = s.pending := by subst hb; split <;> simp
    split
    · split <;> simp [h1]
    · exact h1
  · rfl

@[simp] theorem ownedFrame_pending (s : State) (p e k x : Nat) (f : Frame) : (ownedFrame s p e k x f).pending = s.pending := by
  unfold ownedFrame
  dsimp only
  generalize List.replicate 500 (0 : Byte) = w
  split
  · exact ownedArrives_pending _ _ _ _ _
  · split
    · rw [takeFrame_pending]; split <;> simp
    · rfl

@[simp] theorem unownedDataFrame_pending (s : State) (p : Nat) (f : Frame) : (unownedDataFrame s p f).pending = s.pending := by unfold unownedDataFrame; simp

@[simp] theorem unownedReplayFrame_pending (s : State) (p : Nat) (f : Frame) : (unownedReplayFrame s p f).pending = s.pending := by unfold unownedReplayFrame; simp

@[simp] theorem idleFrame_pending (s : State) (p : Nat) (f : Frame) : (idleFrame s p f).pending = s.pending := by unfold idleFrame; simp

@[simp] theorem linkRun_pending (s : State) (ctx : LegCtx) (l : ConvoyLeg) : (linkRun s ctx l).pending = s.pending := by unfold linkRun; simp

@[simp] theorem trainPasses_pending (s : State) (p phase peer peerPort : Nat) (peerVersion : Word) (roundTrip : Nat) : (trainPasses s p phase peer peerPort peerVersion roundTrip).pending = s.pending := by
  simp [trainPasses, apply_ite State.pending]

@[simp] theorem portTrain_pending (s : State) (p phase : Nat) (ok : Bool) (peer peerPort : Nat) (peerVersion : Word) (roundTrip : Nat) : (portTrain s p phase ok peer peerPort peerVersion roundTrip).pending = s.pending := by
  simp [portTrain, apply_ite State.pending]

@[simp] theorem portRetry_pending (s : State) (p : Nat) : (portRetry s p).pending = s.pending := by simp [portRetry, apply_ite State.pending]

@[simp] theorem wakePattern_pending (s : State) (p : Nat) : (wakePattern s p).pending = s.pending := by simp [wakePattern, apply_ite State.pending]

@[simp] theorem joinRoute_pending (s : State) (ns : List Node) : (joinRoute s ns).pending = s.pending := by unfold joinRoute; simp

@[simp] theorem runAlone_pending (s : State) : (runAlone s).pending = s.pending := by unfold runAlone; simp

@[simp] theorem formRoute_pending (s : State) (ns : List Node) : (formRoute s ns).pending = s.pending := by simp [formRoute, apply_ite State.pending]

@[simp] theorem pwrMod_pending (s : State) (f : Pwr → Pwr) : (pwrMod s f).pending = s.pending := by unfold pwrMod; with_reducible rfl

@[simp] theorem refuseEntry_pending (s : State) (unit : Nat) : (refuseEntry s unit).pending = s.pending := by unfold refuseEntry; simp

@[simp] theorem beginEntry_pending (s : State) : (beginEntry s).pending = s.pending := by unfold beginEntry; simp

@[simp] theorem waitsNow_pending (s : State) : (waitsNow s).pending = s.pending := by
  unfold waitsNow
  (try dsimp only)
  (repeat' split) <;> simp

@[simp] theorem waits_pending (s : State) : (waits s).pending = s.pending := by simp [waits, apply_ite State.pending]

@[simp] theorem sleepPort_pending (s : State) (p : Nat) : (sleepPort s p).pending = s.pending := by simp [sleepPort, apply_ite State.pending]

@[simp] theorem enterCamp_pending (s : State) : (enterCamp s).pending = s.pending := by unfold enterCamp; simp

@[simp] theorem enterDeepCamp_pending (s : State) : (enterDeepCamp s).pending = s.pending := by unfold enterDeepCamp; simp

@[simp] theorem entryComplete_pending (s : State) : (entryComplete s).pending = s.pending := by simp [entryComplete, apply_ite State.pending]

@[simp] theorem targetTrek_pending (s : State) : (targetTrek s).pending = s.pending := by simp [targetTrek, apply_ite State.pending]

@[simp] theorem epochTimer_pending (s : State) : (epochTimer s).pending = s.pending := by simp [epochTimer, apply_ite State.pending]

@[simp] theorem campExit_pending (s : State) : (campExit s).pending = s.pending := by simp [campExit, apply_ite State.pending]

@[simp] theorem haltIdle_pending (s : State) : (haltIdle s).pending = s.pending := by simp [haltIdle, apply_ite State.pending]

@[simp] theorem hintExpiry_pending (s : State) : (hintExpiry s).pending = s.pending := by unfold hintExpiry; simp

@[simp] theorem setRail_pending (s : State) (r : Rail) (ok : Bool) : (setRail s r ok).pending = s.pending := by
  unfold setRail
  (try dsimp only)
  (repeat' split) <;> simp

@[simp] theorem supplyWarning_pending (s : State) (r : Rail) : (supplyWarning s r).pending = s.pending := by simp [supplyWarning, apply_ite State.pending]

@[simp] theorem noteLockout_pending (s : State) (phys string : Nat) : (noteLockout s phys string).pending = s.pending := by unfold noteLockout; simp

@[simp] theorem dropSpare_pending (s : State) (phys : Nat) : (dropSpare s phys).pending = s.pending := by simp [dropSpare, apply_ite State.pending]

@[simp] theorem lockIvr_pending (s : State) (phys : Nat) : (lockIvr s phys).pending = s.pending := by unfold lockIvr; simp

@[simp] theorem lockPump_pending (s : State) (phys string : Nat) : (lockPump s phys string).pending = s.pending := by unfold lockPump; simp

@[simp] theorem regulatorTrip_pending (s : State) (phys : Nat) (pump : Option Nat) : (regulatorTrip s phys pump).pending = s.pending := by
  unfold regulatorTrip
  (try dsimp only)
  (repeat' split) <;> simp

@[simp] theorem ivrStart_pending (s : State) (phys : Nat) (shorted : Bool) : (ivrStart s phys shorted).pending = s.pending := by simp [ivrStart, apply_ite State.pending]

@[simp] theorem pumpStart_pending (s : State) (phys string : Nat) (shorted : Bool) : (pumpStart s phys string shorted).pending = s.pending := by simp [pumpStart, apply_ite State.pending]

@[simp] theorem varrStep_pending (s : State) (phys : Nat) (up : Bool) : (varrStep s phys up).pending = s.pending := by simp [varrStep, apply_ite State.pending]

@[simp] theorem laneStep_pending (s : State) (p : Nat) (sleep : Bool) : (laneStep s p sleep).pending = s.pending := by simp [laneStep, apply_ite State.pending]

@[simp] theorem tollSample_pending (s : State) (q : Nat) : (tollSample s q).pending = s.pending := by simp [tollSample, apply_ite State.pending]

@[simp] theorem windowEnd_pending (s : State) (hundred : Bool) : (windowEnd s hundred).pending = s.pending := by simp [windowEnd, apply_ite State.pending]

@[simp] theorem targetDeck_pending (s : State) (e : Nat) (pl : Plan) (k : Nat) (q : QLayer) (d : PlanDeck) : (targetDeck s e pl k q d).pending = s.pending := by unfold targetDeck; simp

@[simp] theorem startDeck_pending (s : State) (e : Nat) (wb : BitVec 64) (lg : Nat) : (startDeck s e wb lg).pending = s.pending := by simp [startDeck, apply_ite State.pending]

@[simp] theorem useLayer_pending (s : State) (e : Nat) (wb : BitVec 64) (id k : Nat) (q : QLayer) : (useLayer s e wb id k q).pending = s.pending := by
  unfold useLayer
  (try dsimp only)
  (repeat' split) <;> simp

@[simp] theorem takeRecord_pending (s : State) (e : Nat) (w : Waybill) (bs : List Byte) : (takeRecord s e w bs).pending = s.pending := by
  unfold takeRecord
  (try dsimp only)
  (repeat' split) <;> simp

@[simp] theorem takeRecords_pending (n : Nat) (s : State) (e : Nat) : (takeRecords n s e).pending = s.pending := by
  induction n generalizing s with
  | zero => rfl
  | succ n ih => unfold takeRecords; (repeat' split) <;> (try dsimp only) <;> (repeat' split) <;> simp [ih]

@[simp] theorem sendWay_pending (s : State) (lead : Nat) (bs : List Byte) : (sendWay s lead bs).pending = s.pending := by unfold sendWay; simp

@[simp] theorem programWaybill_pending (s : State) (mb : Mb) : (programWaybill s mb).pending = s.pending := by simp [programWaybill, apply_ite State.pending]

@[simp] theorem useSegment_pending (s : State) (e : Nat) (w : Waybill) (bs : List Byte) : (useSegment s e w bs).pending = s.pending := by
  unfold useSegment
  (try dsimp only)
  (repeat' split) <;> simp

@[simp] theorem joinWaybill_pending (s : State) (e lead : Nat) (bs : List Byte) : (joinWaybill s e lead bs).pending = s.pending := by simp [joinWaybill, apply_ite State.pending]

@[simp] theorem waybillSegment_pending (s : State) (e lead : Nat) (bytes : List Byte) : (waybillSegment s e lead bytes).pending = s.pending := by
  unfold waybillSegment
  (try dsimp only)
  (repeat' split) <;> simp

@[simp] theorem endWaybill_pending (s : State) (e : Nat) (ok : Bool) : (endWaybill s e ok).pending = s.pending := by unfold endWaybill; simp

@[simp] theorem takeReport_pending (s : State) (e dev : Nat) (w : Waybill) (st : Byte) (done skipped : Nat) : (takeReport s e dev w st done skipped).pending = s.pending := by simp [takeReport, apply_ite State.pending]

@[simp] theorem takeOther_pending (s : State) (e dev : Nat) (w : Waybill) (st : Byte) (done skipped : Nat) : (takeOther s e dev w st done skipped).pending = s.pending := by
  unfold takeOther
  (try dsimp only)
  (repeat' split) <;> simp

@[simp] theorem waybillReport_pending (s : State) (e dev : Nat) (st : Byte) (done skipped : Nat) : (waybillReport s e dev st done skipped).pending = s.pending := by
  unfold waybillReport
  (try dsimp only)
  (repeat' split) <;> simp

@[simp] theorem restoreHist_pending (s : State) (e : Nat) (on : Nat → Bool) : (restoreHist s e on).pending = s.pending := by unfold restoreHist; simp

@[simp] theorem nameReturn_pending (s : State) (e : Nat) : (nameReturn s e).pending = s.pending := by
  unfold nameReturn
  (try dsimp only)
  (repeat' split) <;> simp

@[simp] theorem returnEngs_pending (s : State) (c : Nat) : (returnEngs s c).pending = s.pending := by unfold returnEngs; simp

@[simp] theorem returnCore_pending (s : State) (c : Nat) : (returnCore s c).pending = s.pending := by unfold returnCore; simp

@[simp] theorem unfenceCore_pending (s : State) (mb : Mb) (checkOk : Bool) : (unfenceCore s mb checkOk).pending = s.pending := by
  unfold unfenceCore
  refine takeMsg_pending _ _ _ _ (fun _ _ => ?_)
  (try dsimp only)
  (repeat' split) <;> (first | with_reducible rfl | (simp [apply_ite State.pending]; done) | (simp_all [apply_ite State.pending]; done))

@[simp] theorem stopCore_pending (s : State) (p : Nat) : (stopCore s p).pending = s.pending := by unfold stopCore; simp

@[simp] theorem stopTiles_pending (s : State) (p : Nat) : (stopTiles s p).pending = s.pending := by unfold stopTiles; with_reducible rfl

@[simp] theorem stopCoreDecks_pending (s : State) (p : Nat) : (stopCoreDecks s p).pending = s.pending := by unfold stopCoreDecks; simp

@[simp] theorem replayCons_pending (s : State) (e : Nat) (x : Nat × Nat) : (replayCons s e x).pending = s.pending := by unfold replayCons; simp

@[simp] theorem replayEng_pending (s : State) (e : Nat) : (replayEng s e).pending = s.pending := by unfold replayEng; simp

@[simp] theorem withdrawSwap_pending (s : State) (e : Nat) : (withdrawSwap s e).pending = s.pending := by simp [withdrawSwap, apply_ite State.pending]

@[simp] theorem addPages_pending (s : State) (e : Nat) (pl : Plan) : (addPages s e pl).pending = s.pending := by unfold addPages; simp

@[simp] theorem degradeEng_pending (plans : List (Fin 64 × Plan)) (spare : Bool) (s : State) (e : Nat) : (degradeEng plans spare s e).pending = s.pending := by
  unfold degradeEng
  (try dsimp only)
  (repeat' split) <;> simp

@[simp] theorem endStranded_pending (s : State) (c : Nat) (e : Nat) : (endStranded s c e).pending = s.pending := by simp [endStranded, apply_ite State.pending]

@[simp] theorem fenceRun_pending (s : State) (c : Nat) (cause : BitVec 4) (plans : List (Fin 64 × Plan)) : (fenceRun s c cause plans).pending = s.pending := by simp [fenceRun, apply_ite State.pending]

@[simp] theorem coreFence_pending (s : State) (c : Nat) (cause : BitVec 4) (plans : List (Fin 64 × Plan)) : (coreFence s c cause plans).pending = s.pending := by simp [coreFence, apply_ite State.pending]

@[simp] theorem assignSpare_pending (s : State) (c : Nat) (p : Nat) : (assignSpare s c p).pending = s.pending := by simp [assignSpare, apply_ite State.pending]

@[simp] theorem finishTakeover_pending (s : State) (c : Nat) : (finishTakeover s c).pending = s.pending := by simp [finishTakeover, apply_ite State.pending]

@[simp] theorem spareTakeover_pending (s : State) (c : Nat) : (spareTakeover s c).pending = s.pending := by
  unfold spareTakeover
  (try dsimp only)
  (repeat' split) <;> simp

@[simp] theorem rouse_pending (s : State) : (rouse s).pending = s.pending := by simp [rouse, apply_ite State.pending]

@[simp] theorem deviceReset_pending (s : State) (src : Nat) (cold : Bool) : (deviceReset s src cold).pending = s.pending := by simp [deviceReset, apply_ite State.pending]

@[simp] theorem powerOnReset_pending (s : State) (vsbLost : Bool) : (powerOnReset s vsbLost).pending = s.pending := by unfold powerOnReset; simp

@[simp] theorem perstChange_pending (s : State) (asserted : Bool) : (perstChange s asserted).pending = s.pending := by simp [perstChange, apply_ite State.pending]

@[simp] theorem rstNInput_pending (s : State) (lowNs : Nat) : (rstNInput s lowNs).pending = s.pending := by simp [rstNInput, apply_ite State.pending]

@[simp] theorem factorWatchdog_pending (s : State) : (factorWatchdog s).pending = s.pending := by simp [factorWatchdog, apply_ite State.pending]

@[simp] theorem thermalShutdown_pending (s : State) : (thermalShutdown s).pending = s.pending := by unfold thermalShutdown; simp

@[simp] theorem routeReset_pending (s : State) (sender : Nat) (cold : Bool) : (routeReset s sender cold).pending = s.pending := by simp [routeReset, apply_ite State.pending]

@[simp] theorem tamper_pending (s : State) (lowNs : Nat) : (tamper s lowNs).pending = s.pending := by simp [tamper, apply_ite State.pending]

@[simp] theorem stretchEnd_pending (s : State) : (stretchEnd s).pending = s.pending := by simp [stretchEnd, apply_ite State.pending]

@[simp] theorem optThr_pending (s : State) (bs : List Byte) : (optThr s bs).pending = s.pending := by unfold optThr; simp

@[simp] theorem optRstCfg_pending (s : State) (bs : List Byte) : (optRstCfg s bs).pending = s.pending := by unfold optRstCfg; with_reducible rfl

@[simp] theorem optLocks_pending (s : State) (bs : List Byte) : (optLocks s bs).pending = s.pending := by simp [optLocks, apply_ite State.pending]

@[simp] theorem optCold_pending (s : State) (bs : List Byte) : (optCold s bs).pending = s.pending := by unfold optCold; simp

@[simp] theorem loadOptions_pending (s : State) (cold : Bool) : (loadOptions s cold).pending = s.pending := by
  unfold loadOptions
  (try dsimp only)
  (repeat' split) <;> simp

@[simp] theorem loadCoreMap_pending (s : State) : (loadCoreMap s).pending = s.pending := by
  unfold loadCoreMap
  (try dsimp only)
  (repeat' split) <;> simp

@[simp] theorem loadRing_pending (s : State) : (loadRing s).pending = s.pending := by unfold loadRing; with_reducible rfl

@[simp] theorem loadResident_pending (s : State) (e : Nat) : (loadResident s e).pending = s.pending := by simp [loadResident, apply_ite State.pending]

@[simp] theorem loadDecks_pending (s : State) : (loadDecks s).pending = s.pending := by unfold loadDecks; simp

@[simp] theorem finishSwitchRecord_pending (s : State) : (finishSwitchRecord s).pending = s.pending := by
  unfold finishSwitchRecord
  (try dsimp only)
  (repeat' split) <;> simp

@[simp] theorem loadedState_pending (s : State) (smba : BitVec 2) : (loadedState s smba).pending = s.pending := by simp [loadedState, apply_ite State.pending]

@[simp] theorem optionLoading_pending (s : State) (smba : BitVec 2) (recovN : Bool) : (optionLoading s smba recovN).pending = s.pending := by simp [optionLoading, apply_ite State.pending]

@[simp] theorem pendingCrst_pending (s : State) : (pendingCrst s).pending = s.pending := by unfold pendingCrst; simp

@[simp] theorem factorUp_pending (s : State) : (factorUp s).pending = s.pending := by simp [factorUp, apply_ite State.pending]

@[simp] theorem factorReady_pending (s : State) : (factorReady s).pending = s.pending := by simp [factorReady, apply_ite State.pending]

@[simp] theorem factorResume_pending (s : State) : (factorResume s).pending = s.pending := by simp [factorResume, apply_ite State.pending]

end Sys2Proof.Machine
end

