-- ==== Sys2Proof/Laws/Sparse.lean ====
section
/-! SUPPORT. Reading what was written: the sparse maps, and the vectors of tiles, cores, engagements, mailboxes, ports and
stacks. -/

namespace Sys2Proof.Machine

variable {V : Type}

/-! ## Sparse maps -/

theorem sget_sdel (d : V) (m : Sparse V) (a b : Nat) : sget d (sdel m a) b = if b = a then d else sget d m b := by
  induction m with
  | nil => simp [sdel, sget]
  | cons e r ih =>
    unfold sdel at ih ⊢
    rw [List.filter_cons]
    by_cases h : e.1 = a
    · simp only [h, bne_self_eq_false, Bool.false_eq_true, if_false, ih]
      by_cases g : b = a
      · simp [g]
      · simp [g, sget, h]
    · simp only [bne_iff_ne, ne_eq, h, not_false_eq_true, if_true]
      simp only [sget, ih]
      by_cases g : b = e.1
      · subst g; simp [h]
      · simp [g]

theorem sget_sput (d : V) (m : Sparse V) (a b : Nat) (v : V) : sget d (sput m a v) b = if b = a then v else sget d m b := by
  induction m with
  | nil => simp [sput, sget]
  | cons e r ih =>
    simp only [sput]
    split
    · rename_i h; subst h
      simp only [sget]
      split <;> rfl
    · split
      · simp only [sget]
      · simp only [sget, ih]
        by_cases g : b = e.1
        · subst g; rename_i h _; simp [Ne.symm h]
        · simp [g]

/-- What a map reads after one write. -/
theorem sget_sset [DecidableEq V] (d : V) (m : Sparse V) (a b : Nat) (v : V) : sget d (sset d m a v) b = if b = a then v else sget d m b := by
  unfold sset
  split
  · rename_i h; rw [sget_sdel, h]
  · rw [sget_sput]

@[simp] theorem sget_sset_same [DecidableEq V] (d : V) (m : Sparse V) (a : Nat) (v : V) : sget d (sset d m a v) a = v := by
  rw [sget_sset, if_pos rfl]

theorem sget_sset_other [DecidableEq V] (d : V) (m : Sparse V) {a b : Nat} (v : V) (h : b ≠ a) : sget d (sset d m a v) b = sget d m b := by
  rw [sget_sset, if_neg h]

@[simp] theorem sget_smod_same [DecidableEq V] (d : V) (m : Sparse V) (a : Nat) (f : V → V) : sget d (smod d m a f) a = f (sget d m a) :=
  sget_sset_same _ _ _ _

theorem sget_smod_other [DecidableEq V] (d : V) (m : Sparse V) {a b : Nat} (f : V → V) (h : b ≠ a) : sget d (smod d m a f) b = sget d m b :=
  sget_sset_other _ _ _ h

/-- What a map reads after a run is written: the run inside it, the old values outside. -/
theorem sget_ssetRun [DecidableEq V] (d : V) (vs : List V) (m : Sparse V) (a b : Nat) :
    sget d (ssetRun d m a vs) b = if h : a ≤ b ∧ b < a + vs.length then vs[b - a]'(by omega) else sget d m b := by
  induction vs generalizing m a with
  | nil => simp only [ssetRun, List.length_nil]; rw [dif_neg (by omega)]
  | cons v vs ih =>
    simp only [ssetRun]
    rw [ih]
    by_cases h : b = a
    · subst h
      rw [dif_neg (by omega), dif_pos (by simp)]
      simp
    · by_cases g : a ≤ b ∧ b < a + (v :: vs).length
      · have g' : a + 1 ≤ b ∧ b < a + 1 + vs.length := by simp only [List.length_cons] at g; omega
        rw [dif_pos g', dif_pos g]
        have e : b - a = (b - (a + 1)) + 1 := by omega
        simp only [e, List.getElem_cons_succ]
      · have g' : ¬(a + 1 ≤ b ∧ b < a + 1 + vs.length) := by simp only [List.length_cons] at g; omega
        rw [dif_neg g', dif_neg g, sget_sset_other _ _ _ h]

theorem sget_ssetRun_outside [DecidableEq V] (d : V) (vs : List V) (m : Sparse V) {a b : Nat} (h : b < a ∨ a + vs.length ≤ b) :
    sget d (ssetRun d m a vs) b = sget d m b := by
  rw [sget_ssetRun, dif_neg (by omega)]

/-! ## Vectors -/

theorem vget_vmod_same {n : Nat} (d : V) (v : Vector V n) (i : Nat) (f : V → V) (h : i < n) : vget d (vmod v i f) i = f (vget d v i) := by
  simp [vget, vmod, h]

theorem vget_vmod_other {n : Nat} (d : V) (v : Vector V n) (i j : Nat) (f : V → V) (h : j ≠ i) : vget d (vmod v i f) j = vget d v j := by
  unfold vget vmod
  by_cases g : i < n
  · simp only [g, dif_pos]
    by_cases k : j < n
    · simp [k, Ne.symm h]
    · simp [k]
  · simp only [g, dif_neg, not_false_eq_true]

end Sys2Proof.Machine
end

