-- ==== Sys2Proof/Laws/State.lean ====
section
/-! SUPPORT. Each named update of the state leaves every field but its own as it stands.  The queue and the memories have
their lemmas in Laws/Queue.lean and Laws/Memory.lean. -/

namespace Sys2Proof.Machine

/-! modDeck changes decks only. -/

@[simp] theorem modDeck_free (s : State) (k : Nat) (f : Deck → Deck) : (modDeck s k f).free = s.free := rfl
@[simp] theorem modDeck_alm (s : State) (k : Nat) (f : Deck → Deck) : (modDeck s k f).alm = s.alm := rfl
@[simp] theorem modDeck_rst (s : State) (k : Nat) (f : Deck → Deck) : (modDeck s k f).rst = s.rst := rfl
@[simp] theorem modDeck_pwr (s : State) (k : Nat) (f : Deck → Deck) : (modDeck s k f).pwr = s.pwr := rfl
@[simp] theorem modDeck_tol (s : State) (k : Nat) (f : Deck → Deck) : (modDeck s k f).tol = s.tol := rfl
@[simp] theorem modDeck_gpio (s : State) (k : Nat) (f : Deck → Deck) : (modDeck s k f).gpio = s.gpio := rfl
@[simp] theorem modDeck_smc (s : State) (k : Nat) (f : Deck → Deck) : (modDeck s k f).smc = s.smc := rfl
@[simp] theorem modDeck_fac (s : State) (k : Nat) (f : Deck → Deck) : (modDeck s k f).fac = s.fac := rfl
@[simp] theorem modDeck_cus (s : State) (k : Nat) (f : Deck → Deck) : (modDeck s k f).cus = s.cus := rfl
@[simp] theorem modDeck_mbx (s : State) (k : Nat) (f : Deck → Deck) : (modDeck s k f).mbx = s.mbx := rfl
@[simp] theorem modDeck_order (s : State) (k : Nat) (f : Deck → Deck) : (modDeck s k f).order = s.order := rfl
@[simp] theorem modDeck_gran (s : State) (k : Nat) (f : Deck → Deck) : (modDeck s k f).gran = s.gran := rfl
@[simp] theorem modDeck_granPage (s : State) (k : Nat) (f : Deck → Deck) : (modDeck s k f).granPage = s.granPage := rfl
@[simp] theorem modDeck_ldg (s : State) (k : Nat) (f : Deck → Deck) : (modDeck s k f).ldg = s.ldg := rfl
@[simp] theorem modDeck_engs (s : State) (k : Nat) (f : Deck → Deck) : (modDeck s k f).engs = s.engs := rfl
@[simp] theorem modDeck_regions (s : State) (k : Nat) (f : Deck → Deck) : (modDeck s k f).regions = s.regions := rfl
@[simp] theorem modDeck_rgnSel (s : State) (k : Nat) (f : Deck → Deck) : (modDeck s k f).rgnSel = s.rgnSel := rfl
@[simp] theorem modDeck_tiles (s : State) (k : Nat) (f : Deck → Deck) : (modDeck s k f).tiles = s.tiles := rfl
@[simp] theorem modDeck_targets (s : State) (k : Nat) (f : Deck → Deck) : (modDeck s k f).targets = s.targets := rfl
@[simp] theorem modDeck_cores (s : State) (k : Nat) (f : Deck → Deck) : (modDeck s k f).cores = s.cores := rfl
@[simp] theorem modDeck_ptl (s : State) (k : Nat) (f : Deck → Deck) : (modDeck s k f).ptl = s.ptl := rfl
@[simp] theorem modDeck_prt (s : State) (k : Nat) (f : Deck → Deck) : (modDeck s k f).prt = s.prt := rfl
@[simp] theorem modDeck_asy (s : State) (k : Nat) (f : Deck → Deck) : (modDeck s k f).asy = s.asy := rfl
@[simp] theorem modDeck_bst (s : State) (k : Nat) (f : Deck → Deck) : (modDeck s k f).bst = s.bst := rfl
@[simp] theorem modDeck_hzl (s : State) (k : Nat) (f : Deck → Deck) : (modDeck s k f).hzl = s.hzl := rfl
@[simp] theorem modDeck_pcie (s : State) (k : Nat) (f : Deck → Deck) : (modDeck s k f).pcie = s.pcie := rfl
@[simp] theorem modDeck_flights (s : State) (k : Nat) (f : Deck → Deck) : (modDeck s k f).flights = s.flights := rfl
@[simp] theorem modDeck_snap (s : State) (k : Nat) (f : Deck → Deck) : (modDeck s k f).snap = s.snap := rfl

/-! modTile changes tiles only. -/

@[simp] theorem modTile_free (s : State) (k : Nat) (f : Tile → Tile) : (modTile s k f).free = s.free := rfl
@[simp] theorem modTile_alm (s : State) (k : Nat) (f : Tile → Tile) : (modTile s k f).alm = s.alm := rfl
@[simp] theorem modTile_rst (s : State) (k : Nat) (f : Tile → Tile) : (modTile s k f).rst = s.rst := rfl
@[simp] theorem modTile_pwr (s : State) (k : Nat) (f : Tile → Tile) : (modTile s k f).pwr = s.pwr := rfl
@[simp] theorem modTile_tol (s : State) (k : Nat) (f : Tile → Tile) : (modTile s k f).tol = s.tol := rfl
@[simp] theorem modTile_gpio (s : State) (k : Nat) (f : Tile → Tile) : (modTile s k f).gpio = s.gpio := rfl
@[simp] theorem modTile_smc (s : State) (k : Nat) (f : Tile → Tile) : (modTile s k f).smc = s.smc := rfl
@[simp] theorem modTile_fac (s : State) (k : Nat) (f : Tile → Tile) : (modTile s k f).fac = s.fac := rfl
@[simp] theorem modTile_cus (s : State) (k : Nat) (f : Tile → Tile) : (modTile s k f).cus = s.cus := rfl
@[simp] theorem modTile_mbx (s : State) (k : Nat) (f : Tile → Tile) : (modTile s k f).mbx = s.mbx := rfl
@[simp] theorem modTile_order (s : State) (k : Nat) (f : Tile → Tile) : (modTile s k f).order = s.order := rfl
@[simp] theorem modTile_gran (s : State) (k : Nat) (f : Tile → Tile) : (modTile s k f).gran = s.gran := rfl
@[simp] theorem modTile_granPage (s : State) (k : Nat) (f : Tile → Tile) : (modTile s k f).granPage = s.granPage := rfl
@[simp] theorem modTile_ldg (s : State) (k : Nat) (f : Tile → Tile) : (modTile s k f).ldg = s.ldg := rfl
@[simp] theorem modTile_engs (s : State) (k : Nat) (f : Tile → Tile) : (modTile s k f).engs = s.engs := rfl
@[simp] theorem modTile_regions (s : State) (k : Nat) (f : Tile → Tile) : (modTile s k f).regions = s.regions := rfl
@[simp] theorem modTile_rgnSel (s : State) (k : Nat) (f : Tile → Tile) : (modTile s k f).rgnSel = s.rgnSel := rfl
@[simp] theorem modTile_decks (s : State) (k : Nat) (f : Tile → Tile) : (modTile s k f).decks = s.decks := rfl
@[simp] theorem modTile_targets (s : State) (k : Nat) (f : Tile → Tile) : (modTile s k f).targets = s.targets := rfl
@[simp] theorem modTile_cores (s : State) (k : Nat) (f : Tile → Tile) : (modTile s k f).cores = s.cores := rfl
@[simp] theorem modTile_ptl (s : State) (k : Nat) (f : Tile → Tile) : (modTile s k f).ptl = s.ptl := rfl
@[simp] theorem modTile_prt (s : State) (k : Nat) (f : Tile → Tile) : (modTile s k f).prt = s.prt := rfl
@[simp] theorem modTile_asy (s : State) (k : Nat) (f : Tile → Tile) : (modTile s k f).asy = s.asy := rfl
@[simp] theorem modTile_bst (s : State) (k : Nat) (f : Tile → Tile) : (modTile s k f).bst = s.bst := rfl
@[simp] theorem modTile_hzl (s : State) (k : Nat) (f : Tile → Tile) : (modTile s k f).hzl = s.hzl := rfl
@[simp] theorem modTile_pcie (s : State) (k : Nat) (f : Tile → Tile) : (modTile s k f).pcie = s.pcie := rfl
@[simp] theorem modTile_flights (s : State) (k : Nat) (f : Tile → Tile) : (modTile s k f).flights = s.flights := rfl
@[simp] theorem modTile_snap (s : State) (k : Nat) (f : Tile → Tile) : (modTile s k f).snap = s.snap := rfl

/-! modCore changes cores only. -/

@[simp] theorem modCore_free (s : State) (p : Nat) (f : Core → Core) : (modCore s p f).free = s.free := rfl
@[simp] theorem modCore_alm (s : State) (p : Nat) (f : Core → Core) : (modCore s p f).alm = s.alm := rfl
@[simp] theorem modCore_rst (s : State) (p : Nat) (f : Core → Core) : (modCore s p f).rst = s.rst := rfl
@[simp] theorem modCore_pwr (s : State) (p : Nat) (f : Core → Core) : (modCore s p f).pwr = s.pwr := rfl
@[simp] theorem modCore_tol (s : State) (p : Nat) (f : Core → Core) : (modCore s p f).tol = s.tol := rfl
@[simp] theorem modCore_gpio (s : State) (p : Nat) (f : Core → Core) : (modCore s p f).gpio = s.gpio := rfl
@[simp] theorem modCore_smc (s : State) (p : Nat) (f : Core → Core) : (modCore s p f).smc = s.smc := rfl
@[simp] theorem modCore_fac (s : State) (p : Nat) (f : Core → Core) : (modCore s p f).fac = s.fac := rfl
@[simp] theorem modCore_cus (s : State) (p : Nat) (f : Core → Core) : (modCore s p f).cus = s.cus := rfl
@[simp] theorem modCore_mbx (s : State) (p : Nat) (f : Core → Core) : (modCore s p f).mbx = s.mbx := rfl
@[simp] theorem modCore_order (s : State) (p : Nat) (f : Core → Core) : (modCore s p f).order = s.order := rfl
@[simp] theorem modCore_gran (s : State) (p : Nat) (f : Core → Core) : (modCore s p f).gran = s.gran := rfl
@[simp] theorem modCore_granPage (s : State) (p : Nat) (f : Core → Core) : (modCore s p f).granPage = s.granPage := rfl
@[simp] theorem modCore_ldg (s : State) (p : Nat) (f : Core → Core) : (modCore s p f).ldg = s.ldg := rfl
@[simp] theorem modCore_engs (s : State) (p : Nat) (f : Core → Core) : (modCore s p f).engs = s.engs := rfl
@[simp] theorem modCore_regions (s : State) (p : Nat) (f : Core → Core) : (modCore s p f).regions = s.regions := rfl
@[simp] theorem modCore_rgnSel (s : State) (p : Nat) (f : Core → Core) : (modCore s p f).rgnSel = s.rgnSel := rfl
@[simp] theorem modCore_tiles (s : State) (p : Nat) (f : Core → Core) : (modCore s p f).tiles = s.tiles := rfl
@[simp] theorem modCore_decks (s : State) (p : Nat) (f : Core → Core) : (modCore s p f).decks = s.decks := rfl
@[simp] theorem modCore_targets (s : State) (p : Nat) (f : Core → Core) : (modCore s p f).targets = s.targets := rfl
@[simp] theorem modCore_ptl (s : State) (p : Nat) (f : Core → Core) : (modCore s p f).ptl = s.ptl := rfl
@[simp] theorem modCore_prt (s : State) (p : Nat) (f : Core → Core) : (modCore s p f).prt = s.prt := rfl
@[simp] theorem modCore_asy (s : State) (p : Nat) (f : Core → Core) : (modCore s p f).asy = s.asy := rfl
@[simp] theorem modCore_bst (s : State) (p : Nat) (f : Core → Core) : (modCore s p f).bst = s.bst := rfl
@[simp] theorem modCore_hzl (s : State) (p : Nat) (f : Core → Core) : (modCore s p f).hzl = s.hzl := rfl
@[simp] theorem modCore_pcie (s : State) (p : Nat) (f : Core → Core) : (modCore s p f).pcie = s.pcie := rfl
@[simp] theorem modCore_flights (s : State) (p : Nat) (f : Core → Core) : (modCore s p f).flights = s.flights := rfl
@[simp] theorem modCore_snap (s : State) (p : Nat) (f : Core → Core) : (modCore s p f).snap = s.snap := rfl

/-! modEng changes engs only. -/

@[simp] theorem modEng_free (s : State) (e : Nat) (f : Eng → Eng) : (modEng s e f).free = s.free := rfl
@[simp] theorem modEng_alm (s : State) (e : Nat) (f : Eng → Eng) : (modEng s e f).alm = s.alm := rfl
@[simp] theorem modEng_rst (s : State) (e : Nat) (f : Eng → Eng) : (modEng s e f).rst = s.rst := rfl
@[simp] theorem modEng_pwr (s : State) (e : Nat) (f : Eng → Eng) : (modEng s e f).pwr = s.pwr := rfl
@[simp] theorem modEng_tol (s : State) (e : Nat) (f : Eng → Eng) : (modEng s e f).tol = s.tol := rfl
@[simp] theorem modEng_gpio (s : State) (e : Nat) (f : Eng → Eng) : (modEng s e f).gpio = s.gpio := rfl
@[simp] theorem modEng_smc (s : State) (e : Nat) (f : Eng → Eng) : (modEng s e f).smc = s.smc := rfl
@[simp] theorem modEng_fac (s : State) (e : Nat) (f : Eng → Eng) : (modEng s e f).fac = s.fac := rfl
@[simp] theorem modEng_cus (s : State) (e : Nat) (f : Eng → Eng) : (modEng s e f).cus = s.cus := rfl
@[simp] theorem modEng_mbx (s : State) (e : Nat) (f : Eng → Eng) : (modEng s e f).mbx = s.mbx := rfl
@[simp] theorem modEng_order (s : State) (e : Nat) (f : Eng → Eng) : (modEng s e f).order = s.order := rfl
@[simp] theorem modEng_gran (s : State) (e : Nat) (f : Eng → Eng) : (modEng s e f).gran = s.gran := rfl
@[simp] theorem modEng_granPage (s : State) (e : Nat) (f : Eng → Eng) : (modEng s e f).granPage = s.granPage := rfl
@[simp] theorem modEng_ldg (s : State) (e : Nat) (f : Eng → Eng) : (modEng s e f).ldg = s.ldg := rfl
@[simp] theorem modEng_regions (s : State) (e : Nat) (f : Eng → Eng) : (modEng s e f).regions = s.regions := rfl
@[simp] theorem modEng_rgnSel (s : State) (e : Nat) (f : Eng → Eng) : (modEng s e f).rgnSel = s.rgnSel := rfl
@[simp] theorem modEng_tiles (s : State) (e : Nat) (f : Eng → Eng) : (modEng s e f).tiles = s.tiles := rfl
@[simp] theorem modEng_decks (s : State) (e : Nat) (f : Eng → Eng) : (modEng s e f).decks = s.decks := rfl
@[simp] theorem modEng_targets (s : State) (e : Nat) (f : Eng → Eng) : (modEng s e f).targets = s.targets := rfl
@[simp] theorem modEng_cores (s : State) (e : Nat) (f : Eng → Eng) : (modEng s e f).cores = s.cores := rfl
@[simp] theorem modEng_ptl (s : State) (e : Nat) (f : Eng → Eng) : (modEng s e f).ptl = s.ptl := rfl
@[simp] theorem modEng_prt (s : State) (e : Nat) (f : Eng → Eng) : (modEng s e f).prt = s.prt := rfl
@[simp] theorem modEng_asy (s : State) (e : Nat) (f : Eng → Eng) : (modEng s e f).asy = s.asy := rfl
@[simp] theorem modEng_bst (s : State) (e : Nat) (f : Eng → Eng) : (modEng s e f).bst = s.bst := rfl
@[simp] theorem modEng_hzl (s : State) (e : Nat) (f : Eng → Eng) : (modEng s e f).hzl = s.hzl := rfl
@[simp] theorem modEng_pcie (s : State) (e : Nat) (f : Eng → Eng) : (modEng s e f).pcie = s.pcie := rfl
@[simp] theorem modEng_flights (s : State) (e : Nat) (f : Eng → Eng) : (modEng s e f).flights = s.flights := rfl
@[simp] theorem modEng_snap (s : State) (e : Nat) (f : Eng → Eng) : (modEng s e f).snap = s.snap := rfl

/-! modMb changes mbx only. -/

@[simp] theorem modMb_free (s : State) (p : Nat) (f : MbPage → MbPage) : (modMb s p f).free = s.free := rfl
@[simp] theorem modMb_alm (s : State) (p : Nat) (f : MbPage → MbPage) : (modMb s p f).alm = s.alm := rfl
@[simp] theorem modMb_rst (s : State) (p : Nat) (f : MbPage → MbPage) : (modMb s p f).rst = s.rst := rfl
@[simp] theorem modMb_pwr (s : State) (p : Nat) (f : MbPage → MbPage) : (modMb s p f).pwr = s.pwr := rfl
@[simp] theorem modMb_tol (s : State) (p : Nat) (f : MbPage → MbPage) : (modMb s p f).tol = s.tol := rfl
@[simp] theorem modMb_gpio (s : State) (p : Nat) (f : MbPage → MbPage) : (modMb s p f).gpio = s.gpio := rfl
@[simp] theorem modMb_smc (s : State) (p : Nat) (f : MbPage → MbPage) : (modMb s p f).smc = s.smc := rfl
@[simp] theorem modMb_fac (s : State) (p : Nat) (f : MbPage → MbPage) : (modMb s p f).fac = s.fac := rfl
@[simp] theorem modMb_cus (s : State) (p : Nat) (f : MbPage → MbPage) : (modMb s p f).cus = s.cus := rfl
@[simp] theorem modMb_order (s : State) (p : Nat) (f : MbPage → MbPage) : (modMb s p f).order = s.order := rfl
@[simp] theorem modMb_gran (s : State) (p : Nat) (f : MbPage → MbPage) : (modMb s p f).gran = s.gran := rfl
@[simp] theorem modMb_granPage (s : State) (p : Nat) (f : MbPage → MbPage) : (modMb s p f).granPage = s.granPage := rfl
@[simp] theorem modMb_ldg (s : State) (p : Nat) (f : MbPage → MbPage) : (modMb s p f).ldg = s.ldg := rfl
@[simp] theorem modMb_engs (s : State) (p : Nat) (f : MbPage → MbPage) : (modMb s p f).engs = s.engs := rfl
@[simp] theorem modMb_regions (s : State) (p : Nat) (f : MbPage → MbPage) : (modMb s p f).regions = s.regions := rfl
@[simp] theorem modMb_rgnSel (s : State) (p : Nat) (f : MbPage → MbPage) : (modMb s p f).rgnSel = s.rgnSel := rfl
@[simp] theorem modMb_tiles (s : State) (p : Nat) (f : MbPage → MbPage) : (modMb s p f).tiles = s.tiles := rfl
@[simp] theorem modMb_decks (s : State) (p : Nat) (f : MbPage → MbPage) : (modMb s p f).decks = s.decks := rfl
@[simp] theorem modMb_targets (s : State) (p : Nat) (f : MbPage → MbPage) : (modMb s p f).targets = s.targets := rfl
@[simp] theorem modMb_cores (s : State) (p : Nat) (f : MbPage → MbPage) : (modMb s p f).cores = s.cores := rfl
@[simp] theorem modMb_ptl (s : State) (p : Nat) (f : MbPage → MbPage) : (modMb s p f).ptl = s.ptl := rfl
@[simp] theorem modMb_prt (s : State) (p : Nat) (f : MbPage → MbPage) : (modMb s p f).prt = s.prt := rfl
@[simp] theorem modMb_asy (s : State) (p : Nat) (f : MbPage → MbPage) : (modMb s p f).asy = s.asy := rfl
@[simp] theorem modMb_bst (s : State) (p : Nat) (f : MbPage → MbPage) : (modMb s p f).bst = s.bst := rfl
@[simp] theorem modMb_hzl (s : State) (p : Nat) (f : MbPage → MbPage) : (modMb s p f).hzl = s.hzl := rfl
@[simp] theorem modMb_pcie (s : State) (p : Nat) (f : MbPage → MbPage) : (modMb s p f).pcie = s.pcie := rfl
@[simp] theorem modMb_flights (s : State) (p : Nat) (f : MbPage → MbPage) : (modMb s p f).flights = s.flights := rfl
@[simp] theorem modMb_snap (s : State) (p : Nat) (f : MbPage → MbPage) : (modMb s p f).snap = s.snap := rfl

/-! modPort changes hzl only. -/

@[simp] theorem modPort_free (s : State) (p : Nat) (f : Port → Port) : (modPort s p f).free = s.free := rfl
@[simp] theorem modPort_alm (s : State) (p : Nat) (f : Port → Port) : (modPort s p f).alm = s.alm := rfl
@[simp] theorem modPort_rst (s : State) (p : Nat) (f : Port → Port) : (modPort s p f).rst = s.rst := rfl
@[simp] theorem modPort_pwr (s : State) (p : Nat) (f : Port → Port) : (modPort s p f).pwr = s.pwr := rfl
@[simp] theorem modPort_tol (s : State) (p : Nat) (f : Port → Port) : (modPort s p f).tol = s.tol := rfl
@[simp] theorem modPort_gpio (s : State) (p : Nat) (f : Port → Port) : (modPort s p f).gpio = s.gpio := rfl
@[simp] theorem modPort_smc (s : State) (p : Nat) (f : Port → Port) : (modPort s p f).smc = s.smc := rfl
@[simp] theorem modPort_fac (s : State) (p : Nat) (f : Port → Port) : (modPort s p f).fac = s.fac := rfl
@[simp] theorem modPort_cus (s : State) (p : Nat) (f : Port → Port) : (modPort s p f).cus = s.cus := rfl
@[simp] theorem modPort_mbx (s : State) (p : Nat) (f : Port → Port) : (modPort s p f).mbx = s.mbx := rfl
@[simp] theorem modPort_order (s : State) (p : Nat) (f : Port → Port) : (modPort s p f).order = s.order := rfl
@[simp] theorem modPort_gran (s : State) (p : Nat) (f : Port → Port) : (modPort s p f).gran = s.gran := rfl
@[simp] theorem modPort_granPage (s : State) (p : Nat) (f : Port → Port) : (modPort s p f).granPage = s.granPage := rfl
@[simp] theorem modPort_ldg (s : State) (p : Nat) (f : Port → Port) : (modPort s p f).ldg = s.ldg := rfl
@[simp] theorem modPort_engs (s : State) (p : Nat) (f : Port → Port) : (modPort s p f).engs = s.engs := rfl
@[simp] theorem modPort_regions (s : State) (p : Nat) (f : Port → Port) : (modPort s p f).regions = s.regions := rfl
@[simp] theorem modPort_rgnSel (s : State) (p : Nat) (f : Port → Port) : (modPort s p f).rgnSel = s.rgnSel := rfl
@[simp] theorem modPort_tiles (s : State) (p : Nat) (f : Port → Port) : (modPort s p f).tiles = s.tiles := rfl
@[simp] theorem modPort_decks (s : State) (p : Nat) (f : Port → Port) : (modPort s p f).decks = s.decks := rfl
@[simp] theorem modPort_targets (s : State) (p : Nat) (f : Port → Port) : (modPort s p f).targets = s.targets := rfl
@[simp] theorem modPort_cores (s : State) (p : Nat) (f : Port → Port) : (modPort s p f).cores = s.cores := rfl
@[simp] theorem modPort_ptl (s : State) (p : Nat) (f : Port → Port) : (modPort s p f).ptl = s.ptl := rfl
@[simp] theorem modPort_prt (s : State) (p : Nat) (f : Port → Port) : (modPort s p f).prt = s.prt := rfl
@[simp] theorem modPort_asy (s : State) (p : Nat) (f : Port → Port) : (modPort s p f).asy = s.asy := rfl
@[simp] theorem modPort_bst (s : State) (p : Nat) (f : Port → Port) : (modPort s p f).bst = s.bst := rfl
@[simp] theorem modPort_pcie (s : State) (p : Nat) (f : Port → Port) : (modPort s p f).pcie = s.pcie := rfl
@[simp] theorem modPort_flights (s : State) (p : Nat) (f : Port → Port) : (modPort s p f).flights = s.flights := rfl
@[simp] theorem modPort_snap (s : State) (p : Nat) (f : Port → Port) : (modPort s p f).snap = s.snap := rfl

/-! modStack changes ptl only. -/

@[simp] theorem modStack_free (s : State) (i : Nat) (f : Stack → Stack) : (modStack s i f).free = s.free := rfl
@[simp] theorem modStack_alm (s : State) (i : Nat) (f : Stack → Stack) : (modStack s i f).alm = s.alm := rfl
@[simp] theorem modStack_rst (s : State) (i : Nat) (f : Stack → Stack) : (modStack s i f).rst = s.rst := rfl
@[simp] theorem modStack_pwr (s : State) (i : Nat) (f : Stack → Stack) : (modStack s i f).pwr = s.pwr := rfl
@[simp] theorem modStack_tol (s : State) (i : Nat) (f : Stack → Stack) : (modStack s i f).tol = s.tol := rfl
@[simp] theorem modStack_gpio (s : State) (i : Nat) (f : Stack → Stack) : (modStack s i f).gpio = s.gpio := rfl
@[simp] theorem modStack_smc (s : State) (i : Nat) (f : Stack → Stack) : (modStack s i f).smc = s.smc := rfl
@[simp] theorem modStack_fac (s : State) (i : Nat) (f : Stack → Stack) : (modStack s i f).fac = s.fac := rfl
@[simp] theorem modStack_cus (s : State) (i : Nat) (f : Stack → Stack) : (modStack s i f).cus = s.cus := rfl
@[simp] theorem modStack_mbx (s : State) (i : Nat) (f : Stack → Stack) : (modStack s i f).mbx = s.mbx := rfl
@[simp] theorem modStack_order (s : State) (i : Nat) (f : Stack → Stack) : (modStack s i f).order = s.order := rfl
@[simp] theorem modStack_gran (s : State) (i : Nat) (f : Stack → Stack) : (modStack s i f).gran = s.gran := rfl
@[simp] theorem modStack_granPage (s : State) (i : Nat) (f : Stack → Stack) : (modStack s i f).granPage = s.granPage := rfl
@[simp] theorem modStack_ldg (s : State) (i : Nat) (f : Stack → Stack) : (modStack s i f).ldg = s.ldg := rfl
@[simp] theorem modStack_engs (s : State) (i : Nat) (f : Stack → Stack) : (modStack s i f).engs = s.engs := rfl
@[simp] theorem modStack_regions (s : State) (i : Nat) (f : Stack → Stack) : (modStack s i f).regions = s.regions := rfl
@[simp] theorem modStack_rgnSel (s : State) (i : Nat) (f : Stack → Stack) : (modStack s i f).rgnSel = s.rgnSel := rfl
@[simp] theorem modStack_tiles (s : State) (i : Nat) (f : Stack → Stack) : (modStack s i f).tiles = s.tiles := rfl
@[simp] theorem modStack_decks (s : State) (i : Nat) (f : Stack → Stack) : (modStack s i f).decks = s.decks := rfl
@[simp] theorem modStack_targets (s : State) (i : Nat) (f : Stack → Stack) : (modStack s i f).targets = s.targets := rfl
@[simp] theorem modStack_cores (s : State) (i : Nat) (f : Stack → Stack) : (modStack s i f).cores = s.cores := rfl
@[simp] theorem modStack_prt (s : State) (i : Nat) (f : Stack → Stack) : (modStack s i f).prt = s.prt := rfl
@[simp] theorem modStack_asy (s : State) (i : Nat) (f : Stack → Stack) : (modStack s i f).asy = s.asy := rfl
@[simp] theorem modStack_bst (s : State) (i : Nat) (f : Stack → Stack) : (modStack s i f).bst = s.bst := rfl
@[simp] theorem modStack_hzl (s : State) (i : Nat) (f : Stack → Stack) : (modStack s i f).hzl = s.hzl := rfl
@[simp] theorem modStack_pcie (s : State) (i : Nat) (f : Stack → Stack) : (modStack s i f).pcie = s.pcie := rfl
@[simp] theorem modStack_flights (s : State) (i : Nat) (f : Stack → Stack) : (modStack s i f).flights = s.flights := rfl
@[simp] theorem modStack_snap (s : State) (i : Nat) (f : Stack → Stack) : (modStack s i f).snap = s.snap := rfl

/-! modGran changes gran only. -/

@[simp] theorem modGran_free (s : State) (k : Nat) (f : Gran → Gran) : (modGran s k f).free = s.free := rfl
@[simp] theorem modGran_alm (s : State) (k : Nat) (f : Gran → Gran) : (modGran s k f).alm = s.alm := rfl
@[simp] theorem modGran_rst (s : State) (k : Nat) (f : Gran → Gran) : (modGran s k f).rst = s.rst := rfl
@[simp] theorem modGran_pwr (s : State) (k : Nat) (f : Gran → Gran) : (modGran s k f).pwr = s.pwr := rfl
@[simp] theorem modGran_tol (s : State) (k : Nat) (f : Gran → Gran) : (modGran s k f).tol = s.tol := rfl
@[simp] theorem modGran_gpio (s : State) (k : Nat) (f : Gran → Gran) : (modGran s k f).gpio = s.gpio := rfl
@[simp] theorem modGran_smc (s : State) (k : Nat) (f : Gran → Gran) : (modGran s k f).smc = s.smc := rfl
@[simp] theorem modGran_fac (s : State) (k : Nat) (f : Gran → Gran) : (modGran s k f).fac = s.fac := rfl
@[simp] theorem modGran_cus (s : State) (k : Nat) (f : Gran → Gran) : (modGran s k f).cus = s.cus := rfl
@[simp] theorem modGran_mbx (s : State) (k : Nat) (f : Gran → Gran) : (modGran s k f).mbx = s.mbx := rfl
@[simp] theorem modGran_order (s : State) (k : Nat) (f : Gran → Gran) : (modGran s k f).order = s.order := rfl
@[simp] theorem modGran_granPage (s : State) (k : Nat) (f : Gran → Gran) : (modGran s k f).granPage = s.granPage := rfl
@[simp] theorem modGran_ldg (s : State) (k : Nat) (f : Gran → Gran) : (modGran s k f).ldg = s.ldg := rfl
@[simp] theorem modGran_engs (s : State) (k : Nat) (f : Gran → Gran) : (modGran s k f).engs = s.engs := rfl
@[simp] theorem modGran_regions (s : State) (k : Nat) (f : Gran → Gran) : (modGran s k f).regions = s.regions := rfl
@[simp] theorem modGran_rgnSel (s : State) (k : Nat) (f : Gran → Gran) : (modGran s k f).rgnSel = s.rgnSel := rfl
@[simp] theorem modGran_tiles (s : State) (k : Nat) (f : Gran → Gran) : (modGran s k f).tiles = s.tiles := rfl
@[simp] theorem modGran_decks (s : State) (k : Nat) (f : Gran → Gran) : (modGran s k f).decks = s.decks := rfl
@[simp] theorem modGran_targets (s : State) (k : Nat) (f : Gran → Gran) : (modGran s k f).targets = s.targets := rfl
@[simp] theorem modGran_cores (s : State) (k : Nat) (f : Gran → Gran) : (modGran s k f).cores = s.cores := rfl
@[simp] theorem modGran_ptl (s : State) (k : Nat) (f : Gran → Gran) : (modGran s k f).ptl = s.ptl := rfl
@[simp] theorem modGran_prt (s : State) (k : Nat) (f : Gran → Gran) : (modGran s k f).prt = s.prt := rfl
@[simp] theorem modGran_asy (s : State) (k : Nat) (f : Gran → Gran) : (modGran s k f).asy = s.asy := rfl
@[simp] theorem modGran_bst (s : State) (k : Nat) (f : Gran → Gran) : (modGran s k f).bst = s.bst := rfl
@[simp] theorem modGran_hzl (s : State) (k : Nat) (f : Gran → Gran) : (modGran s k f).hzl = s.hzl := rfl
@[simp] theorem modGran_pcie (s : State) (k : Nat) (f : Gran → Gran) : (modGran s k f).pcie = s.pcie := rfl
@[simp] theorem modGran_flights (s : State) (k : Nat) (f : Gran → Gran) : (modGran s k f).flights = s.flights := rfl
@[simp] theorem modGran_snap (s : State) (k : Nat) (f : Gran → Gran) : (modGran s k f).snap = s.snap := rfl

/-! mapMod changes ldg only. -/

@[simp] theorem mapMod_free (s : State) (c : Nat) (f : LdgEntry → LdgEntry) : (mapMod s c f).free = s.free := rfl
@[simp] theorem mapMod_alm (s : State) (c : Nat) (f : LdgEntry → LdgEntry) : (mapMod s c f).alm = s.alm := rfl
@[simp] theorem mapMod_rst (s : State) (c : Nat) (f : LdgEntry → LdgEntry) : (mapMod s c f).rst = s.rst := rfl
@[simp] theorem mapMod_pwr (s : State) (c : Nat) (f : LdgEntry → LdgEntry) : (mapMod s c f).pwr = s.pwr := rfl
@[simp] theorem mapMod_tol (s : State) (c : Nat) (f : LdgEntry → LdgEntry) : (mapMod s c f).tol = s.tol := rfl
@[simp] theorem mapMod_gpio (s : State) (c : Nat) (f : LdgEntry → LdgEntry) : (mapMod s c f).gpio = s.gpio := rfl
@[simp] theorem mapMod_smc (s : State) (c : Nat) (f : LdgEntry → LdgEntry) : (mapMod s c f).smc = s.smc := rfl
@[simp] theorem mapMod_fac (s : State) (c : Nat) (f : LdgEntry → LdgEntry) : (mapMod s c f).fac = s.fac := rfl
@[simp] theorem mapMod_cus (s : State) (c : Nat) (f : LdgEntry → LdgEntry) : (mapMod s c f).cus = s.cus := rfl
@[simp] theorem mapMod_mbx (s : State) (c : Nat) (f : LdgEntry → LdgEntry) : (mapMod s c f).mbx = s.mbx := rfl
@[simp] theorem mapMod_order (s : State) (c : Nat) (f : LdgEntry → LdgEntry) : (mapMod s c f).order = s.order := rfl
@[simp] theorem mapMod_gran (s : State) (c : Nat) (f : LdgEntry → LdgEntry) : (mapMod s c f).gran = s.gran := rfl
@[simp] theorem mapMod_granPage (s : State) (c : Nat) (f : LdgEntry → LdgEntry) : (mapMod s c f).granPage = s.granPage := rfl
@[simp] theorem mapMod_engs (s : State) (c : Nat) (f : LdgEntry → LdgEntry) : (mapMod s c f).engs = s.engs := rfl
@[simp] theorem mapMod_regions (s : State) (c : Nat) (f : LdgEntry → LdgEntry) : (mapMod s c f).regions = s.regions := rfl
@[simp] theorem mapMod_rgnSel (s : State) (c : Nat) (f : LdgEntry → LdgEntry) : (mapMod s c f).rgnSel = s.rgnSel := rfl
@[simp] theorem mapMod_tiles (s : State) (c : Nat) (f : LdgEntry → LdgEntry) : (mapMod s c f).tiles = s.tiles := rfl
@[simp] theorem mapMod_decks (s : State) (c : Nat) (f : LdgEntry → LdgEntry) : (mapMod s c f).decks = s.decks := rfl
@[simp] theorem mapMod_targets (s : State) (c : Nat) (f : LdgEntry → LdgEntry) : (mapMod s c f).targets = s.targets := rfl
@[simp] theorem mapMod_cores (s : State) (c : Nat) (f : LdgEntry → LdgEntry) : (mapMod s c f).cores = s.cores := rfl
@[simp] theorem mapMod_ptl (s : State) (c : Nat) (f : LdgEntry → LdgEntry) : (mapMod s c f).ptl = s.ptl := rfl
@[simp] theorem mapMod_prt (s : State) (c : Nat) (f : LdgEntry → LdgEntry) : (mapMod s c f).prt = s.prt := rfl
@[simp] theorem mapMod_asy (s : State) (c : Nat) (f : LdgEntry → LdgEntry) : (mapMod s c f).asy = s.asy := rfl
@[simp] theorem mapMod_bst (s : State) (c : Nat) (f : LdgEntry → LdgEntry) : (mapMod s c f).bst = s.bst := rfl
@[simp] theorem mapMod_hzl (s : State) (c : Nat) (f : LdgEntry → LdgEntry) : (mapMod s c f).hzl = s.hzl := rfl
@[simp] theorem mapMod_pcie (s : State) (c : Nat) (f : LdgEntry → LdgEntry) : (mapMod s c f).pcie = s.pcie := rfl
@[simp] theorem mapMod_flights (s : State) (c : Nat) (f : LdgEntry → LdgEntry) : (mapMod s c f).flights = s.flights := rfl
@[simp] theorem mapMod_snap (s : State) (c : Nat) (f : LdgEntry → LdgEntry) : (mapMod s c f).snap = s.snap := rfl

/-! freshen changes free only. -/

@[simp] theorem freshen_alm (s : State) : (freshen s).alm = s.alm := rfl
@[simp] theorem freshen_rst (s : State) : (freshen s).rst = s.rst := rfl
@[simp] theorem freshen_pwr (s : State) : (freshen s).pwr = s.pwr := rfl
@[simp] theorem freshen_tol (s : State) : (freshen s).tol = s.tol := rfl
@[simp] theorem freshen_gpio (s : State) : (freshen s).gpio = s.gpio := rfl
@[simp] theorem freshen_smc (s : State) : (freshen s).smc = s.smc := rfl
@[simp] theorem freshen_fac (s : State) : (freshen s).fac = s.fac := rfl
@[simp] theorem freshen_cus (s : State) : (freshen s).cus = s.cus := rfl
@[simp] theorem freshen_mbx (s : State) : (freshen s).mbx = s.mbx := rfl
@[simp] theorem freshen_order (s : State) : (freshen s).order = s.order := rfl
@[simp] theorem freshen_gran (s : State) : (freshen s).gran = s.gran := rfl
@[simp] theorem freshen_granPage (s : State) : (freshen s).granPage = s.granPage := rfl
@[simp] theorem freshen_ldg (s : State) : (freshen s).ldg = s.ldg := rfl
@[simp] theorem freshen_engs (s : State) : (freshen s).engs = s.engs := rfl
@[simp] theorem freshen_regions (s : State) : (freshen s).regions = s.regions := rfl
@[simp] theorem freshen_rgnSel (s : State) : (freshen s).rgnSel = s.rgnSel := rfl
@[simp] theorem freshen_tiles (s : State) : (freshen s).tiles = s.tiles := rfl
@[simp] theorem freshen_decks (s : State) : (freshen s).decks = s.decks := rfl
@[simp] theorem freshen_targets (s : State) : (freshen s).targets = s.targets := rfl
@[simp] theorem freshen_cores (s : State) : (freshen s).cores = s.cores := rfl
@[simp] theorem freshen_ptl (s : State) : (freshen s).ptl = s.ptl := rfl
@[simp] theorem freshen_prt (s : State) : (freshen s).prt = s.prt := rfl
@[simp] theorem freshen_asy (s : State) : (freshen s).asy = s.asy := rfl
@[simp] theorem freshen_bst (s : State) : (freshen s).bst = s.bst := rfl
@[simp] theorem freshen_hzl (s : State) : (freshen s).hzl = s.hzl := rfl
@[simp] theorem freshen_pcie (s : State) : (freshen s).pcie = s.pcie := rfl
@[simp] theorem freshen_flights (s : State) : (freshen s).flights = s.flights := rfl
@[simp] theorem freshen_snap (s : State) : (freshen s).snap = s.snap := rfl

/-! memMod changes mem only. -/

@[simp] theorem memMod_free (s : State) (f : Memory → Memory) : (memMod s f).free = s.free := rfl
@[simp] theorem memMod_alm (s : State) (f : Memory → Memory) : (memMod s f).alm = s.alm := rfl
@[simp] theorem memMod_rst (s : State) (f : Memory → Memory) : (memMod s f).rst = s.rst := rfl
@[simp] theorem memMod_pwr (s : State) (f : Memory → Memory) : (memMod s f).pwr = s.pwr := rfl
@[simp] theorem memMod_tol (s : State) (f : Memory → Memory) : (memMod s f).tol = s.tol := rfl
@[simp] theorem memMod_gpio (s : State) (f : Memory → Memory) : (memMod s f).gpio = s.gpio := rfl
@[simp] theorem memMod_smc (s : State) (f : Memory → Memory) : (memMod s f).smc = s.smc := rfl
@[simp] theorem memMod_fac (s : State) (f : Memory → Memory) : (memMod s f).fac = s.fac := rfl
@[simp] theorem memMod_cus (s : State) (f : Memory → Memory) : (memMod s f).cus = s.cus := rfl
@[simp] theorem memMod_mbx (s : State) (f : Memory → Memory) : (memMod s f).mbx = s.mbx := rfl
@[simp] theorem memMod_order (s : State) (f : Memory → Memory) : (memMod s f).order = s.order := rfl
@[simp] theorem memMod_gran (s : State) (f : Memory → Memory) : (memMod s f).gran = s.gran := rfl
@[simp] theorem memMod_granPage (s : State) (f : Memory → Memory) : (memMod s f).granPage = s.granPage := rfl
@[simp] theorem memMod_ldg (s : State) (f : Memory → Memory) : (memMod s f).ldg = s.ldg := rfl
@[simp] theorem memMod_engs (s : State) (f : Memory → Memory) : (memMod s f).engs = s.engs := rfl
@[simp] theorem memMod_regions (s : State) (f : Memory → Memory) : (memMod s f).regions = s.regions := rfl
@[simp] theorem memMod_rgnSel (s : State) (f : Memory → Memory) : (memMod s f).rgnSel = s.rgnSel := rfl
@[simp] theorem memMod_tiles (s : State) (f : Memory → Memory) : (memMod s f).tiles = s.tiles := rfl
@[simp] theorem memMod_decks (s : State) (f : Memory → Memory) : (memMod s f).decks = s.decks := rfl
@[simp] theorem memMod_targets (s : State) (f : Memory → Memory) : (memMod s f).targets = s.targets := rfl
@[simp] theorem memMod_cores (s : State) (f : Memory → Memory) : (memMod s f).cores = s.cores := rfl
@[simp] theorem memMod_ptl (s : State) (f : Memory → Memory) : (memMod s f).ptl = s.ptl := rfl
@[simp] theorem memMod_prt (s : State) (f : Memory → Memory) : (memMod s f).prt = s.prt := rfl
@[simp] theorem memMod_asy (s : State) (f : Memory → Memory) : (memMod s f).asy = s.asy := rfl
@[simp] theorem memMod_bst (s : State) (f : Memory → Memory) : (memMod s f).bst = s.bst := rfl
@[simp] theorem memMod_hzl (s : State) (f : Memory → Memory) : (memMod s f).hzl = s.hzl := rfl
@[simp] theorem memMod_pcie (s : State) (f : Memory → Memory) : (memMod s f).pcie = s.pcie := rfl
@[simp] theorem memMod_flights (s : State) (f : Memory → Memory) : (memMod s f).flights = s.flights := rfl
@[simp] theorem memMod_snap (s : State) (f : Memory → Memory) : (memMod s f).snap = s.snap := rfl

/-! almMod changes alm only. -/

@[simp] theorem almMod_free (s : State) (f : Alm → Alm) : (almMod s f).free = s.free := rfl
@[simp] theorem almMod_rst (s : State) (f : Alm → Alm) : (almMod s f).rst = s.rst := rfl
@[simp] theorem almMod_pwr (s : State) (f : Alm → Alm) : (almMod s f).pwr = s.pwr := rfl
@[simp] theorem almMod_tol (s : State) (f : Alm → Alm) : (almMod s f).tol = s.tol := rfl
@[simp] theorem almMod_gpio (s : State) (f : Alm → Alm) : (almMod s f).gpio = s.gpio := rfl
@[simp] theorem almMod_smc (s : State) (f : Alm → Alm) : (almMod s f).smc = s.smc := rfl
@[simp] theorem almMod_fac (s : State) (f : Alm → Alm) : (almMod s f).fac = s.fac := rfl
@[simp] theorem almMod_cus (s : State) (f : Alm → Alm) : (almMod s f).cus = s.cus := rfl
@[simp] theorem almMod_mbx (s : State) (f : Alm → Alm) : (almMod s f).mbx = s.mbx := rfl
@[simp] theorem almMod_order (s : State) (f : Alm → Alm) : (almMod s f).order = s.order := rfl
@[simp] theorem almMod_gran (s : State) (f : Alm → Alm) : (almMod s f).gran = s.gran := rfl
@[simp] theorem almMod_granPage (s : State) (f : Alm → Alm) : (almMod s f).granPage = s.granPage := rfl
@[simp] theorem almMod_ldg (s : State) (f : Alm → Alm) : (almMod s f).ldg = s.ldg := rfl
@[simp] theorem almMod_engs (s : State) (f : Alm → Alm) : (almMod s f).engs = s.engs := rfl
@[simp] theorem almMod_regions (s : State) (f : Alm → Alm) : (almMod s f).regions = s.regions := rfl
@[simp] theorem almMod_rgnSel (s : State) (f : Alm → Alm) : (almMod s f).rgnSel = s.rgnSel := rfl
@[simp] theorem almMod_tiles (s : State) (f : Alm → Alm) : (almMod s f).tiles = s.tiles := rfl
@[simp] theorem almMod_decks (s : State) (f : Alm → Alm) : (almMod s f).decks = s.decks := rfl
@[simp] theorem almMod_targets (s : State) (f : Alm → Alm) : (almMod s f).targets = s.targets := rfl
@[simp] theorem almMod_cores (s : State) (f : Alm → Alm) : (almMod s f).cores = s.cores := rfl
@[simp] theorem almMod_ptl (s : State) (f : Alm → Alm) : (almMod s f).ptl = s.ptl := rfl
@[simp] theorem almMod_prt (s : State) (f : Alm → Alm) : (almMod s f).prt = s.prt := rfl
@[simp] theorem almMod_asy (s : State) (f : Alm → Alm) : (almMod s f).asy = s.asy := rfl
@[simp] theorem almMod_bst (s : State) (f : Alm → Alm) : (almMod s f).bst = s.bst := rfl
@[simp] theorem almMod_hzl (s : State) (f : Alm → Alm) : (almMod s f).hzl = s.hzl := rfl
@[simp] theorem almMod_pcie (s : State) (f : Alm → Alm) : (almMod s f).pcie = s.pcie := rfl
@[simp] theorem almMod_flights (s : State) (f : Alm → Alm) : (almMod s f).flights = s.flights := rfl
@[simp] theorem almMod_snap (s : State) (f : Alm → Alm) : (almMod s f).snap = s.snap := rfl

/-! bstMod changes bst only. -/

@[simp] theorem bstMod_free (s : State) (f : Bst → Bst) : (bstMod s f).free = s.free := rfl
@[simp] theorem bstMod_alm (s : State) (f : Bst → Bst) : (bstMod s f).alm = s.alm := rfl
@[simp] theorem bstMod_rst (s : State) (f : Bst → Bst) : (bstMod s f).rst = s.rst := rfl
@[simp] theorem bstMod_pwr (s : State) (f : Bst → Bst) : (bstMod s f).pwr = s.pwr := rfl
@[simp] theorem bstMod_tol (s : State) (f : Bst → Bst) : (bstMod s f).tol = s.tol := rfl
@[simp] theorem bstMod_gpio (s : State) (f : Bst → Bst) : (bstMod s f).gpio = s.gpio := rfl
@[simp] theorem bstMod_smc (s : State) (f : Bst → Bst) : (bstMod s f).smc = s.smc := rfl
@[simp] theorem bstMod_fac (s : State) (f : Bst → Bst) : (bstMod s f).fac = s.fac := rfl
@[simp] theorem bstMod_cus (s : State) (f : Bst → Bst) : (bstMod s f).cus = s.cus := rfl
@[simp] theorem bstMod_mbx (s : State) (f : Bst → Bst) : (bstMod s f).mbx = s.mbx := rfl
@[simp] theorem bstMod_order (s : State) (f : Bst → Bst) : (bstMod s f).order = s.order := rfl
@[simp] theorem bstMod_gran (s : State) (f : Bst → Bst) : (bstMod s f).gran = s.gran := rfl
@[simp] theorem bstMod_granPage (s : State) (f : Bst → Bst) : (bstMod s f).granPage = s.granPage := rfl
@[simp] theorem bstMod_ldg (s : State) (f : Bst → Bst) : (bstMod s f).ldg = s.ldg := rfl
@[simp] theorem bstMod_engs (s : State) (f : Bst → Bst) : (bstMod s f).engs = s.engs := rfl
@[simp] theorem bstMod_regions (s : State) (f : Bst → Bst) : (bstMod s f).regions = s.regions := rfl
@[simp] theorem bstMod_rgnSel (s : State) (f : Bst → Bst) : (bstMod s f).rgnSel = s.rgnSel := rfl
@[simp] theorem bstMod_tiles (s : State) (f : Bst → Bst) : (bstMod s f).tiles = s.tiles := rfl
@[simp] theorem bstMod_decks (s : State) (f : Bst → Bst) : (bstMod s f).decks = s.decks := rfl
@[simp] theorem bstMod_targets (s : State) (f : Bst → Bst) : (bstMod s f).targets = s.targets := rfl
@[simp] theorem bstMod_cores (s : State) (f : Bst → Bst) : (bstMod s f).cores = s.cores := rfl
@[simp] theorem bstMod_ptl (s : State) (f : Bst → Bst) : (bstMod s f).ptl = s.ptl := rfl
@[simp] theorem bstMod_prt (s : State) (f : Bst → Bst) : (bstMod s f).prt = s.prt := rfl
@[simp] theorem bstMod_asy (s : State) (f : Bst → Bst) : (bstMod s f).asy = s.asy := rfl
@[simp] theorem bstMod_hzl (s : State) (f : Bst → Bst) : (bstMod s f).hzl = s.hzl := rfl
@[simp] theorem bstMod_pcie (s : State) (f : Bst → Bst) : (bstMod s f).pcie = s.pcie := rfl
@[simp] theorem bstMod_flights (s : State) (f : Bst → Bst) : (bstMod s f).flights = s.flights := rfl
@[simp] theorem bstMod_snap (s : State) (f : Bst → Bst) : (bstMod s f).snap = s.snap := rfl

/-! cusMod changes cus only. -/

@[simp] theorem cusMod_free (s : State) (f : Cus → Cus) : (cusMod s f).free = s.free := rfl
@[simp] theorem cusMod_alm (s : State) (f : Cus → Cus) : (cusMod s f).alm = s.alm := rfl
@[simp] theorem cusMod_rst (s : State) (f : Cus → Cus) : (cusMod s f).rst = s.rst := rfl
@[simp] theorem cusMod_pwr (s : State) (f : Cus → Cus) : (cusMod s f).pwr = s.pwr := rfl
@[simp] theorem cusMod_tol (s : State) (f : Cus → Cus) : (cusMod s f).tol = s.tol := rfl
@[simp] theorem cusMod_gpio (s : State) (f : Cus → Cus) : (cusMod s f).gpio = s.gpio := rfl
@[simp] theorem cusMod_smc (s : State) (f : Cus → Cus) : (cusMod s f).smc = s.smc := rfl
@[simp] theorem cusMod_fac (s : State) (f : Cus → Cus) : (cusMod s f).fac = s.fac := rfl
@[simp] theorem cusMod_mbx (s : State) (f : Cus → Cus) : (cusMod s f).mbx = s.mbx := rfl
@[simp] theorem cusMod_order (s : State) (f : Cus → Cus) : (cusMod s f).order = s.order := rfl
@[simp] theorem cusMod_gran (s : State) (f : Cus → Cus) : (cusMod s f).gran = s.gran := rfl
@[simp] theorem cusMod_granPage (s : State) (f : Cus → Cus) : (cusMod s f).granPage = s.granPage := rfl
@[simp] theorem cusMod_ldg (s : State) (f : Cus → Cus) : (cusMod s f).ldg = s.ldg := rfl
@[simp] theorem cusMod_engs (s : State) (f : Cus → Cus) : (cusMod s f).engs = s.engs := rfl
@[simp] theorem cusMod_regions (s : State) (f : Cus → Cus) : (cusMod s f).regions = s.regions := rfl
@[simp] theorem cusMod_rgnSel (s : State) (f : Cus → Cus) : (cusMod s f).rgnSel = s.rgnSel := rfl
@[simp] theorem cusMod_tiles (s : State) (f : Cus → Cus) : (cusMod s f).tiles = s.tiles := rfl
@[simp] theorem cusMod_decks (s : State) (f : Cus → Cus) : (cusMod s f).decks = s.decks := rfl
@[simp] theorem cusMod_targets (s : State) (f : Cus → Cus) : (cusMod s f).targets = s.targets := rfl
@[simp] theorem cusMod_cores (s : State) (f : Cus → Cus) : (cusMod s f).cores = s.cores := rfl
@[simp] theorem cusMod_ptl (s : State) (f : Cus → Cus) : (cusMod s f).ptl = s.ptl := rfl
@[simp] theorem cusMod_prt (s : State) (f : Cus → Cus) : (cusMod s f).prt = s.prt := rfl
@[simp] theorem cusMod_asy (s : State) (f : Cus → Cus) : (cusMod s f).asy = s.asy := rfl
@[simp] theorem cusMod_bst (s : State) (f : Cus → Cus) : (cusMod s f).bst = s.bst := rfl
@[simp] theorem cusMod_hzl (s : State) (f : Cus → Cus) : (cusMod s f).hzl = s.hzl := rfl
@[simp] theorem cusMod_pcie (s : State) (f : Cus → Cus) : (cusMod s f).pcie = s.pcie := rfl
@[simp] theorem cusMod_flights (s : State) (f : Cus → Cus) : (cusMod s f).flights = s.flights := rfl
@[simp] theorem cusMod_snap (s : State) (f : Cus → Cus) : (cusMod s f).snap = s.snap := rfl

/-! pwrMod changes pwr only. -/

@[simp] theorem pwrMod_free (s : State) (f : Pwr → Pwr) : (pwrMod s f).free = s.free := rfl
@[simp] theorem pwrMod_alm (s : State) (f : Pwr → Pwr) : (pwrMod s f).alm = s.alm := rfl
@[simp] theorem pwrMod_rst (s : State) (f : Pwr → Pwr) : (pwrMod s f).rst = s.rst := rfl
@[simp] theorem pwrMod_tol (s : State) (f : Pwr → Pwr) : (pwrMod s f).tol = s.tol := rfl
@[simp] theorem pwrMod_gpio (s : State) (f : Pwr → Pwr) : (pwrMod s f).gpio = s.gpio := rfl
@[simp] theorem pwrMod_smc (s : State) (f : Pwr → Pwr) : (pwrMod s f).smc = s.smc := rfl
@[simp] theorem pwrMod_fac (s : State) (f : Pwr → Pwr) : (pwrMod s f).fac = s.fac := rfl
@[simp] theorem pwrMod_cus (s : State) (f : Pwr → Pwr) : (pwrMod s f).cus = s.cus := rfl
@[simp] theorem pwrMod_mbx (s : State) (f : Pwr → Pwr) : (pwrMod s f).mbx = s.mbx := rfl
@[simp] theorem pwrMod_order (s : State) (f : Pwr → Pwr) : (pwrMod s f).order = s.order := rfl
@[simp] theorem pwrMod_gran (s : State) (f : Pwr → Pwr) : (pwrMod s f).gran = s.gran := rfl
@[simp] theorem pwrMod_granPage (s : State) (f : Pwr → Pwr) : (pwrMod s f).granPage = s.granPage := rfl
@[simp] theorem pwrMod_ldg (s : State) (f : Pwr → Pwr) : (pwrMod s f).ldg = s.ldg := rfl
@[simp] theorem pwrMod_engs (s : State) (f : Pwr → Pwr) : (pwrMod s f).engs = s.engs := rfl
@[simp] theorem pwrMod_regions (s : State) (f : Pwr → Pwr) : (pwrMod s f).regions = s.regions := rfl
@[simp] theorem pwrMod_rgnSel (s : State) (f : Pwr → Pwr) : (pwrMod s f).rgnSel = s.rgnSel := rfl
@[simp] theorem pwrMod_tiles (s : State) (f : Pwr → Pwr) : (pwrMod s f).tiles = s.tiles := rfl
@[simp] theorem pwrMod_decks (s : State) (f : Pwr → Pwr) : (pwrMod s f).decks = s.decks := rfl
@[simp] theorem pwrMod_targets (s : State) (f : Pwr → Pwr) : (pwrMod s f).targets = s.targets := rfl
@[simp] theorem pwrMod_cores (s : State) (f : Pwr → Pwr) : (pwrMod s f).cores = s.cores := rfl
@[simp] theorem pwrMod_ptl (s : State) (f : Pwr → Pwr) : (pwrMod s f).ptl = s.ptl := rfl
@[simp] theorem pwrMod_prt (s : State) (f : Pwr → Pwr) : (pwrMod s f).prt = s.prt := rfl
@[simp] theorem pwrMod_asy (s : State) (f : Pwr → Pwr) : (pwrMod s f).asy = s.asy := rfl
@[simp] theorem pwrMod_bst (s : State) (f : Pwr → Pwr) : (pwrMod s f).bst = s.bst := rfl
@[simp] theorem pwrMod_hzl (s : State) (f : Pwr → Pwr) : (pwrMod s f).hzl = s.hzl := rfl
@[simp] theorem pwrMod_pcie (s : State) (f : Pwr → Pwr) : (pwrMod s f).pcie = s.pcie := rfl
@[simp] theorem pwrMod_flights (s : State) (f : Pwr → Pwr) : (pwrMod s f).flights = s.flights := rfl
@[simp] theorem pwrMod_snap (s : State) (f : Pwr → Pwr) : (pwrMod s f).snap = s.snap := rfl

/-! smcMod changes smc only. -/

@[simp] theorem smcMod_free (s : State) (f : Smc → Smc) : (smcMod s f).free = s.free := rfl
@[simp] theorem smcMod_alm (s : State) (f : Smc → Smc) : (smcMod s f).alm = s.alm := rfl
@[simp] theorem smcMod_rst (s : State) (f : Smc → Smc) : (smcMod s f).rst = s.rst := rfl
@[simp] theorem smcMod_pwr (s : State) (f : Smc → Smc) : (smcMod s f).pwr = s.pwr := rfl
@[simp] theorem smcMod_tol (s : State) (f : Smc → Smc) : (smcMod s f).tol = s.tol := rfl
@[simp] theorem smcMod_gpio (s : State) (f : Smc → Smc) : (smcMod s f).gpio = s.gpio := rfl
@[simp] theorem smcMod_fac (s : State) (f : Smc → Smc) : (smcMod s f).fac = s.fac := rfl
@[simp] theorem smcMod_cus (s : State) (f : Smc → Smc) : (smcMod s f).cus = s.cus := rfl
@[simp] theorem smcMod_mbx (s : State) (f : Smc → Smc) : (smcMod s f).mbx = s.mbx := rfl
@[simp] theorem smcMod_order (s : State) (f : Smc → Smc) : (smcMod s f).order = s.order := rfl
@[simp] theorem smcMod_gran (s : State) (f : Smc → Smc) : (smcMod s f).gran = s.gran := rfl
@[simp] theorem smcMod_granPage (s : State) (f : Smc → Smc) : (smcMod s f).granPage = s.granPage := rfl
@[simp] theorem smcMod_ldg (s : State) (f : Smc → Smc) : (smcMod s f).ldg = s.ldg := rfl
@[simp] theorem smcMod_engs (s : State) (f : Smc → Smc) : (smcMod s f).engs = s.engs := rfl
@[simp] theorem smcMod_regions (s : State) (f : Smc → Smc) : (smcMod s f).regions = s.regions := rfl
@[simp] theorem smcMod_rgnSel (s : State) (f : Smc → Smc) : (smcMod s f).rgnSel = s.rgnSel := rfl
@[simp] theorem smcMod_tiles (s : State) (f : Smc → Smc) : (smcMod s f).tiles = s.tiles := rfl
@[simp] theorem smcMod_decks (s : State) (f : Smc → Smc) : (smcMod s f).decks = s.decks := rfl
@[simp] theorem smcMod_targets (s : State) (f : Smc → Smc) : (smcMod s f).targets = s.targets := rfl
@[simp] theorem smcMod_cores (s : State) (f : Smc → Smc) : (smcMod s f).cores = s.cores := rfl
@[simp] theorem smcMod_ptl (s : State) (f : Smc → Smc) : (smcMod s f).ptl = s.ptl := rfl
@[simp] theorem smcMod_prt (s : State) (f : Smc → Smc) : (smcMod s f).prt = s.prt := rfl
@[simp] theorem smcMod_asy (s : State) (f : Smc → Smc) : (smcMod s f).asy = s.asy := rfl
@[simp] theorem smcMod_bst (s : State) (f : Smc → Smc) : (smcMod s f).bst = s.bst := rfl
@[simp] theorem smcMod_hzl (s : State) (f : Smc → Smc) : (smcMod s f).hzl = s.hzl := rfl
@[simp] theorem smcMod_pcie (s : State) (f : Smc → Smc) : (smcMod s f).pcie = s.pcie := rfl
@[simp] theorem smcMod_flights (s : State) (f : Smc → Smc) : (smcMod s f).flights = s.flights := rfl
@[simp] theorem smcMod_snap (s : State) (f : Smc → Smc) : (smcMod s f).snap = s.snap := rfl

/-! setResp changes pcie only. -/

@[simp] theorem setResp_free (s : State) (r : HostResp) : (setResp s r).free = s.free := rfl
@[simp] theorem setResp_alm (s : State) (r : HostResp) : (setResp s r).alm = s.alm := rfl
@[simp] theorem setResp_rst (s : State) (r : HostResp) : (setResp s r).rst = s.rst := rfl
@[simp] theorem setResp_pwr (s : State) (r : HostResp) : (setResp s r).pwr = s.pwr := rfl
@[simp] theorem setResp_tol (s : State) (r : HostResp) : (setResp s r).tol = s.tol := rfl
@[simp] theorem setResp_gpio (s : State) (r : HostResp) : (setResp s r).gpio = s.gpio := rfl
@[simp] theorem setResp_smc (s : State) (r : HostResp) : (setResp s r).smc = s.smc := rfl
@[simp] theorem setResp_fac (s : State) (r : HostResp) : (setResp s r).fac = s.fac := rfl
@[simp] theorem setResp_cus (s : State) (r : HostResp) : (setResp s r).cus = s.cus := rfl
@[simp] theorem setResp_mbx (s : State) (r : HostResp) : (setResp s r).mbx = s.mbx := rfl
@[simp] theorem setResp_order (s : State) (r : HostResp) : (setResp s r).order = s.order := rfl
@[simp] theorem setResp_gran (s : State) (r : HostResp) : (setResp s r).gran = s.gran := rfl
@[simp] theorem setResp_granPage (s : State) (r : HostResp) : (setResp s r).granPage = s.granPage := rfl
@[simp] theorem setResp_ldg (s : State) (r : HostResp) : (setResp s r).ldg = s.ldg := rfl
@[simp] theorem setResp_engs (s : State) (r : HostResp) : (setResp s r).engs = s.engs := rfl
@[simp] theorem setResp_regions (s : State) (r : HostResp) : (setResp s r).regions = s.regions := rfl
@[simp] theorem setResp_rgnSel (s : State) (r : HostResp) : (setResp s r).rgnSel = s.rgnSel := rfl
@[simp] theorem setResp_tiles (s : State) (r : HostResp) : (setResp s r).tiles = s.tiles := rfl
@[simp] theorem setResp_decks (s : State) (r : HostResp) : (setResp s r).decks = s.decks := rfl
@[simp] theorem setResp_targets (s : State) (r : HostResp) : (setResp s r).targets = s.targets := rfl
@[simp] theorem setResp_cores (s : State) (r : HostResp) : (setResp s r).cores = s.cores := rfl
@[simp] theorem setResp_ptl (s : State) (r : HostResp) : (setResp s r).ptl = s.ptl := rfl
@[simp] theorem setResp_prt (s : State) (r : HostResp) : (setResp s r).prt = s.prt := rfl
@[simp] theorem setResp_asy (s : State) (r : HostResp) : (setResp s r).asy = s.asy := rfl
@[simp] theorem setResp_bst (s : State) (r : HostResp) : (setResp s r).bst = s.bst := rfl
@[simp] theorem setResp_hzl (s : State) (r : HostResp) : (setResp s r).hzl = s.hzl := rfl
@[simp] theorem setResp_snap (s : State) (r : HostResp) : (setResp s r).snap = s.snap := rfl
@[simp] theorem setResp_flights (s : State) (r : HostResp) : (setResp s r).flights = s.flights := rfl

end Sys2Proof.Machine
end

