-- ==== Sys2Proof/Tests/Slice0.lean ====
section
/-! SUPPORT. The author's own tests: the well-formedness checks refuse what they should, small steps with results from the spec, and for each
statement a state and operands that meet its hypotheses. -/

open Sys2Proof Sys2Proof.Machine

namespace Sys2Proof.Tests

set_option Elab.async false

/-! ## States the tests start from -/

/-- A device whose Factor takes messages: the loop locked, aligned as its own master, the stacked memory in service. -/
def up : State :=
  { State.reset with
    alm := { pllLock := true, aligned := true, master := true, beat := 1000 }
    rst := { loading := false }
    fac := { up := true, running := true, slot := some 0 }
    ptl := { stDone := true, inservice := true } }

/-- Word 0 of a request of mailbox `mb` with `n` payload words. -/
def word0 (op n : Nat) (mb : Mb) : Word := packWord [(op, 0, 8), (0x5A, 8, 8), (mb.val, 16, 5), (n, 21, 4)]

/-- A message posted in the first slot of a page. -/
def posted (s : State) (mb : Mb) (op : Nat) (payload : List Word) : State :=
  modMb s mb fun p => { p with pi := 1, inRing := ssetRun 0 [] 0 (word0 op payload.length mb :: payload) }

/-- Engagement 3 as `g` says, bound to consignor 2. -/
def eng3 (g : Eng) : State := modEng up 3 fun _ => { g with bound := 4 }

/-- A tenant's tenancy with its session in the tunnel of consignor 2. -/
def held (s : State) : State :=
  { s with cus := { s.cus with tenancy := .held, tenantId := 7, conf := true, conns := [{ port := .tunnel 2, sessions := [(9, some 7)] }] } }

/-- Granule `k` assigned to consignor 2 with a flag, backed by page 5. -/
def withGran (s : State) (k : Nat) (flag : BitVec 2) : State :=
  { modGran s k (fun _ => { flag := flag, cid := 2 }) with granPage := sput s.granPage (k / 32) 5 }

/-! ## Witnesses: a state and operands that meet the hypotheses of each statement -/

theorem test_witness_StepRunsTheFrontCommand : (queued .relock up).pending = .relock :: [] := by decide +kernel
theorem test_witness_EmptyQueuePassesABeat : up.pending = [] ∧ State.reset.alm.pllLock = false ∧ State.reset.pending = [] := by decide +kernel
theorem test_witness_CommandsComplete : ∀ d, Instr.relock ≠ .debugPortAccess d := by intro d h; cases h
theorem test_witness_CommandsLeaveTheQueue : ∃ t, exec .relock up = .next t := ⟨_, rfl⟩
theorem test_witness_QueueIsConsumedInOrder : QueueOk (queued .relock up) ∧ ∃ t, step (queued .relock up) = .next t := by
  refine ⟨?_, _, rfl⟩
  unfold QueueOk
  decide +kernel
theorem test_witness_StepsKeepMemoryCanonical : MemoryOk (queued .relock (wsWrite up 0 100 [(7, true)])) ∧
    ∃ t, step (queued .relock (wsWrite up 0 100 [(7, true)])) = .next t := by
  refine ⟨?_, _, rfl⟩
  unfold MemoryOk
  decide +kernel

theorem test_witness_MessagesAreAnswered_reply :
    outFull (getMb up 2) = false ∧ (getMb up 2).held = [] ∧ owesOld (getMb up 2) = false ∧ up.fac.up = true ∧ (getMb up 2).irqEn = false := by decide +kernel
theorem test_witness_MessagesAreAnswered_refused : let s := posted up 2 0x01 [0x10000]
    msgPosted s 2 = true ∧ msgOpcode (msgAt s 2) = 0x01 ∧ entryStatus s 2 (msgAt s 2) ≠ stOk := by decide +kernel
theorem test_witness_MessagesAreAnswered_undefined : let s := posted up 2 0xEE []
    msgPosted s 2 = true ∧ opMasks (msgOpcode (msgAt s 2)) = none := by decide +kernel

theorem test_witness_QueriesAreAnswered_hello : Accepted (posted up 2 0x01 [0x0100]) 2 0x01 := by unfold Accepted; decide +kernel
theorem test_witness_QueriesAreAnswered_health : Accepted (posted up 16 0x31 []) 16 0x31 := by unfold Accepted; decide +kernel
theorem test_witness_QueriesAreAnswered_verify : Accepted (posted (eng3 { st := .ready }) 2 0x11 [3]) 2 0x11 := by unfold Accepted; decide +kernel
theorem test_witness_QueriesAreAnswered_ledger :
    Accepted (posted (withGran up 1 granDevice) 2 0x30 [0x40, 0x10000, 0x1000]) 2 0x30 := by unfold Accepted; decide +kernel
theorem test_witness_QueriesAreAnswered_errors :
    Accepted (posted (withGran up 1 granDevice) 2 0x32 [0, 0x10000, 4]) 2 0x32 := by unfold Accepted; decide +kernel

theorem test_witness_Hints_powerHint : Accepted (posted up 2 0x60 [1, 50]) 2 0x60 ∧ bitsOf (wordAt (msgAt (posted up 2 0x60 [1, 50]) 2) 1) 0 2 < 2 := by
  unfold Accepted; decide +kernel
theorem test_witness_Hints_consent : let s := posted (held up) 2 0x70 [5, 1]
    Accepted s 2 0x70 ∧ tenantRights (taken s 2) 2 = true ∧ wordAt (msgAt s 2) 1 < 16 := by unfold Accepted; decide +kernel
theorem test_witness_Hints_release : let s := posted (eng3 { st := .ready }) 2 0x03 [3]
    let t := modEng (pushRec (stopEngProgramming (abortCons (taken s 2) 3) 3) 2 (msgAt s 2) { opcode := 0, seq := 0, eng := 3, grans := [] }) 3
      fun g => { g with bound := 0 }
    Accepted s 2 0x03 ∧ engField (msgAt s 2) = 3 ∧ hasItins t 3 = false := by unfold Accepted; decide +kernel
theorem test_witness_Hints_resetEngagement : Accepted (posted (eng3 { st := .ready }) 16 0x7F [3]) 16 0x7F := by unfold Accepted; decide +kernel

theorem test_witness_Consignments_submit : let s := posted (eng3 { st := .ready }) 2 0x20 [3, 0xAB, 0, 0, 0, 0, 5]
    Accepted s 2 0x20 ∧ wordAt (msgAt s 2) 7 ≠ 0 ∧ (getEng (taken s 2) (engField (msgAt s 2))).st = .ready := by unfold Accepted; decide +kernel
def entry7 : QEntry := { eng := 3, seq := 1, tag := 0, inAddr := 0, inBytes := 0, outAddr := 0, outBytes := 0, tokens := 5 }
def queued7 (s : State) : State := modMb s 2 fun p => { p with queue := [(7, entry7)] }
theorem test_witness_Consignments_cancel : let s := posted (queued7 (eng3 { st := .ready })) 2 0x21 [7]
    Accepted s 2 0x21 ∧ getQ (taken s 2) 2 (bitsOf (wordAt (msgAt s 2) 1) 0 8) = some entry7 ∧
      entry7.qepoch.toNat = bitsOf (wordAt (msgAt s 2) 1) 8 8 ∧ entry7.st ≠ .ended := by unfold Accepted; decide +kernel

/-- Tile-deck 5 of engagement 3, programmed, with `n` marks. -/
def deck5 (n : Nat) (g : Eng) (o : Bool) : State :=
  modDeck (eng3 { g with decks := [5] }) 5 fun d => { d with jStart := true, jDone := true, marks := n, opened := o }

theorem test_witness_DeckMessages_seal : let s := posted (deck5 1 { st := .ready } true) 2 0x12 [3]
    Accepted s 2 0x12 ∧ ((engDeckKeys (taken s 2) (engField (msgAt s 2))).any fun k => deckBusy (getDeck (taken s 2) k)) = false ∧
      engDeckKeys (taken s 2) (engField (msgAt s 2)) = [5] := by unfold Accepted; decide +kernel
theorem test_witness_DeckMessages_unseal : let s := posted (deck5 2 { st := .ready } true) 2 0x13 [3]
    let t := taken s 2
    let ks := engDeckKeys t (engField (msgAt s 2))
    Accepted s 2 0x13 ∧ ks = [5] ∧ (ks.any fun k => !deckOpen (getDeck t k)) = false ∧
      ((ks.filter fun k => (getDeck t k).jDone && !((getDeck t k).marks % 2 == 1)).any fun k => 32 ≤ (getDeck t k).marks) = false := by
  unfold Accepted; decide +kernel
theorem test_witness_DeckMessages_erase : let s := posted (deck5 1 { st := .resident } true) 16 0x14 [3]
    let t := taken s 16
    let ks := engDeckKeys t (engField (msgAt s 16))
    Accepted s 16 0x14 ∧ bitOf (wordAt (msgAt s 16) 1) 8 = false ∧ (getEng t (engField (msgAt s 16))).st = .resident ∧
      (ks.any fun k => !deckOpen (getDeck t k)) = false ∧ (ks.any fun k => deckBusy (getDeck t k)) = false ∧ ks ≠ [] := by
  unfold Accepted; decide +kernel
theorem test_witness_DeckMessages_fence : let s := posted up 16 0x40 [31]
    Accepted s 16 0x40 ∧ isFenced (taken s 16) (bitsOf (wordAt (msgAt s 16) 1) 0 5) = false ∧ fenceBusy (taken s 16) = false := by
  unfold Accepted; decide +kernel

theorem test_witness_Page_open : PageOpen up (.bar2 true) 2 ∧ PageOpen up .bar0 16 ∧ (hostServed up).fac.up = true := by unfold PageOpen; decide +kernel
theorem test_witness_Page_inDb : let p := getMb (hostServed up) 2
    (p.pi.toNat + 128 - p.wmark.toNat) % 128 ≤ (fieldOf 64 0 7 + 128 - p.wmark.toNat) % 128 ∧ (fieldOf 64 0 7 + 128 - p.wmark.toNat) % 128 ≤ 64 := by
  decide +kernel
theorem test_witness_Page_slot : slotPosted (getMb (hostServed (posted up 2 0x31 [])) 2) 63 = false := by decide +kernel
theorem test_witness_Page_coalesced : let s := modMb up 2 fun p => { p with coalRunning := true, coalPending := true }
    (getMb s 2).coalRunning = true ∧ (getMb s 2).coalPending = true := by decide +kernel
theorem test_witness_Page_coalesceIdle : let s := modMb up 2 fun p => { p with coalRunning := true }
    (getMb s 2).coalRunning = true ∧ (getMb s 2).coalPending = false := by decide +kernel

theorem test_witness_Window_request : PageOpen (withGran up 65535 granHost) .bar0 2 ∧
    let t := hostServed (withGran up 65535 granHost)
    ∀ k ∈ (List.range (fieldOf 0xFFFF 16 16 + 1)).map (fieldOf 0xFFFF 0 16 + ·),
      k < 65536 ∧ (getGran t k).flag = granHost ∧ ((2 : Mb).val = 16 ∨ (getGran t k).cid.toNat = (2 : Mb).val) := by unfold PageOpen; decide +kernel
theorem test_witness_Window_assign : let t := hostServed (withGran up 31 granHost)
    hostBlocked (withGran up 31 granHost) = false ∧ (getGran t 30).flag = granNone ∧ fieldOf (1 + 4 * 15) 0 2 = 1 ∧ fieldOf (1 + 4 * 15) 2 5 < 16 ∧
      sfind t.granPage (30 / 32) = some 5 := by decide +kernel
theorem test_witness_Window_takeBack : let t := hostServed (withGran up 31 granHost)
    (getGran t 31).flag = granHost ∧ fieldOf 0 0 2 = 0 := by decide +kernel
theorem test_witness_Window_bar4 : let t := hostTouch (withGran up 1 granHost)
    hostBlocked (withGran up 1 granHost) = false ∧ (t.cus.tdi = .run → true = true) ∧ rangeHost t 0x1FFFF 1 = true ∧ t.cus.bounce = false ∧
      anyMark (winRead t 0x1FFFF 1) = false ∧ rangeHost t 0x1FFFF 2 = false := by decide +kernel

theorem test_witness_HostEvents_config : (3 : Fin 4) ≠ 0 ∧ up.pwr.st ≠ 3 ∧ hostBlocked up = false := by decide +kernel
theorem test_witness_SwitchTriggers : (wake { held up with cus := { (held up).cus with tdi := .error } } 1 0).cus.tenancy = .held ∧
    (wake (aerNonFatal (held up)) 1 0).cus.tenancy = .held ∧ hostBlocked (held up) = false ∧ (hostServed (held up)).cus.tenancy = .held := by
  decide +kernel
theorem test_witness_CountersClear : hostBlocked up = false ∧ isOut (hostServed up) 31 = false := by decide +kernel

theorem test_witness_RegisterCommands_viol : let s := logViolation up { addr := 0, req := 0, src := 0, write := true, cid := 2 }
    hostBlocked s = false ∧ (hostServed s).cus.viol = { addr := 0, req := 0, src := 0, write := true, cid := 2 } :: [] := by decide +kernel
theorem test_witness_RegisterCommands_ue : let s := { up with ptl := { up.ptl with ueLog := [{ pa := 64, kind := 1, eng := 0, owned := false }] } }
    hostBlocked s = false ∧ (hostServed s).ptl.ueLog = { pa := 64, kind := 1, eng := 0, owned := false } :: [] := by decide +kernel
theorem test_witness_RegisterCommands_write : (0x100 : BitVec 26).toNat % 4 = 0 ∧ ((0x7 : BitVec 4) ≠ 0xF ∨ (0x100 : BitVec 26).toNat % 4 ≠ 0) := by
  decide +kernel
theorem test_witness_RegisterCommands_locked :
    let s := { up with rst := { up.rst with lock := true }, alm := { up.alm with lock := true }, hzl := { up.hzl with lock := true }, tol := { up.tol with lock := true } }
    hostBlocked s = false ∧ (hostServed s).rst.lock = true ∧ (hostServed s).alm.lock = true ∧ (hostServed s).hzl.lock = true ∧
      (hostServed s).tol.lock = true ∧ (hostServed up).rst.lock = false := by decide +kernel

theorem test_witness_ResetSources_key : hostBlocked up = false ∧ (0x3C : Byte) ≠ 0xC3 := by decide +kernel
theorem test_witness_ResetSources_pins : up.pwr.vsbOk = true ∧ up.rst.rstNDriven = false ∧ up.rst.rstnCold = false ∧ up.pwr.st ≠ 3 ∧
    ({ up with rst := { up.rst with rstnCold := true } }).rst.rstnCold = true ∧ up.rst.perstLow = false ∧ up.fac.running = true ∧
    up.pwr.st.toNat < 2 := by decide +kernel
/-- A formed Route of two devices whose root is another. -/
def routed : State := { up with alm := { up.alm with master := false }, hzl := { up.hzl with formed := true, ndev := 2, devnum := 1 } }
theorem test_witness_ResetSources_route : routed.fac.up = true ∧ routed.hzl.formed = true ∧ routed.alm.master = false ∧ routed.rst.routeEn = false ∧
    ({ routed with rst := { routed.rst with routeEn := true } }).rst.routeEn = true ∧ (5 : Fin 64) ≠ 0 := by decide +kernel

/-- The SMBus endpoint is ready at address 0x48. -/
def smbus : State := { up with smc := { addr := 0x48, ready := true } }
theorem test_witness_Smbus : smbusAcks smbus 0x48 = true ∧ smbusReg 0x13 ≠ none ∧ smbusReg 0xFF = none ∧ smbus.smc.addr ≠ 0 ∧ smbus.pwr.st.toNat ≠ 3 ∧
    smbus.rst.stretching = false ∧ 2 ≤ ({ smbus with pwr := { smbus.pwr with st := 2 } }).pwr.st.toNat := by decide +kernel

/-- A sound manifest: one vector layer from tensor 1 to tensor 2. -/
def manifest : List Byte :=
  leBytes 4 0x53464E4D ++ leBytes 2 0x100 ++ [0, 1] ++ leBytes 8 77 ++ leBytes 4 1 ++ leBytes 4 2 ++ leBytes 4 64 ++ leBytes 4 128 ++ leBytes 32 0 ++
  (leBytes 4 1 ++ [4, 0x33, 0, 0] ++ leBytes 12 0 ++ leBytes 4 1 ++ leBytes 4 2 ++ leBytes 4 0xFFFFFFFF ++ leBytes 4 1 ++ leBytes 28 0 ++ leBytes 0 0) ++ []

/-- The two tensor entries that follow. -/
def tensors : List Byte := (leBytes 4 1 ++ [3] ++ leBytes 27 0) ++ (leBytes 4 2 ++ [3] ++ leBytes 27 0)

def manifestFile : List Byte := manifest ++ tensors

/-- The manifest lies at the start of granule 1, which consignor 2 handed over, and ADMIT names it. -/
def admitting (s : State) : State :=
  posted (winWrite (withGran s 1 granDevice) 0x10000 (markAll false manifestFile)) 2 0x02 [0x10000, BitVec.ofNat 32 manifestFile.length, 0]

theorem test_manifest_length : manifestFile.length = 192 := by decide +kernel

theorem test_witness_Admission_admit : let s := admitting up
    let t := taken s 2
    let w := msgAt s 2
    let bs := winBytes t (wordAt w 1) (wordAt w 2)
    Accepted s 2 0x02 ∧ t.ptl.stDone = true ∧ manifestOk bs = true ∧ packsProtected bs = false ∧ (bitOf (leAt bs 6 1) 1 = true → t.cus.tenancy = .held) ∧
      t.ptl.inservice = true ∧ residentMatch t (Config.sha384 bs) = none ∧ freeNumber t = some 0 := by unfold Accepted; decide +kernel
theorem test_witness_Admission_full : let t := taken (admitting { up with engs := Vector.replicate 64 { st := .ready } }) 2
    residentMatch t (Config.sha384 manifestFile) = none ∧ freeNumber t = none := by decide +kernel
theorem test_witness_Admission_resident (h : BitVec 384) (hh : h = Config.sha384 manifestFile) :
    residentMatch (modEng up 0 fun _ => { st := .resident, manifestHash := h }) (Config.sha384 manifestFile) = some 0 := by
  subst hh
  generalize Config.sha384 manifestFile = x
  have h0 : getEng (modEng up 0 fun _ => { st := .resident, manifestHash := x }) 0 = { st := .resident, manifestHash := x } := rfl
  have hr : List.range 64 = 0 :: (List.range 63).map (· + 1) := by decide +kernel
  rw [residentMatch, hr, List.find?_cons_of_pos]
  rw [h0]
  simp

/-- A placement that asks for one page of stacked memory and nothing else. -/
def plan0 : Plan :=
  { period := 1, anchor := 5000, decks := [], wsPages := [], smPages := 1, demand := [], itins := [], links := [], regions := [], tracked := 0 }
theorem test_witness_Admission_commit : (getEng (eng3 { st := .placing }) 3).st = .placing ∧ planOk (eng3 { st := .placing }) 3 plan0 = true ∧ (getEng (eng3 { st := .placing }) 3).prev ≠ .resident ∧
    placeRefusal (eng3 { st := .placing }) 3 plan0 = none := by decide +kernel
theorem test_witness_Admission_refuse : placeRefusal (eng3 { st := .placing, pMax := 4 }) 3 { plan0 with period := 5 } = some 0x12 := by decide +kernel

/-- Two READY engagements, both of consignor 2. -/
def two : State := modEng (eng3 { st := .ready, plan := some plan0, period := 256, anchor := 5000, pages := [9] }) 4 fun _ =>
  { st := .ready, bound := 4, plan := some plan0, period := 256, anchor := 5000, pages := [8] }
theorem test_witness_Rebind_queue : let s := posted two 2 0x04 [3 + 4 * 256 + 3 * 65536, 2, 1]
    let t := taken s 2
    let w := msgAt s 2
    Accepted s 2 0x04 ∧ engField w = 3 ∧ bitsOf (wordAt w 1) 8 6 = 4 ∧ bitsOf (wordAt w 1) 16 2 = 3 ∧
      rebindRange 3 (wordAt w 2) (wordAt w 3) = true ∧ (3 : Fin 64) ≠ 4 ∧ unbindable (getEng t 3).st = false ∧ unbindable (getEng t 4).st = false ∧
      rebindBusy t = false ∧ t.tol.overLimit = false ∧
      (getEng t 3).bound &&& BitVec.ofNat 16 ((2 ^ wordAt w 3 - 1) * 2 ^ wordAt w 2) = BitVec.ofNat 16 ((2 ^ wordAt w 3 - 1) * 2 ^ wordAt w 2) := by
  unfold Accepted; decide +kernel
theorem test_witness_Rebind_cores : let s := posted two 2 0x04 [3 + 4 * 256, 7, 1]
    let t := taken s 2
    Accepted s 2 0x04 ∧ rebindRange 0 7 1 = true ∧ ¬(plan0.itins = [] ∧ holdsCons t 3 = true) ∧ planOk (eng3 { st := .placing }) 3 plan0 = true ∧ (getEng (eng3 { st := .placing }) 3).prev ≠ .resident ∧
      rebindMoves (getEng t 3) (getEng t 4) 0 7 1 plan0 plan0 = true ∧ (getEng t 3).st ≠ .resident ∧ refusing t 3 [4] plan0 = none ∧
      refusing (withPlan t 3 plan0) 4 [] plan0 = none ∧ ((getEng t 4).st = .resident → hasTargets t 4 = true) := by
  unfold Accepted; decide +kernel

/-- A waybill's header and one wrap entry. -/
def wbFront : List Byte :=
  leBytes 4 0x4C425957 ++ leBytes 2 0x100 ++ leBytes 2 0x100 ++ leBytes 8 77 ++ leBytes 4 0 ++ [0, 1, 0, 0] ++ leBytes 4 1 ++ leBytes 4 0 ++ leBytes 8 64 ++
    leBytes 48 0 ++ leBytes 168 0 ++ leBytes 256 0
theorem test_witness_Waybills_program :
    let s := posted (winWrite (withGran (eng3 { st := .loading, plan := some plan0 }) 1 granDevice) 0x10000 (markAll false wbFront)) 2 0x10
      [3, 0x10000, BitVec.ofNat 32 wbFront.length]
    let t := taken s 2
    let w := msgAt s 2
    let front := winBytes t (wordAt w 2) (min (wordAt w 3) 16640)
    Accepted s 2 0x10 ∧ engField w = 3 ∧ t.ptl.stDone = true ∧ (getEng t 3).waybill = none ∧ waybillFormOk front (wordAt w 3) = true ∧
      (∀ k ∈ msgGrans w, granNamed t 2 k = true) ∧ leAt front 16 4 ≤ t.fac.ver.toNat ∧ (getEng t 3).plan ≠ none ∧
      leAt front 40 48 = (getEng t 3).manifestHash.toNat := by unfold Accepted; decide +kernel
/-- A waybill of one segment under way. -/
def wb1 (lead : Bool) : Waybill :=
  { lead := lead, addr := 0x10000, len := 600, wbId := 77, ivBase := 0, nSeg := 1, plainLen := 64, prot := false, aad := 0, key := none }
theorem test_witness_Waybills_segments : up.fac.up = true ∧ (getEng (eng3 { st := .loading, waybill := some (wb1 true) }) 3).waybill = some (wb1 true) ∧
    (wb1 true).sent < (wb1 true).nSeg ∧ (wb1 true).finished = false ∧ (wb1 true).stopped = false ∧ (wb1 false).lead = false ∧
    (getEng (eng3 { st := .loading, plan := some plan0 }) 3).plan ≠ none ∧ (getEng (eng3 { st := .loading, plan := some plan0 }) 3).waybill = none ∧
    waybillFormOk wbFront wbFront.length = true ∧ (∀ r ∈ (wb1 true).reports, r.1 ≠ (1 : Fin 64).val) ∧ (1 : Fin 64).val ≠ up.hzl.devnum.toNat := by
  decide +kernel

/-- Core 31 fenced for cause `k` on its physical core, or with its spare running. -/
def fenced31 (k : BitVec 4) (out fenced : Bool) (phys : Nat) : State :=
  mapMod up 31 fun _ => { phys := phys, fenced := fenced, out := out, failed := [31], cause := k }
theorem test_witness_CoresReturn_inService : let s := posted up 16 0x41 [31]
    Accepted s 16 0x41 ∧ bitsOf (wordAt (msgAt s 16) 1) 0 5 = 31 ∧ fenceBusy (taken s 16) = false ∧ mapFenced (vget {} (taken s 16).ldg.map 31) = false := by
  unfold Accepted; decide +kernel
theorem test_witness_CoresReturn_fenced : let s := posted (fenced31 2 true true 31) 16 0x41 [31]
    let m := vget {} (taken s 16).ldg.map 31
    Accepted s 16 0x41 ∧ fenceBusy (taken s 16) = false ∧ mapFenced m = true ∧ m.cause ≠ 4 ∧ m.fenced = true := by unfold Accepted; decide +kernel
theorem test_witness_CoresReturn_shorted : let s := posted (fenced31 4 true true 31) 16 0x41 [31]
    let m := vget {} (taken s 16).ldg.map 31
    Accepted s 16 0x41 ∧ mapFenced m = true ∧ m.cause = 4 := by unfold Accepted; decide +kernel
theorem test_witness_CoresReturn_spare : let s := posted (fenced31 2 false false 32) 16 0x41 [31]
    let m := vget {} (taken s 16).ldg.map 31
    Accepted s 16 0x41 ∧ mapFenced m = true ∧ m.fenced = false ∧ m.cause ≠ 4 ∧ m.failed = 31 :: [] := by unfold Accepted; decide +kernel
theorem test_witness_Fences_fence : let s := modCore up 31 fun c => { c with fValid := true, fCause := 4, running := true }
    fenceCause s 31 3 = true ∧ s.fac.up = true ∧ (vget {} s.ldg.map 31).out = false ∧ (vget {} s.ldg.map 31).fenced = false := by decide +kernel
theorem test_witness_Fences_takeover : let s := fenced31 3 false true 31
    let m := vget {} s.ldg.map 31
    s.fac.up = true ∧ m.fenced = true ∧ m.out = false ∧ m.failed.contains m.phys = true ∧ sortBy id s.ldg.spares = 32 :: [33] := by decide +kernel
theorem test_witness_Fences_ready : let m := vget {} (fenced31 3 false true 32).ldg.map 31
    m.fenced = true ∧ m.out = false ∧ m.failed.contains m.phys = false := by decide +kernel

/-- KEY and CHECK of a boot-store command. -/
def bstKey (code : Nat) : List (Nat × Word) :=
  [(0x3FF00, BitVec.ofNat 32 (0x71D00000 + code)), (0x3FF04, ~~~BitVec.ofNat 32 (0x71D00000 + code))]
def bstProgram5 : List (Nat × Word) := bstKey 1 ++ [(0x50000, 0xAB)] ++ [(0x3FF08, 0x50001)]
theorem test_witness_BootStore_program : bstProgramSeq bstProgram5 = some (0x50000, [(0x50000, 0xAB)]) ∧ up.bst.busy = false ∧ 4 ≤ 0x50000 / 65536 ∧
    bstMarked up.bst (0x50000 / 65536) = true ∧ (∀ w ∈ bstPageWords 0x50000 [(0x50000, 0xAB)], bstErased up w.1 = true) := by decide +kernel
theorem test_witness_BootStore_programLocked : bstProgramSeq (bstKey 1 ++ [(0x10000, 0xAB)] ++ [(0x3FF08, 0x10001)]) = some (0x10000, [(0x10000, 0xAB)]) ∧
    0x10000 / 65536 < 4 ∧ bstProgramSeq (bstKey 1) = none := by decide +kernel
theorem test_witness_BootStore_erase : bstEraseSeq (bstKey 2 ++ [(0x3FF08, 0x50002)]) = some 5 ∧ up.bst.busy = false ∧ 4 ≤ 5 := by decide +kernel
def erasing5 : State := { up with bst := { up.bst with busy := true, opErase := true, sector := 5 } }
theorem test_witness_BootStore_suspend : bstShort 3 (bstKey 3) = true ∧ erasing5.bst.busy = true ∧ erasing5.bst.opErase = true ∧ erasing5.bst.susp = false ∧
    bstShort 4 (bstKey 4) = true ∧ ({ erasing5.bst with susp := true }).susp = true ∧ bstShort 5 (bstKey 5) = true ∧ bstShort 5 (bstKey 3) = false := by
  decide +kernel
theorem test_witness_BootStore_programDone :
    let s := { up with bst := { up.bst with busy := true, page := some (0x50000, bstPageWords 0x50000 [(0x50000, 0xAB)]) } }
    s.bst.busy = true ∧ s.bst.opErase = false ∧ s.bst.page = some (0x50000, bstPageWords 0x50000 [(0x50000, 0xAB)]) := by decide +kernel

theorem test_witness_BootReads_buffered : let s := { up with bst := { up.bst with prefetch := [0x50020] } }
    s.bst.busy = false ∧ (0x5003F : BitVec 26).toNat / 32 * 32 ∈ s.bst.prefetch := by decide +kernel
theorem test_witness_BootReads_array : let s := { up with mem := { up.mem with boot := sset 0xFF [] 0x50020 0x12 } }
    let a := (0x50020 : BitVec 26).toNat / 32 * 32
    s.bst.busy = false ∧ a ∉ s.bst.prefetch ∧ a ∉ s.bst.branch ∧ ¬(s.bst.susp = true ∧ a / 65536 = s.bst.sector.toNat) ∧ bstErased s a = false ∧ 4 ≤ 4 := by
  decide +kernel
theorem test_witness_BootReads_refresh : let s := { up with bst := { up.bst with warn := true, eccWord := BitVec.ofNat 21 (6 * 65536 / 32) } }
    s.bst.warn = true ∧ s.fac.up = true ∧ s.bst.busy = false ∧ (refreshRun s.bst (s.bst.eccWord.toNat * 32 / 65536)).isSome = true := by decide +kernel
/-- A client of the management network with the role of an ADMIN. -/
def admin : State := { up with cus := { up.cus with mgmtSessions := [(5, .admin)] }, bst := { up.bst with creds := [(5, .admin)] } }
def image2 : ImageHdr := { magic := 0x49554C4F, version := 0x02000000, build := 1, svn := 3, len := 4096, digest := 0, sigOk := true }
theorem test_witness_BootReads_update : admin.fac.slot = some 0 ∧ mgmtHas admin 5 .admin = true ∧ admin.fac.up = true ∧ admin.bst.busy = false ∧
    image2.len ≤ 25165440 := by decide +kernel
theorem test_witness_BootReads_fuse :
    let s := { admin with bst := { admin.bst with images := vmod admin.bst.images 0 fun _ => { hdr := some image2, written := true, active := true } } }
    s.fac.slot = some 0 ∧ (vget {} s.bst.images 0).hdr = some image2 ∧ mgmtHas s 5 .admin = true ∧ (vget {} s.bst.images 0).active = true ∧
      s.bst.svnFuse.toNat < image2.svn.toNat := by decide +kernel

theorem test_witness_ResetSourcesJoin : 1 ≤ 8 ∧ 8 ≤ 8 ∧ inReset up = false ∧ inReset State.reset = true := by decide +kernel
theorem test_witness_ResetEnds_stretch : let s := { State.reset with rst := { State.reset.rst with stretching := true } }
    s.rst.stretching = true ∧ mayRelease s = true := by decide +kernel
theorem test_witness_ResetEnds_loading : State.reset.rst.loading = true ∧ State.reset.rst.stretching = false := by decide +kernel
theorem test_witness_ResetEnds_up : let s := { up with fac := { up.fac with up := false } }
    mayComeUp s = true ∧ s.fac.resumePending = false ∧ mayComeUp { s with fac := { s.fac with resumePending := true } } = true := by decide +kernel

theorem test_witness_Beat_lock : let s := { up with alm := {} }
    s.alm.pllLock = false ∧ inReset s = false ∧ s.pwr.st ≠ 3 ∧ ({ s with pwr := { s.pwr with st := 3 } }).pwr.st = 3 := by decide +kernel
theorem test_witness_Beat_locked : up.alm.pllLock = true ∧ up.alm.master = true ∧ up.alm.epinEn = false ∧
    up.alm.beat.toNat ≤ (2000 : Beat).toNat ∧ ({ up.alm with epinEn := true }).epinEn = true := by decide +kernel
theorem test_witness_Beat_holdover : let s := { routed with alm := { routed.alm with holdover := true } }
    s.alm.holdover = true ∧ s.alm.fallback = false ∧ s.alm.master = false := by decide +kernel
/-- A device below the beat master whose port 2 leads upstream, at a beat and aligned or not. -/
def below (b : Beat) (al : Bool) : State :=
  modPort { routed with alm := { routed.alm with beat := b, aligned := al } } 2 fun p => { p with st := .up, tree := true, upstream := true, d := 7 }
theorem test_witness_Beat_align : let s := below 0x100008 true
    let sent : Nat := bitsOf (1 : BitVec 60).toNat 0 44 * 2 ^ 20 + (getPort s 2).d.toNat
    s.alm.pllLock = true ∧ s.alm.master = false ∧ (getPort s 2).upstream = true ∧ s.alm.aligned = true ∧ s.alm.beat.toNat ≤ sent + 1 ∧
      sent ≤ s.alm.beat.toNat + 1 := by decide +kernel
theorem test_witness_Beat_alignOff : let s := below 0x100009 true
    let sent : Nat := bitsOf (1 : BitVec 60).toNat 0 44 * 2 ^ 20 + (getPort s 2).d.toNat
    s.alm.aligned = true ∧ ¬(s.alm.beat.toNat ≤ sent + 1 ∧ sent ≤ s.alm.beat.toNat + 1) ∧ (below 0 false).alm.aligned = false := by decide +kernel

/-- Engagement 3 runs: READY, bound to consignor 2, a period of 256 beats from beat 5,000, its itinerary on core 0 and Waystation pages 0 to 63. -/
def runs : State :=
  modCore (eng3 { st := .ready, plan := some plan0, period := 256, anchor := 5000, pages := [9] }) 0 fun c =>
    { c with running := true, itins := [{ eng := 3, base := 0, len := 0 }], pageOwner := (List.range 64).map fun i => (i, 3) }
theorem test_witness_Circuits_commit : canCommit runs 3 0 (circuitBeat (getEng runs 3) 0) = true ∧ canCommit runs 3 0 1000 = false := by decide +kernel
def word3 (live : Nat) : BitVec 64 := BitVec.ofNat 64 (packNat [(live, 0, 1), (2, 1, 4), (7, 5, 8), (3, 29, 6)])
theorem test_witness_Circuits_start : coreRuns runs 0 = true ∧ (∃ i ∈ (getCore runs (physOf runs 0)).itins, i.eng = 3) ∧
    runs.alm.beat.toNat ≤ circuitBeat (getEng runs 3) 1 ∧ bitOf (word3 1).toNat 0 = true ∧
    bitsOf (word3 1).toNat 35 16 = epochStamp (circuitBeat (getEng runs 3) 1) ∧ (getEng runs 3).staleStop = false ∧ bitOf (word3 0).toNat 0 = false := by
  decide +kernel

theorem test_witness_Holds_notice : (getEng up (bitsOf (3 : BitVec 60).toNat 0 6)).holds.contains (BitVec.ofNat 64 (nearBeat up.alm.beat.toNat 0)) = false ∧
    (getEng (eng3 { holds := [0] }) 3).holds.contains (BitVec.ofNat 64 (nearBeat up.alm.beat.toNat 0)) = true := by decide +kernel
theorem test_witness_Holds_start : (getEng (eng3 { st := .ready, holds := [1100, 1200] }) 3).holds = 1100 :: [1200] ∧
    (getEng (eng3 { st := .ready, holds := [1100, 1200] }) 3).st ≠ .free := by decide +kernel
theorem test_witness_Holds_swap : let s := modEng runs 3 fun g => { g with swapAt := some 65536 }
    let t := retireCircuits (advanceTo s (if (getEng s 3).st = .resident then 65536 else startAfter (getEng s 3) 65536)) 3
    (getEng s 3).swapAt = some 65536 ∧ swapWaits t 3 = false ∧ (getEng s 3).nextSt ≠ some .free := by decide +kernel
theorem test_witness_Holds_swapWaits :
    let s := modEng runs 3 fun g => { g with swapAt := some 65536, nextSt := some .ready, decks := [5] }
    swapWaits (retireCircuits (advanceTo s (startAfter (getEng s 3) 65536)) 3) 3 = true ∧ (getEng s 3).st ≠ .resident := by decide +kernel

/-! ## Witnesses of the clauses for refusals and other cases -/

theorem test_witness_EmptyQueue_beat : up.alm.pllLock = true ∧ (up.alm.beat + 1).toNat / 200 = up.alm.beat.toNat / 200 ∧ up.flights = [] := by decide +kernel

theorem test_witness_Hints_hints : let s (h : Word) := posted up 2 0x60 [h, 50]
    Accepted (s 2) 2 0x60 ∧ bitsOf (wordAt (msgAt (s 2) 2) 1) 0 2 = 2 ∧ Accepted (s 3) 2 0x60 ∧ bitsOf (wordAt (msgAt (s 3) 2) 1) 0 2 = 3 := by
  unfold Accepted; decide +kernel
theorem test_witness_Hints_consentRefused : let s := posted (held up) 2 0x70 [16, 1]
    let n := posted up 2 0x70 [1, 1]
    Accepted s 2 0x70 ∧ 16 ≤ wordAt (msgAt s 2) 1 ∧ Accepted n 2 0x70 ∧ tenantRights (taken n 2) 2 = false := by unfold Accepted; decide +kernel
theorem test_witness_Hints_releaseSwap : let s := posted runs 2 0x03 [3]
    let t := modEng (pushRec (stopEngProgramming (abortCons (taken s 2) 3) 3) 2 (msgAt s 2) { opcode := 0, seq := 0, eng := 3, grans := [] }) 3
      fun g => { g with bound := 0 }
    Accepted s 2 0x03 ∧ hasItins t 3 = true := by unfold Accepted; decide +kernel

/-- SUBMIT of `n` tokens for engagement 3 as `g` says. -/
def submits (n : Word) (g : Eng) : State := posted (eng3 g) 2 0x20 [3, 0xAB, 0, 0, 0, 0, n]
theorem test_witness_Consignments_states :
    (∀ g ∈ ([{ st := .ready }, { st := .shadow }, { st := .suspended, takeover := true }, { st := .suspended, replacing := true }, { st := .placing },
        { st := .loading }, { st := .suspended }, { st := .resident }] : List Eng),
      Accepted (submits 5 g) 2 0x20 ∧ (getEng (taken (submits 5 g) 2) 3).st = g.st ∧ wordAt (msgAt (submits 5 g) 2) 7 ≠ 0) ∧
      anySealed (taken (submits 5 { st := .resident }) 2) 3 = false ∧ wordAt (msgAt (submits 0 { st := .ready }) 2) 7 = 0 := by
  unfold Accepted; decide +kernel
theorem test_witness_Consignments_sealed : let s := posted (deck5 1 { st := .resident } false) 2 0x20 [3, 0xAB, 0, 0, 0, 0, 5]
    (getEng (taken s 2) 3).st = .resident ∧ wordAt (msgAt s 2) 7 ≠ 0 ∧ Accepted s 2 0x20 := by unfold Accepted; decide +kernel
theorem test_witness_Consignments_cancels : let s (x : QEntry) := posted (modMb (eng3 { st := .ready }) 2 fun p => { p with queue := [(7, x)] }) 2 0x21 [7]
    (∀ st ∈ [QState.queued, .started, .ended], Accepted (s { entry7 with st := st }) 2 0x21 ∧
      getQ (taken (s { entry7 with st := st }) 2) 2 7 = some { entry7 with st := st }) ∧
      entry7.qepoch.toNat = bitsOf (wordAt (msgAt (s entry7) 2) 1) 8 8 ∧
      ({ entry7 with qepoch := 1 } : QEntry).qepoch.toNat ≠ bitsOf (wordAt (msgAt (s entry7) 2) 1) 8 8 ∧
      getQ (taken (posted (eng3 { st := .ready }) 2 0x21 [7]) 2) 2 7 = none ∧ Accepted (posted (eng3 { st := .ready }) 2 0x21 [7]) 2 0x21 := by
  unfold Accepted; decide +kernel

/-- Tile-deck 5 queued for erase. -/
def busy5 (g : Eng) : State := modDeck (deck5 1 g true) 5 fun d => { d with erasing := true }
theorem test_witness_DeckMessages_refused :
    let b := posted (busy5 { st := .ready }) 2 0x12 [3]
    let c := posted (deck5 1 { st := .ready } false) 2 0x13 [3]
    let m := posted (deck5 32 { st := .ready } true) 2 0x13 [3]
    Accepted b 2 0x12 ∧ ((engDeckKeys (taken b 2) 3).any fun k => deckBusy (getDeck (taken b 2) k)) = true ∧
      Accepted c 2 0x13 ∧ ((engDeckKeys (taken c 2) 3).any fun k => !deckOpen (getDeck (taken c 2) k)) = false ∧
      Accepted m 2 0x13 ∧ ((engDeckKeys (taken m 2) 3).any fun k => !deckOpen (getDeck (taken m 2) k)) = false ∧
      (((engDeckKeys (taken m 2) 3).filter fun k => (getDeck (taken m 2) k).jDone && !((getDeck (taken m 2) k).marks % 2 == 1)).any fun k =>
        32 ≤ (getDeck (taken m 2) k).marks) = true := by unfold Accepted; decide +kernel
theorem test_witness_DeckMessages_sealed : let s := posted (deck5 2 { st := .ready } false) 2 0x13 [3]
    Accepted s 2 0x13 ∧ ((engDeckKeys (taken s 2) 3).any fun k => !deckOpen (getDeck (taken s 2) k)) = true := by unfold Accepted; decide +kernel
theorem test_witness_DeckMessages_eraseCases :
    let r := posted (deck5 1 { st := .ready } true) 16 0x14 [3]
    let b := posted (busy5 { st := .resident }) 16 0x14 [3]
    let n := posted up 16 0x14 [0x100]
    let c := posted up 2 0x14 [0x103]
    Accepted r 16 0x14 ∧ bitOf (wordAt (msgAt r 16) 1) 8 = false ∧ (getEng (taken r 16) 3).st ≠ .resident ∧
      Accepted b 16 0x14 ∧ (getEng (taken b 16) 3).st = .resident ∧ deckBusy (getDeck (taken b 16) 5) = true ∧ 5 ∈ engDeckKeys (taken b 16) 3 ∧
      Accepted n 16 0x14 ∧ bitOf (wordAt (msgAt n 16) 1) 8 = true ∧ allErasable (taken n 16) = [] ∧
      bitOf (wordAt (msgAt c 2) 1) 8 = true ∧ (2 : Mb).val ≠ 16 := by unfold Accepted; decide +kernel

theorem test_witness_Page_illegal : let p := getMb (hostServed up) 2
    PageOpen up (.bar2 true) 2 ∧
      ¬((p.pi.toNat + 128 - p.wmark.toNat) % 128 ≤ (fieldOf 65 0 7 + 128 - p.wmark.toNat) % 128 ∧ (fieldOf 65 0 7 + 128 - p.wmark.toNat) % 128 ≤ 64) := by
  unfold PageOpen; decide +kernel
theorem test_witness_Page_down : let s := { up with fac := { up.fac with up := false } }
    PageOpen s (.bar2 true) 2 ∧ (hostServed s).fac.up = false := by unfold PageOpen; decide +kernel
theorem test_witness_Page_posted : let s := posted up 2 0x31 []
    PageOpen s (.bar2 true) 2 ∧ slotPosted (getMb (hostServed s) 2) 0 = true := by unfold PageOpen; decide +kernel

theorem test_witness_Window_freePage : hostBlocked up = false ∧ (getGran (hostServed up) 30).flag = granNone ∧ sfind (hostServed up).granPage (30 / 32) = none ∧
    freePages (hostServed up) 1 = some [0] ∧ (getGran (hostServed (withGran up 31 granHost)) 31).flag = granHost ∧ fieldOf 2 0 2 = 2 := by decide +kernel
/-- Granule 1 assigned to consignor 2, with a poisoned byte at its start, or in bounce mode. -/
def window (bounce mark : Bool) : State :=
  let s := withGran up 1 granHost
  { winWrite s 0x10000 [(7, mark)] with cus := { s.cus with bounce := bounce } }
theorem test_witness_Window_reads :
    (∀ b ∈ [false, true], ∀ m ∈ [false, true],
      hostBlocked (window b m) = false ∧ (hostTouch (window b m)).cus.tdi ≠ .run ∧ rangeHost (hostTouch (window b m)) 0x10000 1 = true ∧
      (hostTouch (window b m)).cus.bounce = b ∧ anyMark (winRead (hostTouch (window b m)) 0x10000 1) = m) ∧
    rangeHost (hostTouch (window false false)) 0xFFFF 1 = false ∧
    ({ up with cus := { up.cus with tdi := .run } }).cus.tdi = .run := by decide +kernel

theorem test_witness_HostEvents_retry : let s := State.reset
    s.pwr.st ≠ 3 ∧ hostBlocked { s with rst := { s.rst with stretching := true, stCold := true } } = true := by decide +kernel

theorem test_witness_RegisterCommands_locks :
    let s := { up with asy := { up.asy with lock := true }, ldg := { up.ldg with lock := true }, bst := { up.bst with lock := true } }
    hostBlocked s = false ∧ (hostServed s).asy.lock = true ∧ (hostServed s).ldg.lock = true ∧ (hostServed s).bst.lock = true ∧
      (hostServed up).asy.lock = false ∧ (hostServed up).ldg.lock = false ∧ (hostServed up).bst.lock = false ∧ (hostServed up).alm.lock = false ∧
      (hostServed up).hzl.lock = false ∧ (hostServed up).tol.lock = false := by decide +kernel

theorem test_witness_ResetSources_more : let deep := { up with pwr := { up.pwr with st := 3 } }
    deep.rst.rstNDriven = false ∧ deep.rst.rstnCold = false ∧ deep.pwr.st = 3 ∧ deep.rst.perstLow = false ∧ 1000 ≤ 1000 ∧ 10000 ≤ 10000 ∧ 999 < 1000 ∧
      up.fac.up = true ∧ up.hzl.formed = false := by decide +kernel

theorem test_witness_Smbus_cases : smbusAcks smbus 0x48 = true ∧ smbusReg 0x13 = some 0x1000 ∧ smbusReg 0xFF = none ∧
    smbus.pwr.st.toNat ≤ 1 := by decide +kernel

/-- The same manifest with its packed or protected bits, or for a Route, in byte 6. -/
def manifestWith (flags : Byte) : List Byte := manifestFile.take 6 ++ [flags] ++ manifestFile.drop 7
def admittingBytes (bs : List Byte) (s : State) : State :=
  posted (winWrite (withGran s 1 granDevice) 0x10000 (markAll false bs)) 2 0x02 [0x10000, BitVec.ofNat 32 bs.length, 0]
theorem test_witness_Admission_early :
    let b := admitting { up with ptl := { up.ptl with stDone := false } }
    let f := admittingBytes (0 :: manifestFile.drop 1) up
    let r := admittingBytes (manifestWith 2) up
    let x := admitting { up with ptl := { up.ptl with inservice := false } }
    Accepted b 2 0x02 ∧ (taken b 2).ptl.stDone = false ∧
      Accepted f 2 0x02 ∧ (taken f 2).ptl.stDone = true ∧ manifestOk (winBytes (taken f 2) 0x10000 192) = false ∧
      Accepted r 2 0x02 ∧ manifestOk (winBytes (taken r 2) 0x10000 192) = true ∧ packsProtected (winBytes (taken r 2) 0x10000 192) = false ∧
      routeHeld (taken r 2) (winBytes (taken r 2) 0x10000 192) = false ∧
      Accepted x 2 0x02 ∧ (taken x 2).ptl.inservice = false ∧ (taken x 2).ptl.stDone = true ∧ routeHeld (taken x 2) manifestFile = true := by
  unfold Accepted; decide +kernel

/-- The manifest with tensor 2 packed in slots of size 1 and the engagement protected. -/
def packedProtected : List Byte := (manifestWith 1).take 166 ++ [1] ++ (manifestWith 1).drop 167
theorem test_witness_Admission_policy : let s := admittingBytes packedProtected up
    let bs := winBytes (taken s 2) 0x10000 192
    Accepted s 2 0x02 ∧ (taken s 2).ptl.stDone = true ∧ manifestOk bs = true ∧ packsProtected bs = true := by unfold Accepted; decide +kernel

theorem residentMatch_first {s : State} {h : BitVec 384} (hs : (getEng s 0).st = .resident) (hh : (getEng s 0).manifestHash = h) :
    residentMatch s h = some 0 := by
  have hr : List.range 64 = 0 :: (List.range 63).map (· + 1) := by decide +kernel
  rw [residentMatch, hr, List.find?_cons_of_pos]
  simp [hs, hh]

/-- Engagement 0 is RESIDENT with the manifest, a sealed or an open deck; ADMIT names the manifest again. -/
def readmit (o : Bool) : State :=
  admitting (modDeck (modEng up 0 fun _ => { st := .resident, manifestHash := Config.sha384 manifestFile, decks := [5] }) 5 fun d =>
    { d with jStart := true, jDone := true, marks := 2, opened := o })
theorem test_witness_Admission_readmit : (∀ o ∈ [false, true], Accepted (readmit o) 2 0x02 ∧ (taken (readmit o) 2).ptl.stDone = true ∧
    winBytes (taken (readmit o) 2) 0x10000 192 = manifestFile ∧ routeHeld (taken (readmit o) 2) manifestFile = true ∧
    sealedToTenant (taken (readmit o) 2) 0 = !o) := by unfold Accepted; decide +kernel
theorem forEach_engs {α : Type} (l : List α) (s : State) (f : State → α → State) (h : ∀ s x, (f s x).engs = s.engs) : (forEach l s f).engs = s.engs := by
  induction l generalizing s with
  | nil => rfl
  | cons a l ih => exact (ih (f s a)).trans (h s a)
theorem taken_engs (s : State) (mb : Mb) : (taken s mb).engs = s.engs := forEach_engs _ _ _ fun _ _ => rfl
theorem admitting_engs (s : State) : (admitting s).engs = s.engs := by
  have h (t : State) (mb : Mb) (op : Nat) (l : List Word) : (posted t mb op l).engs = t.engs := rfl
  rw [admitting, h, winWrite, forEach_engs _ _ smPutChunk fun _ _ => rfl]
  rfl
theorem test_witness_Admission_readmit_match (o : Bool) : residentMatch (taken (readmit o) 2) (Config.sha384 manifestFile) = some 0 := by
  have h (t : State) (k : Nat) (f : Deck → Deck) : (modDeck t k f).engs = t.engs := rfl
  have hg : getEng (taken (readmit o) 2) 0 = { st := .resident, manifestHash := Config.sha384 manifestFile, decks := [5] } := by
    rw [getEng, taken_engs, readmit, admitting_engs, h]; rfl
  exact residentMatch_first (by rw [hg]) (by rw [hg])

theorem test_witness_Admission_badPlan : planOk (eng3 { st := .placing }) 3 { plan0 with period := 0 } = false ∧
    (getEng (eng3 { st := .placing }) 3).st = .placing := by decide +kernel

/-- A manifest of one analogue layer: 64 rows and 128 outputs in W8, from tensor 1 to tensor 2. -/
def manifestW8 : List Byte :=
  manifest.take 64 ++ (leBytes 4 1 ++ [1, 0x31, 0, 0, 0, 8, 0, 0] ++ leBytes 4 64 ++ leBytes 4 128 ++ leBytes 4 1 ++ leBytes 4 2 ++ leBytes 4 0xFFFFFFFF ++ leBytes 32 0) ++ tensors
def deckPlan : PlanDeck :=
  { addr := { core := 0, string := 1, tile := 0, deck := 2 }, fmt := .w8, pmode := 0
    blocks := [{ layerId := 1, firstRow := 0, rowCount := 64, nout := 128, mask := 0xFFFFFFFF }], parts := [(0, 0)], twin := none, shadow := none }
def legsW8 : List Leg :=
  [ { issue := 0, body := .select { string := 1, tmask := 1, deck := 2 } },
    { issue := 8, body := .porter { chan := 3, dl := 0xFFFFFF, late := 0, desc :=
        { op := 1, strip := false, packed := false, summary := false, lane := 0, string := 1, tmask := 1, buf := 0, src := 0x4000, dst := 0, len := 2080,
          rows := 1, sstride := 0, dstride := 0, region := 0, sumb := 0, blk := 0, stripAddr := 0, sumAddr := 0, tdev := 0, tcore := 0, d := 0, sstrip := 0 } } },
    { issue := 800, body := .strike { string := 1, tmask := 1, deck := 2, aw := 0, slot := 4, buf := 0, ofmt := 3, part := false, oaddr := 16, rgrp := 0 } } ]
/-- A placement of it: one deck of core 0 and an itinerary that selects the deck, sends a bundle and strikes. -/
def planW8 : Plan :=
  { plan0 with
    decks := [deckPlan], smPages := 3, wsPages := [(0, 0, 64)]
    itins := [{ core := 0, base := 0x30000, len := 64 + (imageBody legsW8).length, legs := legsW8 }] }
/-- Engagement 3 is in placement with that manifest; its deck is sealed or not. -/
def placingW8 (sealed_ : Bool) : State :=
  modDeck (eng3 { st := .placing, manifest := manifestW8, decks := [logicalDeck deckPlan.addr], prev := if sealed_ then .resident else .free }) (logicalDeck deckPlan.addr)
    fun d => if sealed_ then { d with jStart := true, jDone := true, marks := 2 } else d
theorem test_manifest_analogue : manifestOk manifestW8 = true := by decide +kernel
theorem test_witness_Admission_strikes : (getEng (placingW8 false) 3).st = .placing ∧ planOk (placingW8 false) 3 planW8 = true ∧ (getEng (placingW8 false) 3).prev ≠ .resident := by decide +kernel
theorem test_witness_Admission_strikesFit : placeRefusal (placingW8 false) 3 planW8 = none := by decide +kernel
theorem test_witness_Admission_strikesSealed : (getEng (placingW8 true) 3).st = .placing ∧ planOk (placingW8 true) 3 planW8 = true ∧
    (getEng (placingW8 true) 3).prev = .resident ∧ strikesSealed (placingW8 true) planW8 = true := by decide +kernel
/-- Engagement 3 is SUSPENDED with the same plan's decks. -/
def suspendedW8 : State := eng3 { st := .suspended, manifest := manifestW8, decks := [logicalDeck deckPlan.addr] }
theorem test_witness_Admission_suspended : (getEng suspendedW8 3).takeover = false ∧ (getEng suspendedW8 3).swapAt = none ∧ suspendedW8.ldg.takeover = false ∧
    planOk suspendedW8 3 planW8 = true ∧ refusing suspendedW8 3 [] planW8 = none ∧
    (planW8.decks.map fun d => logicalDeck d.addr) = (getEng suspendedW8 3).decks := by decide +kernel

/-- PROGRAM_WAYBILL on consignor 2 in a state, of a header and wrap table of so many bytes. -/
def programWb (s : State) (front : List Byte) (g : Word) : State :=
  posted (winWrite (withGran s 1 granDevice) 0x10000 (markAll false front)) 2 0x10 [g, 0x10000, BitVec.ofNat 32 front.length]
theorem test_witness_Waybills_refused :
    let t := programWb { eng3 { st := .loading, plan := some plan0 } with ptl := { up.ptl with stDone := false } } wbFront 3
    let b := programWb (eng3 { st := .loading, plan := some plan0, waybill := some (wb1 true) }) wbFront 3
    let f := programWb (eng3 { st := .loading, plan := some plan0 }) (0 :: wbFront.drop 1) 3
    let p := programWb (eng3 { st := .loading }) wbFront 3
    Accepted t 2 0x10 ∧ (taken t 2).ptl.stDone = false ∧ Accepted b 2 0x10 ∧ (getEng (taken b 2) 3).waybill ≠ none ∧
      Accepted f 2 0x10 ∧ waybillFormOk (winBytes (taken f 2) 0x10000 608) 608 = false ∧ (taken f 2).ptl.stDone = true ∧ (getEng (taken f 2) 3).waybill = none ∧
      Accepted p 2 0x10 ∧ waybillFormOk (winBytes (taken p 2) 0x10000 608) 608 = true ∧ (getEng (taken p 2) 3).plan = none ∧
      ((msgGrans (msgAt p 2)).all fun k => granNamed (taken p 2) 2 k) = true := by unfold Accepted; decide +kernel
theorem test_witness_Waybills_shut : waybillShut { wb1 true with stopped := true } = true ∧ waybillShut { wb1 true with cutAt := some 5 } = true ∧
    waybillShut (wb1 false) = false ∧ (getEng (eng3 {}) 3).plan = none ∧ (getEng (eng3 {}) 3).waybill = none := by decide +kernel
theorem test_witness_Waybills_reports : let w := { wb1 true with cuts := [(1, 900)] }
    let l := { wb1 false with cutAt := some 900 }
    (w.cuts.find? fun x => x.1 == (1 : Fin 64).val) = some (1, 900) ∧ 900 ≤ up.alm.beat.toNat ∧ (∀ c ∈ (wb1 true).cuts, c.1 ≠ (1 : Fin 64).val) ∧
      (0 : Fin 64).val = up.hzl.devnum.toNat ∧ localOver up 3 l = true ∧ l.lead = false ∧ (∀ r ∈ l.reports, r.1 ≠ (0 : Fin 64).val) := by decide +kernel

theorem test_witness_CoresReturn_busy : let s := posted { up with ldg := { up.ldg with takeover := true } } 16 0x41 [31]
    Accepted s 16 0x41 ∧ fenceBusy (taken s 16) = true := by unfold Accepted; decide +kernel
theorem test_witness_Fences_notHeld : fenceCause up 31 4 = false ∧ ({ up with fac := { up.fac with up := false } }).fac.up = false := by decide +kernel

theorem test_witness_BootStore_refused :
    bstProgramSeq (bstKey 1) = none ∧ bstEraseSeq (bstKey 2) = none ∧ bstShort 3 (bstKey 4) = false ∧ bstShort 4 (bstKey 3) = false ∧ bstShort 5 [] = false ∧
      erasing5.bst.busy = true ∧ erasing5.bst.susp = false ∧ up.bst.busy = false ∧ bstEraseSeq (bstKey 2 ++ [(0x3FF08, 0x30002)]) = some 3 ∧ 3 < 4 := by
  decide +kernel
theorem test_witness_BootStore_notErased :
    let s := { up with mem := { up.mem with boot := sset 0xFF [] 0x50000 0x12 } }
    let m := { up with bst := { up.bst with unmarked := [5] } }
    s.bst.busy = false ∧ (∃ w ∈ bstPageWords 0x50000 [(0x50000, 0xAB)], bstErased s w.1 = false) ∧ bstMarked m.bst (0x50000 / 65536) = false := by decide +kernel
theorem test_witness_BootStore_abortProgram :
    let s := { up with bst := { up.bst with busy := true, page := some (0x50000, bstPageWords 0x50000 [(0x50000, 0xAB)]) } }
    bstShort 5 (bstKey 5) = true ∧ s.bst.busy = true ∧ s.bst.opErase = false ∧
      s.bst.page = some (0x50000, [(0x50000, (bstPageWords 0x50000 [(0x50000, 0xAB)]).head!.2)]) := by decide +kernel

theorem test_witness_Beat_edges : let s := { up with alm := { up.alm with epinEn := true } }
    let d := { up with alm := {}, pwr := { up.pwr with st := 3 } }
    s.alm.pllLock = true ∧ s.alm.epinEn = true ∧ s.alm.beat.toNat ≤ (1000 : Beat).toNat ∧ 1 < ((1000 : Beat).toNat + s.alm.epinDly.toNat) % epochBeats ∧
      ((0x1000000 : Beat).toNat + s.alm.epinDly.toNat) % epochBeats ≤ 1 ∧ d.alm.pllLock = false ∧ d.pwr.st = 3 := by decide +kernel
theorem test_witness_Beat_unaligned : let s := below 0 false
    s.alm.pllLock = true ∧ s.alm.master = false ∧ (getPort s 2).upstream = true ∧ s.alm.aligned = false ∧ s.flights = [] := by decide +kernel

/-- `runs` with an itinerary of one leg in force. -/
def runsLeg : State := modCore runs 0 fun c => { c with itins := [{ eng := 3, base := 0x30000, len := 144 }] }
theorem test_witness_Circuits_holds : coreRuns runsLeg 0 = true ∧ (∃ i ∈ (getCore runsLeg (physOf runsLeg 0)).itins, i.eng = 3 ∧ 0 < i.len) ∧
    runsLeg.alm.beat.toNat ≤ circuitBeat (getEng runsLeg 3) 1 ∧ (getEng (modEng runsLeg 3 fun g => { g with staleStop := true }) 3).staleStop = true ∧
    coreRuns up 0 = false ∧ circuitBeat (getEng (modEng runsLeg 3 fun g => { g with anchor := 0 }) 3) 0 < runsLeg.alm.beat.toNat := by
  decide +kernel
def circ1 : Circ := { k := 1, live := true, consignor := 2, qslot := 7, token := 0, epoch := 0, replay := false, start := 5256, endBeat := 5768 }
theorem test_witness_Circuits_noWord : ((getEng (modEng runsLeg 3 fun g => { g with circuits := [circ1] }) 3).circuits.find? fun y => y.k == 1) = some circ1 := by
  decide +kernel

theorem test_witness_Watchdog_ack :
    let s := { modEng runsLeg 3 (fun g => { g with circuits := [circ1] }) with alm := { up.alm with beat := 5320 } }
    coreRuns s 0 = true ∧ ackMissing s 0 3 = true ∧ coreRuns up 0 = false ∧ ackMissing runsLeg 0 3 = false ∧ legMissing runsLeg 0 3 0 = false := by
  decide +kernel
theorem test_witness_Holds_known : let h := nearBeat up.alm.beat.toNat (bitsOf (3 + 2000 * 64 : BitVec 60).toNat 6 24)
    h = 2000 ∧ (getEng (eng3 { holds := [2000] }) 3).holds.contains (BitVec.ofNat 64 h) = true ∧
      nearBeat up.alm.beat.toNat 999 < up.alm.beat.toNat ∧ (∃ c ∈ (getEng (eng3 { circuits := [{ circ1 with held := [2000] }] }) 3).circuits, h ∈ c.held) ∧
      (getEng up 3).holds.contains (BitVec.ofNat 64 h) = false ∧ up.alm.beat.toNat ≤ h ∧ (getEng up 3).circuits = [] := by decide +kernel
theorem test_witness_Holds_releaseSwap : let s := modEng runs 3 fun g => { g with swapAt := some 65536, nextSt := some .free }
    (getEng s 3).swapAt = some 65536 ∧ (getEng s 3).nextSt = some .free ∧
      swapWaits (retireCircuits (advanceTo s (startAfter (getEng s 3) 65536)) 3) 3 = false := by decide +kernel
/-! ## Legs: core 0 of engagement 3 runs circuit 0, which began at beat 1,000, from an itinerary of one leg at Waystation address 0x30000 -/

def legState (b : LegBody) : State :=
  wsWrite (modCore (modEng up 3 fun _ =>
    { st := .ready, bound := 4, plan := some plan0, period := 256, anchor := 1000, pages := [9]
      circuits := [{ k := 0, live := true, consignor := 2, qslot := 7, token := 0, epoch := 0, replay := false, started := true, start := 1000, endBeat := 1256 }] }) 0
    fun c => { c with running := true, acks := [(3, 0)], itins := [{ eng := 3, base := 0x30000, len := 144 }], pageOwner := (List.range 64).map fun i => (i, 3) })
    0 0x30000 (markAll false (imageBytes 3 1 [{ issue := 0, body := b }]))
def ctx0 : LegCtx := { core := 0, eng := 3, circuit := 0, leg := 0 }
def legOf (s : State) : Fetched := (legFetched s ctx0).getD { bits := 0, cyc := 0, base := 0 }
def fetched (b : LegBody) : Fetched := legOf (legState b)

def strike0 : StrikeLeg :=
  { string := 1, tmask := 0x8001, deck := 2, aw := 0, slot := 4, buf := 0, ofmt := 3, part := false, oaddr := 16, rgrp := 0 }
def select0 : SelectLeg := { string := 11, tmask := 0x8000, deck := 2 }
def reduce0 : ReduceLeg :=
  { rgrp := 0, level := false, twin := false, nin := 2, ofmt := 3, dest := false, oaddr := 16, nout := 32, acc := true, iaddr := 64 }
def matrix0 : MatrixDesc :=
  { aAddr := 0, bAddr := 0x4000, cAddr := 0x8000, scaleAddr := 0xFFFFFFFF, kt := 1, t := 1, fmtA := 3, fmtB := 3, out := 3, cast := false, shadow := false,
    zW := 0, zA := 0, sAct := 0, packA := none, packB := none, stripA := 0, stripB := 0, rows := 64, cols := 64 }
def attend0 : AttnDesc :=
  { qAddr := 0, kvAddr := 0x4000, sumAddr := 0, newAddr := 0x8000, oAddr := 0x10000, nblk := 1, last := 1, g := 1, d := 64, fmt := 3, out := 3, sumb := 0,
    sigma := 0x3F800000, ring := 0, pack := none, stripAddr := 0 }
def vec0 : VecDesc :=
  { src0 := 0, src1 := 0x4000, src2 := 0x8000, dst := 0x10000, param0 := 0, param1 := 0x14000, fmtIn := 3, fmtOut := 3, mode := 0, win := 1, n := 64 }
def move0 : PorterDesc :=
  { op := 2, strip := false, packed := false, summary := false, lane := 0, string := 0, tmask := 0, buf := 0, src := 0, dst := 0x4000, len := 64, rows := 2,
    sstride := 64, dstride := 64, region := 0, sumb := 0, blk := 0, stripAddr := 0, sumAddr := 0, tdev := 0, tcore := 0, d := 0, sstrip := 0 }
def porter0 (d : PorterDesc) : PorterLeg :=
  { chan := 3, desc := d, dl := if d.op = 5 then 500 else 0xFFFFFF, late := if d.op = 5 then 1 else 0 }

theorem test_witness_Legs_fetched : let s := legState (.strike strike0)
    Issued s ctx0 (.strike strike0) (fetched (.strike strike0)) ∧ legSpelt s 0 0x30000 (fetched (.strike strike0)).bits (.select select0) = false ∧
      legFetched runs ctx0 = none := by
  unfold Issued Fetches; decide +kernel

/-- The operands of one leg of every class. -/
def operands0 : LegOperands :=
  { strike := strike0, select := select0, reduce := reduce0, matrix := matrix0, attend := attend0, vector := vec0, tag := 0xBEEF, porter := porter0 move0
    replay := false, convoy := { net := 0, way := 1, desc := { move0 with op := 3 }, nslot := 1 } }

/-- A leg that the image spells otherwise: its reserved bits are set. -/
theorem test_witness_Legs_malformed : let s := wsWrite (legState (.select select0)) 0 (0x30000 + 64 + 15) [(0xFF, false)]
    Fetches s ctx0 (legOf s) ∧ legMalformed s (physOf s 0) (legOf s).base (legOf s).bits = true := by
  unfold Fetches; decide +kernel

/-- What the statements say of a leg outside its ranges, for one leg of each class. -/
theorem test_witness_Legs_outOfRange :
    strikeLegOk { strike0 with string := 12 } = false ∧ Issued (legState (.strike { strike0 with string := 12 })) ctx0 (.strike { strike0 with string := 12 })
      (fetched (.strike { strike0 with string := 12 })) ∧
    12 ≤ ({ select0 with string := 12 } : SelectLeg).string.toNat ∧ Issued (legState (.select { select0 with string := 12 })) ctx0
      (.select { select0 with string := 12 }) (fetched (.select { select0 with string := 12 })) ∧
    reduceLegOk { reduce0 with nin := 17 } = false ∧ Issued (legState (.reduce { reduce0 with nin := 17 })) ctx0 (.reduce { reduce0 with nin := 17 })
      (fetched (.reduce { reduce0 with nin := 17 })) ∧
    matrixOk { matrix0 with kt := 0 } = false ∧ Issued (legState (.matrix { matrix0 with kt := 0 })) ctx0 (.matrix { matrix0 with kt := 0 })
      (fetched (.matrix { matrix0 with kt := 0 })) ∧
    attnOk { attend0 with last := 65 } = false ∧ Issued (legState (.attend { attend0 with last := 65 })) ctx0 (.attend { attend0 with last := 65 })
      (fetched (.attend { attend0 with last := 65 })) := by
  unfold Issued Fetches; decide +kernel
theorem test_witness_Legs_outOfRange2 :
    (∀ c ∈ vecForms ctx0 { vec0 with n := 65537 } 0, vecOk c.2.toNat { vec0 with n := 65537 } = false) ∧
    Issued (legState (.vector 0x01 { vec0 with n := 65537 })) ctx0 (.vector 0x01 { vec0 with n := 65537 }) (fetched (.vector 0x01 { vec0 with n := 65537 })) ∧
    porterOk (porter0 { move0 with len := 0 }) 2 = false ∧ Issued (legState (.porter (porter0 { move0 with len := 0 }))) ctx0
      (.porter (porter0 { move0 with len := 0 })) (fetched (.porter (porter0 { move0 with len := 0 }))) ∧
    convoyOk { operands0.convoy with nslot := 0 } 0 = false ∧ Issued (legState (.convoy { operands0.convoy with nslot := 0 })) ctx0
      (.convoy { operands0.convoy with nslot := 0 }) (fetched (.convoy { operands0.convoy with nslot := 0 })) := by
  unfold Issued Fetches; decide +kernel

/-- The units of core 0 are busy for good. -/
def busyCore (s : State) : State :=
  modCore s 0 fun c => { c with meFree := 2 ^ 40, vecFree := 2 ^ 40, chanFree := Vector.replicate 4 (2 ^ 40), laneFree := Vector.replicate 8 (2 ^ 40)
                                banks := (List.range 16).map fun b => { bank := b, start := 8000, len := 8, reps := 1000 } }
theorem test_witness_Legs_busy :
    let m := busyCore (legState (.matrix matrix0))
    let v := busyCore (legState (.vector 0x01 vec0))
    let r := busyCore (legState (.reduce reduce0))
    Issued m ctx0 (.matrix matrix0) (legOf m) ∧ matrixOk matrix0 = true ∧ (legOf m).cyc < (legCore m ctx0 (legOf m)).meFree ∧
      Issued v ctx0 (.vector 0x01 vec0) (legOf v) ∧ vecOk 0x01 vec0 = true ∧ (legOf v).cyc < (legCore v ctx0 (legOf v)).vecFree ∧
      Issued r ctx0 (.reduce reduce0) (legOf r) ∧ reduceLegOk reduce0 = true ∧
      banksFree (legCore r ctx0 (legOf r)) (reduceUse reduce0 (atLeg r ctx0 (legOf r).cyc).alm.beat.toNat) = false := by
  unfold Issued Fetches legCore legPhys; decide +kernel
theorem test_witness_Legs_busy2 :
    let a := busyCore (legState (.attend attend0))
    let p := busyCore (legState (.porter (porter0 move0)))
    let c := busyCore (legState (.convoy operands0.convoy))
    Issued a ctx0 (.attend attend0) (legOf a) ∧ attnOk attend0 = true ∧ (legOf a).cyc < (legCore a ctx0 (legOf a)).meFree ∧
      Issued p ctx0 (.porter (porter0 move0)) (legOf p) ∧ porterOk (porter0 move0) 2 = true ∧ (legOf p).cyc < vget 0 (legCore p ctx0 (legOf p)).chanFree 3 ∧
      Issued c ctx0 (.convoy operands0.convoy) (legOf c) ∧ convoyOk operands0.convoy 0 = true ∧
      laneIdle (atLeg c ctx0 (legOf c).cyc) (legPhys c ctx0 (legOf c)) operands0.convoy.desc.lane = false := by
  unfold Issued Fetches legCore legPhys; decide +kernel
theorem test_witness_Legs_foreign : let d := { vec0 with dst := 0x40000 }
    let s := legState (.vector 0x07 d)
    Issued s ctx0 (.vector 0x07 d) (legOf s) ∧ vecOk 0x07 d = true ∧ (legCore s ctx0 (legOf s)).vecFree ≤ (legOf s).cyc ∧
      banksFree (legCore s ctx0 (legOf s)) (vecUse 0x07 d (legOf s).cyc) = true ∧
      foreignRange (atLeg s ctx0 (legOf s).cyc) (physOf (atLeg s ctx0 (legOf s).cyc) 0) 3 (vecRanges 0x07 d) = some (0x40000, true) := by
  unfold Issued Fetches legCore legPhys; decide +kernel
/-! ### Strikes, selections and reductions -/

/-- The bundle of all zero codes, 8 bits wide. -/
def bundle0 : Bundle := { aw := 8, zp := 128, tag := 0, scale := 0x3F800000, poison := false, codes := [] }
/-- Both tiles of the strike's mask hold a bundle; tile 0's deck 2 is done in W8, active and `n` times marked. -/
def strikeState (n : Nat) (l : StrikeLeg) : State :=
  modTile (modTile (modDeck (legState (.strike l)) (tileNum 0 1 0 * 4 + 2) fun d =>
      { d with jStart := true, jDone := true, marks := n, reg := { d.reg with fmt := .w8 } }) (tileNum 0 1 0) fun t => { t with active := some 2, buf0 := some bundle0 })
    (tileNum 0 1 15) fun t => { t with buf0 := some bundle0 }
def flight0 (w : Land) : Flight := { due := 8000, core := 0, ctx := ctx0, cons := none, what := w }
/-- One effect is under way. -/
def flying (w : Land) : State := { legState (.strike strike0) with flights := [flight0 w] }
theorem test_witness_Strikes_strike : let s := strikeState 1 strike0
    let t := atLeg s ctx0 (legOf s).cyc
    Issued s ctx0 (.strike strike0) (legOf s) ∧ strikeLegOk strike0 = true ∧ strike0.part = false ∧
      wsOwned t (legPhys s ctx0 (legOf s)) 3 (strike0.oaddr.toNat * 64) (drainLen t ctx0 strike0) = true ∧
      ((maskTiles strike0.tmask).foldl (takeStrike ctx0 strike0) (t, [])).2 ≠ [] ∧
      inputFault t (getTile t (tileNum 0 1 0)) (getDeck t (tileNum 0 1 0 * 4 + 2)) strike0 = none ∧ (getTile t (tileNum 0 1 0)).buf0 = some bundle0 := by
  unfold Issued Fetches; decide +kernel
theorem test_witness_Strikes_noBundle : let l := { strike0 with part := true }
    let s := legState (.strike l)
    let t := atLeg s ctx0 (legOf s).cyc
    Issued s ctx0 (.strike l) (legOf s) ∧ strikeLegOk l = true ∧ ((maskTiles l.tmask).foldl (takeStrike ctx0 l) (t, [])).2 = [] ∧
      inputFault t (getTile t (tileNum 0 1 15)) (getDeck t (tileNum 0 1 15 * 4 + 2)) l = some 6 := by
  unfold Issued Fetches; decide +kernel
theorem test_witness_Strikes_lands :
    let o : TileOuts := { tile := 0, key := tileNum 0 1 0 * 4 + 2, outs := [{ val := 0x3F800000, ovf := false, clip := false, poison := false }] }
    let w := Land.outputs strike0 [o]
    let c := convOuts (flying w) 0 strike0.ofmt o.outs
    let bs := c.2.flatMap (outBytes strike0.ofmt)
    (flying w).flights = [flight0 w] ∧ 8000 < (flight0 w).due + 8 ∧ vget 0 (getCore (flying w) 0).busFree strike0.string.toNat ≤ 8000 / 8 ∧
      banksFree (getCore c.1 0) (drainUse (strike0.oaddr.toNat * 64) bs.length (8000 / 8)) = true := by decide +kernel
theorem test_witness_Strikes_select : let s := legState (.select select0)
    Issued s ctx0 (.select select0) (legOf s) ∧ select0.string.toNat < 12 ∧
      (let x : Tile := { switchTo := some 1, switchBeat := 997 }; switchingAt x 1000 = true ∧ switchingAt x 1001 = false) ∧
      activeDeck s {} ≠ some 2 ∧ slotBeat { strikes := [(1000, 1032)] } 1000 = true ∧ slotBeat { strikes := [(1000, 1032)] } 1032 = false ∧
      1000 < ({ workEnd := 1001 } : Tile).workEnd := by
  unfold Issued Fetches; decide +kernel
/-- Two sets of one output wait in group 0. -/
def reducing (l : ReduceLeg) : State :=
  modCore (legState (.reduce l)) 0 fun c => { c with groups := (List.range 2).map fun i =>
    { rgrp := 0, level := l.level, eng := 3, circuit := 0, string := 1, tile := i, deck := 0, twin := none
      outs := [{ val := 0x3F800000, ovf := false, clip := false, poison := false }] } }
theorem test_witness_Strikes_reduce : ∀ l ∈ [reduce0, { reduce0 with level := true, dest := true, acc := false }],
    let s := reducing l
    let t := atLeg s ctx0 (legOf s).cyc
    let p := legPhys s ctx0 (legOf s)
    let sets := reduceSets (getCore t p) ctx0 l
    let n := min l.nout.toNat ((sets.map fun x => x.outs.length).foldl max 0)
    Issued s ctx0 (.reduce l) (legOf s) ∧ reduceLegOk l = true ∧ sets.length = 2 ∧ banksFree (getCore t p) (reduceUse l t.alm.beat.toNat) = true ∧
      (if l.level then decide ((getCore t p).stageFree ≤ 1000) else decide (vget 0 (getCore t p).busFree ((sets.map PartialSet.string).headD 0) ≤ 1000)) = true ∧
      wsOwned t p 3 (l.oaddr.toNat * 64) (n * (fmtBits l.ofmt / 8)) = true ∧ wsOwned t p 3 (l.iaddr.toNat * 64) (4 * n) = true := by
  unfold Issued Fetches legPhys; decide +kernel
theorem test_witness_Selects_active : let s := modTile (legState (.select select0)) (tileNum 0 11 15) fun x => { x with active := some 2 }
    let t := atLeg s ctx0 (legOf s).cyc
    Issued s ctx0 (.select select0) (legOf s) ∧ select0.string.toNat < 12 ∧ maskTiles select0.tmask = [15] ∧
      activeDeck t (getTile t (legTile t ctx0 11 15)) = some select0.deck := by
  unfold Issued Fetches; decide +kernel

/-- A sealed programmed deck, active on its tile, at the strike's first slot beat. -/
theorem test_witness_Sealed : let s := strikeState 0 strike0
    let dk := tileNum 0 1 0 * 4 + 2
    slotFault (getTile s (tileNum 0 1 0)) (sweptDeck s dk) strike0 1000 = none ∧ deckSealed (sweptDeck s dk) = true := by decide +kernel

/-! ### Engines -/

theorem test_witness_Engine_matrix : let s := legState (.matrix matrix0)
    let k := legCore s ctx0 (legOf s)
    Issued s ctx0 (.matrix matrix0) (legOf s) ∧ matrixOk matrix0 = true ∧ k.meFree ≤ (legOf s).cyc ∧ banksFree k (matrixUse matrix0 (legOf s).cyc) = true ∧
      foreignRange (atLeg s ctx0 (legOf s).cyc) (legPhys s ctx0 (legOf s)) 3 (matrixRanges matrix0) = none := by
  unfold Issued Fetches legCore legPhys; decide +kernel
theorem test_witness_Engine_attend : let s := legState (.attend attend0)
    let k := legCore s ctx0 (legOf s)
    Issued s ctx0 (.attend attend0) (legOf s) ∧ attnOk attend0 = true ∧ k.meFree ≤ (legOf s).cyc ∧ k.vecFree ≤ (legOf s).cyc ∧
      banksFree k (attnUse attend0 (legOf s).cyc) = true ∧
      foreignRange (atLeg s ctx0 (legOf s).cyc) (legPhys s ctx0 (legOf s)) 3 (attnRanges attend0) = none := by
  unfold Issued Fetches legCore legPhys; decide +kernel
theorem test_witness_Engine_lands : let m := Land.matrix { matrix0 with t := 2 } 0
    let a := Land.attend { attend0 with nblk := 2 } 8000 0 (attnStart attend0)
    (flying m).flights = [flight0 m] ∧ 0 + 1 < ({ matrix0 with t := 2 }).t ∧ (flying a).flights = [flight0 a] ∧
      8000 < attnDeadline { attend0 with nblk := 2 } 8000 1 ∧ (takeBlock (flying a) 0 ctx0 { attend0 with nblk := 2 } 0).2 = .resident ∧
      (takeBlock (flying a) 0 ctx0 { attend0 with nblk := 2 } 0).1.isSome = true ∧ 8000 < 8000 + attnLatency attend0 ∧
      (takeBlock (flying a) 0 ctx0 attend0 0).2 = .resident := by decide +kernel
theorem test_witness_Engine_write : let w := Land.write [(0, 0x8000, [(1, false)])] {} []
    (flying w).flights = [flight0 w] ∧ (flight0 w).what = .write [((flight0 w).core, 0x8000, [(1, false)])] {} [] ∧ (flight0 w).due ≤ 8000 := by
  refine ⟨rfl, rfl, Nat.le_refl _⟩

/-! ### Vector operations, each issued from an image that holds it -/

def vecReady (vop : Byte) (d : VecDesc) : Prop := VecReady (legState (.vector vop d)) ctx0 vop d (fetched (.vector vop d))
theorem test_witness_Vector_unary : ∀ v ∈ ([0x07, 0x10, 0x20, 0x21, 0x22, 0x23, 0x24, 0x25, 0x26, 0x27, 0x28, 0x29, 0x2A] : List Byte), vecReady v vec0 := by
  unfold vecReady VecReady Issued Fetches legCore legPhys; decide +kernel
theorem test_witness_Vector_more : ∀ v ∈ ([0x01, 0x02, 0x03, 0x05, 0x06, 0x08, 0x04, 0x09] : List Byte), vecReady v vec0 := by
  unfold vecReady VecReady Issued Fetches legCore legPhys; decide +kernel
theorem test_witness_Tensor_reduce : ∀ v ∈ ([0x40, 0x41, 0x42, 0x43, 0x44, 0x60, 0x61, 0x62, 0x30, 0x50] : List Byte), vecReady v vec0 := by
  unfold vecReady VecReady Issued Fetches legCore legPhys; decide +kernel
theorem test_witness_Tensor_codes : vecReady 0x11 { vec0 with fmtOut := 8 } ∧ vecReady 0x70 { vec0 with fmtOut := 8 } ∧
    vecReady 0x71 { vec0 with fmtIn := 8 } := by
  unfold vecReady VecReady Issued Fetches legCore legPhys; decide +kernel

/-! ### Porter legs, convoys and what arrives -/

def porterReady (d : PorterDesc) : Prop :=
  PorterReady (legState (.porter (porter0 d))) ctx0 (porter0 d) d.op.toNat (fetched (.porter (porter0 d)))
def bundleMove : PorterDesc := { move0 with op := 1, dst := 0, dstride := 0, string := 11, tmask := 0x8000, len := 2080, rows := 1 }
def read0 : PorterDesc := { move0 with op := 5, src := 0 }
def kvMove : PorterDesc := { move0 with op := 7, dstride := 0, d := 64 }
theorem test_witness_Porter_ready : porterReady bundleMove ∧ porterReady move0 ∧ porterReady read0 ∧ porterReady { move0 with op := 6 } ∧ porterReady kvMove := by
  unfold porterReady PorterReady Issued Fetches legCore legPhys; decide +kernel
theorem test_witness_Porter_ranges :
    let s := legState (.porter (porter0 bundleMove))
    foreignRange (porterTaken s ctx0 (porter0 bundleMove) 4 (legOf s)) 0 3 (rowRanges 0 64 2080 1 false) = none ∧
    foreignRange s 0 3 (rowRanges move0.src 64 64 2 false ++ rowRanges move0.dst 64 64 2 true) = none ∧
    foreignRange s 0 3 (rowRanges read0.dst 64 64 2 true) = none ∧ foreignOffset s 3 ((fetchParts s 3 read0).map fun x => (x.1, x.2, false)) = none ∧
    foreignOffset s 3 (writeRanges s 3 { move0 with op := 6 }) = none ∧ descRegion s 3 kvMove = none ∧
    foreignOffset s 3 [(kvMove.dst + kvMove.blk * moveBytes kvMove, moveBytes kvMove, true)] = none := by
  unfold porterTaken legPhys; decide +kernel
/-- A region of FP16 in the engagement's own page. -/
def region0 (kv : Bool) : Region := { eng := 3, fmt := 2, slot := 6, kv := kv, prot := false, base := 0x8000, nblk := 1 }
theorem test_witness_Porter_packed : ∀ kv ∈ [false, true], let s := { legState (.porter (porter0 read0)) with regions := [(0, region0 kv)] }
    ownRegion s 3 0 = some (region0 kv) ∧ packerKept s 3 0 = false := by decide +kernel
def convoy0 (net : BitVec 2) : ConvoyLeg := { net := net, way := 1, desc := { move0 with op := if net = 0 then 3 else 4, dstride := if net = 0 then 64 else 0 }, nslot := 1 }
theorem test_witness_Porter_convoys : ∀ net ∈ ([0, 1] : List (BitVec 2)),
    ConvoyReady (legState (.convoy (convoy0 net))) ctx0 (convoy0 net) net.toNat (fetched (.convoy (convoy0 net))) := by
  unfold ConvoyReady Issued Fetches legCore legPhys; decide +kernel
theorem test_witness_Porter_stops : let s := legState (.convoy (convoy0 0))
    let u := convoyTaken s ctx0 (convoy0 0) (legOf s)
    stopDead u 0 = false ∧ banksFree (getCore u (physOf u 0)) (landingUse (convoy0 0).desc u.alm.beat.toNat (roadsLag 0 0)) = true ∧
      foreignRange u (physOf u 0) 3 (rowRanges 0x4000 64 64 2 true) = none ∧
      stopDead (modCore u 5 fun c => { c with stops := 0 }) 5 = true := by unfold convoyTaken legPhys; decide +kernel
theorem test_witness_Porter_posts : ∀ b ∈ [none, some ({} : ReplayBuf)], let w : PostRec := { ws := [{ pa := 0, data := [1], poison := false }], replay := b }
    w.blocks = [] ∧ w.table = none ∧ w.replay = b := by decide +kernel

theorem test_witness_Fetches_channels : let s := { withGran (legState (.strike strike0)) 1 granDevice with regions := [(0, region0 false)] }
    descOk { move0 with op := 8 } = true ∧ foreignOffset s 3 (rowRanges 0 64 64 2 false ++ rowRanges 0x4000 64 64 2 true) = none ∧
      descOk { move0 with op := 9, dst := 0x10000 } = true ∧ (∀ i < 2, windowDevice s (0x10000 + i * 64) 64 = true) ∧
      foreignOffset s 3 (rowRanges 0 64 64 2 true) = none ∧
      descOk { move0 with op := 10, dstride := 0 } = true ∧ ownRegion s 3 0 = some (region0 false) ∧ packerKept s 3 0 = false ∧ (region0 false).kv = false ∧
      foreignOffset s 3 (rowRanges 0 64 64 2 false ++ [((region0 false).base, regionBytes (region0 false), true)]) = none := by decide +kernel
/-- A fetch of circuit 0 under way, with so many bytes delivered and holds raised. -/
def fetch0 (late : BitVec 2) (n holds : Nat) : PendRead :=
  { id := 5, eng := 3, circuit := 0, leg := 0, desc := read0, issue := 1000, dl := 1500, late := late, arrived := n, delivered := n, holds := holds }
def fetching (late : BitVec 2) (n holds : Nat) : State := modCore (legState (.strike strike0)) 0 fun c => { c with reads := [fetch0 late n holds] }
theorem test_witness_Fetches_arrival : let s := fetching 1 0 0
    (getCore s (physOf s 0)).reads[0]? = some (fetch0 1 0 0) ∧ 0 < min 64 (fetchTotal s 3 read0 - 0) ∧
      readEnded s (getCore s 0) (fetch0 1 0 0) = false ∧
      readEnded s { getCore s 0 with reads := [{ fetch0 1 0 0 with id := 6, circuit := 1, issue := 900 }] } (fetch0 1 0 0) = true ∧
      min 0 (fetchTotal s 3 read0 - 0) = 0 := by decide +kernel
theorem test_witness_Fetches_onTime : let s := fetching 1 128 0
    let r := fetch0 1 128 0
    let t := advanceTo s 1500
    (getCore s (physOf s 0)).reads[0]? = some r ∧ r.sampled = false ∧ r.judged ≠ some 1500 ∧ ((getCore t 0).reads.find? fun x => x.id == 5) = some r ∧
      readComplete t r = true ∧ r.late = 1 ∧ readComplete t (fetch0 2 128 0) = true ∧ (fetch0 2 128 0).late ≠ 1 := by decide +kernel
theorem test_witness_Fetches_late : ∀ x ∈ ([(1, 0), (2, 15), (2, 16)] : List (BitVec 2 × Nat)), let s := fetching x.1 0 x.2
    let r := fetch0 x.1 0 x.2
    let t := advanceTo s 1500
    (getCore s (physOf s 0)).reads[0]? = some r ∧ ((getCore t 0).reads.find? fun x => x.id == 5) = some r ∧ readComplete t r = false ∧
      r.sampled = false ∧ r.judged ≠ some 1500 := by decide +kernel
theorem test_witness_Fetches_holds : (fetch0 2 0 15).late ≠ 1 ∧ (fetch0 2 0 15).holds < 16 ∧ 16 ≤ (fetch0 2 0 16).holds := by decide
theorem test_witness_Fetches_drain : let w : Posted := { pa := 64, data := List.replicate 64 7, poison := false }
    let s := { up with prt := { up.prt with writes := [w] } }
    s.prt.writes = w :: [] ∧ wholeCw w = true := by decide +kernel
theorem test_witness_Fetches_complete : let e := { entry7 with st := .started, next := 5, done := 5 }
    let s := modMb (eng3 { st := .ready }) 2 fun p => { p with queue := [(7, e)] }
    getQ s 2 7 = some e ∧ getQ (retireCircuits s e.eng) 2 7 = some e ∧ e.st = .started ∧ e.cancelled = false ∧ e.tokens ≤ e.done := by decide +kernel


/-! ### The Assayer and programming: tile-deck 5, core 0's string 0, tile 1, deck 1 -/

def addr0 : DeckAddr := { core := 0, string := 0, tile := 1, deck := 1 }
def block5 : BlockDesc := { layerId := 1, firstRow := 0, rowCount := 2048, nout := 128, mask := 0xFFFFFFFF }
def planDeck5 : PlanDeck := { addr := addr0, fmt := .w8, pmode := 0, blocks := [block5], parts := [(0, 0)], twin := none, shadow := none }
/-- Its target image lies in page 9 of engagement 3: code 5 for output 0 of row 1, zero elsewhere. -/
def ref5 : TargetRef := { eng := 3, fmt := .w8, image := 0, table := 0x40000, complete := true }
def imaged (st : EngState) (r : TargetRef) (d : Deck → Deck) : State :=
  { engWrite (modDeck (eng3 { st := st, plan := some { plan0 with decks := [planDeck5] }, decks := [5], pages := [9] }) 5 d) 3 128 [(5, false)] with
    targets := [(5, r)] }
/-- The deck is served in W8 with that block. -/
def served5 (d : Deck → Deck) : State :=
  imaged .ready ref5 fun x => d { x with
    jStart := true, jDone := true, marks := 1, reg := { x.reg with fmt := .w8 }
    header := some { fmt := .w8, pmode := 0, owned := true, eng := 3, blocks := [block5], cycles := 1, sDeck := 0, wbId := 77, tenant := 0, salt := 0, kcv := 0 } }

theorem target_met {o : Option Target} {p : Target → Bool} (h : o.any p = true) : ∃ t, o = some t ∧ p t = true := by
  cases o with
  | none => cases h
  | some t => exact ⟨t, rfl, h⟩

theorem test_witness_Calibration_read : isOut up 31 = false ∧ isOut (fenced31 3 true true 31) 31 = true ∧ (let s := served5 id
    let d := getDeck s (deckKey s addr0)
    tileServes s addr0 = true ∧ calibrationDue s d = true ∧ isNext s addr0 (calRank d) = true ∧
      (subStrikesEnd s addr0 true (8 + 8 * fmtQ d.reg.fmt) (s.alm.beat.toNat + deckT s d)).isSome = true) := by decide +kernel
theorem test_witness_Calibration_write : ∀ late ∈ [false, true], let s := served5 fun d =>
      { d with calPend := some (900, [(0, 1024), (0, 0)]), everCal := late }
    let d := getDeck s (deckKey s addr0)
    d.calPend = some (900, [(0, 1024), (0, 0)]) ∧ 900 ≤ s.alm.beat.toNat ∧ served d = true ∧ updateFits s addr0 = true ∧ d.everCal = late := by decide +kernel
theorem test_witness_Calibration_late : let s := served5 fun d => { d with everCal := true }
    let t := { s with alm := { s.alm with beat := 2 ^ 40 } }
    deckT t (getDeck t (deckKey t addr0)) < t.alm.beat.toNat - (getDeck t (deckKey t addr0)).lastCal.toNat := by decide +kernel
theorem test_witness_Calibration_gamma : ∀ due ∈ [false, true], let s := served5 fun d => { d with gammaDue := due }
    let d := getDeck s (deckKey s addr0)
    d.calPend = none ∧ d.gammaDue = due ∧ served d = true ∧ updateFits s addr0 = true := by decide +kernel
theorem test_witness_Calibration_sweep : let s := served5 fun d => { d with masked := 0xFFFFFFFF, suspect := true }
    let d := sweptDeck s (deckKey s addr0)
    tileServes s addr0 = true ∧ sweepDue s d = true ∧ isNext s addr0 (sweepRank d) = false ∧ (let s := served5 fun d =>
      { d with masked := 0xFFFFFFFF, suspect := true, uncal := false, lastCal := 1000 }
    isNext s addr0 (sweepRank (sweptDeck s (deckKey s addr0))) = true ∧
      (subStrikesEnd s addr0 false (sweepStrikes (sweptDeck s (deckKey s addr0)) s.free (List.range 2048))
        (s.alm.beat.toNat + 16 * deckT s (sweptDeck s (deckKey s addr0)))).isSome = true) := by decide +kernel
theorem test_witness_Calibration_swept : ∀ b ∈ [1000, 1001], let r : SweepRes := { ready := b, samples := [], sigma := [(0, 62)], flagged := [(0, 1)] }
    (getDeck (served5 fun d => { d with sweepPend := some r }) 5).sweepPend = some r := by decide +kernel
/-- A deck of a calibrated tile with so many flagged rows of group 0, which the sweep found too wide or not. -/
def flagged5 (rows : List Nat) (wide : List Nat) (r : TargetRef) : State :=
  let s := served5 fun d => { d with flagged := rows.map fun x => (0, x), wide := wide, uncal := false, lastCal := 1000, lastSweep := 1000 }
  { s with targets := [(5, r)] }
theorem test_witness_Calibration_locate : ∀ x ∈ [([1], []), ([1], [0]), ([], [0])], let s := flagged5 x.1 x.2 ref5
    let d := sweptDeck s (deckKey s addr0)
    ((d.flagged.filter fun y => y.1 == (0 : Fin 32).val).map Prod.snd) = x.1 ∧ d.wide = x.2 ∧ served d = true ∧ tileServes s addr0 = true ∧
      isNext s addr0 repairRank = true := by decide +kernel
theorem test_witness_Calibration_noTarget : targetOf { flagged5 [1] [] ref5 with targets := [] } (logicalDeck addr0) = none := rfl
theorem test_witness_Calibration_unread : ∃ t, targetOf (flagged5 [1] [] { ref5 with complete := false }) (logicalDeck addr0) = some t ∧ (!t.complete) = true :=
  target_met (by decide +kernel)
theorem test_witness_Calibration_columns : let s := flagged5 [1] [] ref5
    ∃ t, targetOf s (logicalDeck addr0) = some t ∧ (!t.poisoned && t.complete &&
      let r := readRows (sweptDeck s 5) t 0 [1] ((List.range 36).map fun j => { off := j, rows := [], below := true, broken := false })
      (r.1.filter fun c => !c.rows.isEmpty || c.broken).length != 0 &&
        (readsEnd s addr0 r.2 (s.alm.beat.toNat + 16 * deckT s (sweptDeck s 5))).isSome) = true :=
  target_met (by decide +kernel)

/-! ### Repairs -/

def fault5 (rung : BitVec 4) (tried : List Nat) : Finding :=
  { seq := 4, beat := 0, core := 0, string := 0, tile := 1, deck := 1, fmt := 1, group := 0, offset := 0, row := 0xFFFF, cls := 1, rung := rung, st := stOpen,
    output := 0, hterm := 0, eng := 3, nrows := 1, rows := [1], tried := tried }
def faulty (f : Finding) (r : TargetRef) (d : Deck → Deck) : State :=
  let s := served5 fun x => d { x with uncal := false, lastCal := 1000, lastSweep := 1000 }
  { s with targets := [(5, r)], asy := { s.asy with ring := [f] } }
theorem test_witness_Repair_due : ∀ n ∈ ([1, 2, 3] : List (BitVec 4)), let f := fault5 n []
    let s := faulty f ref5 id
    findingOf s 4 = some f ∧ repairable s f = true ∧ noRung f = false ∧ f.tried.contains f.rung.toNat = false ∧
      hasProgramRun s f.core f.string f.tile = true ∧ freeSpare (getDeck s (findingDeck s f)) f.group.toNat = some 0 ∧ (repairTarget s f).isSome = true ∧
      (repairTarget (faulty f { ref5 with complete := false } id) f).isSome = false ∧ repairable (faulty f { ref5 with complete := false } id) f = true := by
  decide +kernel
theorem test_witness_Repair_ends : ∀ n ∈ [2, 3], ∀ b ∈ [0, 1], let f := fault5 (BitVec.ofNat 4 n) []
    let r : Repair := { seq := 4, rung := n, rows := [], bad := b }
    let s := faulty f ref5 fun d => { d with repair := some r }
    findingOf s 4 = some f ∧ (getDeck s (findingDeck s f)).repair = some r ∧ updateFits s (findingAddr f) = true ∧
      freeSpare (getDeck s (findingDeck s f)) f.group.toNat = some 0 := by decide +kernel
theorem test_witness_Repair_closing : ∀ n ∈ ([1, 2] : List (BitVec 4)), let f := fault5 n [n.toNat]
    let s := faulty f ref5 fun d => { d with masked := 0xFFFFFFFF }
    let d := getDeck s (findingDeck s f)
    findingOf s 4 = some f ∧ f.st = stOpen ∧ f.tried.contains f.rung.toNat = true ∧ served d = true ∧ d.repair = none ∧
      tileServes s (findingAddr f) = true ∧ isNext s (findingAddr f) repairRank = true ∧ closingRows s d f = [1] ∧
      (subStrikesEnd s (findingAddr f) false (sweepStrikes d s.free [1]) (s.alm.beat.toNat + 16 * deckT s d)).isSome = true := by decide +kernel

/-! ### Programming and erases -/

/-- Tile-deck 5 being programmed for engagement 3 by `p`. -/
def progs (p : ProgState) (d : Deck → Deck) : State := imaged .loading ref5 fun x => d { x with prog := some p }
theorem test_witness_Programming_start : let s := progs {} id
    let d := getDeck s (deckKey s addr0)
    d.prog = some {} ∧ d.progRunning = false ∧ d.erasing = false ∧ d.outOfService = false ∧ d.jDone = false ∧ pumpReady s addr0 = true ∧
      stringBusy s 5 = false ∧ tilePaused s 5 = false ∧
      (deckGoal s (logicalDeck addr0)).any (fun x => x.1.complete && !x.1.poisoned && x.2 == planDeck5) = true := by decide +kernel
theorem test_witness_Programming_loop : let s := progs { row := 1 } fun d => { d with progRunning := true, jStart := true }
    let d := getDeck s (deckKey s addr0)
    programs s addr0 = true ∧ marksReady d 1 = true ∧ loopFits s addr0 800 programRank = true ∧
      (deckGoal s 5).any (fun x => nextRow s 5 { row := 1 } .w8 x.1 == 1 && !(pendOf d 1 (goalsAt s 5 .w8 x.1 1)).isEmpty) = true := by decide +kernel
theorem test_witness_Programming_S0 : let p : ProgState := { row := 2048 }
    let s := progs p fun d => { d with progRunning := true, jStart := true, jProgress := 0xFFFFFFFF }
    marksReady (getDeck s 5) rowS0 = true ∧ (deckGoal s 5).any (fun x => nextRow s 5 p .w8 x.1 == rowS0) = true := by decide +kernel
theorem test_witness_Programming_log : let e : EraseEnt := { slots := [0], deck := 5, cycles := 1, map := [(0, 0, 1)], committed := true }
    let s0 := progs {} fun d => { d with progRunning := true, jStart := true }
    let s := { s0 with bst := { s0.bst with eraseLog := [e] } }
    marksReady (getDeck s 5) rowLog = true ∧ (deckGoal s 5).any (fun x => nextRow s 5 {} .w8 x.1 == rowLog) = true := by decide +kernel
theorem test_witness_Programming_journal : let s := progs { row := 64 } fun d => { d with progRunning := true, jStart := true }
    let d := getDeck s 5
    programs s addr0 = true ∧ loopFits s addr0 600 programRank = true ∧ d.jStart = true ∧
      (deckGoal s 5).any (fun x => nextRow s 5 { row := 64 } .w8 x.1 == 64) = true ∧
      ((List.range 32).find? fun j => !bitOf d.jProgress.toNat j && decide (64 * (j + 1) ≤ 64)) = some 0 ∧
      (getDeck (progs {} fun d => { d with progRunning := true }) 5).jStart = false := by decide +kernel
theorem test_witness_Programming_last : let p : ProgState := { row := 2059 }
    let s := progs p fun d => { d with progRunning := true, jStart := true, jProgress := 0xFFFFFFFF, header := (getDeck (served5 id) 5).header }
    let d := getDeck s 5
    d.jStart = true ∧ ((List.range 32).find? fun j => !bitOf d.jProgress.toNat j && decide (64 * (j + 1) ≤ 2059)) = none ∧ d.header.isSome = true ∧
      (deckGoal s 5).any (fun x => nextRow s 5 p .w8 x.1 == 2059) = true := by decide +kernel
def goal5 : CellGoal := { col := 0, gt := 672000, band := 1000 }
theorem test_witness_Programming_rows : let d : Deck := {}
    pendOf d 0 [] = [] ∧ pendOf d 0 [goal5] = [goal5] ∧ 16 ≤ 16 ∧ 16 < 17 := by decide +kernel
theorem test_witness_Programming_repair : let r : Repair := { seq := 4, rung := 1, rows := [(1, [goal5])] }
    let s := faulty (fault5 1 []) ref5 fun d => { d with repair := some r }
    let d := getDeck s (deckKey s addr0)
    d.prog = none ∧ d.repair = some r ∧ r.rows = (1, [goal5]) :: [] ∧ repairFits s addr0 = true := by decide +kernel

theorem test_witness_Erases_start : let s := progs {} fun d => { d with prog := none, erasing := true }
    let d := getDeck s (deckKey s addr0)
    let e : EraseEnt := { slots := [0], deck := 5, cycles := 1, map := [], committed := false }
    let l := { s with bst := { s.bst with eraseLog := [e] } }
    d.erasing = true ∧ d.progRunning = false ∧ eraseFits s addr0 = true ∧ eraseLogged s 5 = false ∧ logRoom s.bst.eraseLog (mapToSave s 5) = true ∧
      eraseLogged l 5 = true ∧ lastErase l.bst.eraseLog 5 = some e ∧ eraseFits l addr0 = true := by decide +kernel
theorem test_witness_Erases_loop : let p : ProgState := { eraseLoops := 8, looping := true }
    let s := progs p fun d => { d with erasing := true, progRunning := true }
    let d := getDeck s (deckKey s addr0)
    d.prog = some p ∧ d.erasing = true ∧ d.progRunning = true ∧ (getTile s (5 / 4)).workEnd ≤ s.alm.beat.toNat ∧ p.eraseLoops < 9 ∧
      9 ≤ ({ p with eraseLoops := 9 }).eraseLoops ∧ eraseFits s addr0 = true ∧ inReset s = false := by decide +kernel
theorem test_witness_Erases_log : let s := { up with bst := { up.bst with eraseLog := [{ slots := [0], deck := 5, cycles := 1, map := [], committed := false }] } }
    ∃ e ∈ (commitErase s 5).bst.eraseLog, e.deck = 5 := by decide +kernel
theorem test_witness_Erases_resume : let s := progs {} fun d => { d with prog := none, jStart := true }
    deckBusy (getDeck s 5) = false ∧ eraseLogged s 5 = false ∧ deckPartial (getDeck s 5) = true ∧ logicalOfPhys s 5 = some 5 ∧
      (targetOf s 5).any (fun t => t.complete && !t.poisoned) = true := by decide +kernel
theorem test_witness_Upkeep_patrol : up.ptl.inservice = true ∧ up.pwr.st.toNat < 2 ∧ up.ptl.rate ≠ 0 ∧ up.ptl.injArm = false ∧
    (let s := { up with ptl := { up.ptl with injArm := true, injStack := 1 } }; s.ptl.injArm = true ∧ s.ptl.injStack = 1) := by decide +kernel
theorem test_witness_Upkeep_groups : markedGroup (getStack up 1) = none ∧ markedGroup (getStack (modStack up 1 fun k => { k with dgfail := 4 }) 1) ≠ none ∧
    inReset up = false ∧ ({ up with ptl := {} }).ptl.stDone = false := by decide +kernel
theorem test_witness_Codewords : sget false up.mem.smPoison (64 / 64) = false ∧ markedGroup (getStack up (paStack 64)) = none ∧
    errSymbols (List.replicate 40 0) = [] ∧ errSymbols ([1, 0, 2, 0, 3, 0, 4] ++ List.replicate 33 0) ≠ [] ∧
    (errSymbols ([1, 0, 2, 0, 3, 0, 4] ++ List.replicate 33 0)).length ≤ 4 ∧ up.ptl.ueLog.length < 16 := by decide +kernel

def upPort (f : Port → Port) : State := modPort up 2 fun p => f { p with st := .up }
def frame7 : Frame := { symErrs := 7, ctrl := 0, tagp := 0, payload := List.replicate 500 0 }
theorem test_witness_Frames : (getPort (upPort id) 2).st = .up ∧ frame7.symErrs ≤ 7 ∧ (getPort (upPort id) 2).group.length < 3 := by decide +kernel
theorem test_witness_Ports_lost : (getPort (modPort up 2 fun p => { p with st := .lost, waitRetry := true }) 2).st = .lost ∧
    (getPort (modPort up 2 fun p => { p with st := .lost, waitRetry := true }) 2).waitRetry = true ∧ up.alm.pllLock = true ∧
    (bitsOf (8 : BitVec 60).toNat 3 6, bitsOf (8 : BitVec 60).toNat 0 3) ∉ up.hzl.seenLost ∧
    (1, 0) ∈ ({ up with hzl := { up.hzl with seenLost := [(1, 0)] } }).hzl.seenLost := by decide +kernel
theorem test_witness_Ports_wake : let s := { modPort up 2 fun p => { p with st := .sleep } with pwr := { up.pwr with st := 2 } }
    s.pwr.st ≠ 1 ∧ s.pwr.hzlWake = true ∧ (getPort s 2).st = .sleep := by decide +kernel
theorem test_witness_Ports_nak : let s := upPort fun p => { p with unacked := [(5, [])] }
    (getPort s 2).st = .up ∧ ((getPort s 2).unacked.any fun f => f.1 == BitVec.ofNat 32 (5 : BitVec 60).toNat) = true := by decide +kernel

def train (n k : Nat) : State := modPort up 2 fun p => { p with st := .training, phase := n, fails := k }
theorem test_witness_Training : canTrain (train 5 0) 2 5 = true ∧ (getPort (train 5 0) 2).st = .training ∧ canTrain (train 6 0) 2 6 = true ∧ flightTime 26 ≤ 8 ∧
    canTrain (train 7 0) 2 7 = true ∧ (getPort (train 7 1) 2).fails < 2 ∧ 2 ≤ (getPort (train 1 2) 2).fails ∧
    (let s := modPort up 2 fun p => { p with st := .sleep }; canTrain s 2 1 = true ∧ (getPort s 2).st = .sleep) := by decide +kernel
theorem test_witness_Route : up.alm.pllLock = true ∧ inReset up = false ∧ (up.hzl.ports.all fun p => p.st != .training) = true := by decide +kernel
/-- Device 0 of a Route of two, its port 0 joined to a device of the same version. -/
def pair0 : State :=
  modPort { up with fac := { up.fac with ver := 0x10000 }, hzl := { up.hzl with ndev := 2 } } 0 fun p => { p with peerVer := 0x10000 }
theorem test_route_of_two :
    routeOk pair0 [(0, 0x10000, [(0, 1, 3)]), (1, 0x10000, [(3, 0, 3)])] = true ∧
    routeOk pair0 [(0, 0x10000, [(0, 1, 3)]), (1, 0x20000, [(3, 0, 3)])] = false := by decide +kernel

/-- A connection over the out-of-band transport with its algorithms negotiated and session 9 of the identity 7. -/
def spdm (p : SpdmPort) : State :=
  { smbus with cus := { smbus.cus with
      cert2 := [1], conns := [{ port := p, version := true, caps := true, algs := true, handshake := [(4, true)], sessions := [(9, some 7)] }] } }
theorem test_witness_Spdm_served : spdmSilent (spdm .mctp) .mctp = false ∧ notReady (spdm .mctp) = none ∧ spdmSilent (hostTouch (spdm .doe)) .doe = false ∧
    notReady (hostTouch (spdm .doe)) = none ∧ spdmSilent (spdm (.tunnel 2)) (.tunnel 2) = false := by decide +kernel
theorem test_witness_Spdm_connection : let c := getConn (spdm .mctp) .mctp
    c.version = true ∧ c.caps = true ∧ c.algs = true ∧ (getConn smbus .mctp).algs = false ∧ (2 : Fin 8).val ∈ certSlots (spdm .mctp) ∧
      0 < (chainOf (spdm .mctp) 2).length ∧ blocksAsked 0xFF = some blockNumbers ∧ (c.handshake.find? fun x => x.1 == 4) = some (4, true) ∧
      hasSession (spdm .mctp) .mctp 9 = true ∧ (spdm .mctp).bst.creds = [] ∧ (spdm .mctp).cus.tenancy = .none := by decide +kernel
theorem test_witness_Spdm_room : connSessions (getConn smbus .mctp) < sessionLimit .mctp ∧ (spdm .doe).cus.tdi = .unlocked ∧
    ({ (spdm .doe).cus with tdi := .locked }).tdi = .locked := by decide +kernel
theorem test_witness_Keys_tunnel : Accepted (posted (withGran up 1 granDevice) 2 0x50 [0x10000, 64]) 2 0x50 := by unfold Accepted; decide +kernel
theorem test_witness_Keys_deliver : let s := posted (withGran (held up) 1 granDevice) 2 0x51 [0x10000, 64, 9]
    Accepted s 2 0x51 ∧ ((getConn (taken s 2) (.tunnel (Fin.ofNat 16 2))).sessions.find? fun x => x.1 == wordOf (wordAt (msgAt s 2) 3)) = some (9, some 7) := by
  unfold Accepted; decide +kernel
theorem test_witness_TenantSwitch : let s := { held up with cus := { (held up).cus with tenancy := .switching } }
    s.cus.tenancy = .switching ∧ s.cus.switchWaits = false ∧ s.pwr.st.toNat < 2 ∧ s.fac.up = true := by decide +kernel
theorem test_witness_Management : mgmtUp admin = true ∧ (admin.bst.creds.find? fun c => c.1 == 5) = some (5, .admin) ∧ mgmtHas admin 5 .admin = true ∧
    (admin.bst.creds.filter fun c => c.1 != 6).length < 8 ∧ (held admin).cus.tenancy = .held ∧ mgmtUp (held admin) = true ∧
    mgmtHas (held admin) 5 .admin = true ∧ mgmtHas admin 6 .admin = false := by decide +kernel
theorem test_witness_Debug : let s := { up with cus := { up.cus with debugPort := true } }
    debugUp s = true ∧ scopeOpen s 2 = true ∧ scopeOpen s 3 = true ∧ 0x2FFFFC + 4 ≤ wsSize ∧ wsSize < 0x2FFFFD + 4 ∧ debugUp up = false ∧
      ∃ u, exec (.debugPortAccess (.waystation 0 0)) up = .next u := by
  refine ⟨by decide +kernel, by decide +kernel, by decide +kernel, by decide, by decide, by decide +kernel, _, rfl⟩

theorem test_witness_Power_waits : let s := { up with pwr := { up.pwr with target := 1 } }
    factorFree s = true ∧ s.pwr.target ≠ s.pwr.st ∧ s.pwr.target ≠ 0 ∧ refusingUnit s s.pwr.target.toNat = none ∧ up.pwr.target = up.pwr.st ∧
      refusingUnit { s with bst := { s.bst with busy := true } } 1 = some 3 := by decide +kernel
theorem test_witness_Power_entry : ({ up.pwr with entering := true, target := 3 }).entering = true ∧ ({ up.pwr with entering := true, target := 3 }).target = 3 ∧
    up.pwr.target ≠ 3 := by decide +kernel
theorem test_witness_Power_idle : factorFree up = true ∧ up.pwr.st = 0 ∧ up.pwr.hint ≠ 2 ∧ chooseTarget up = 0 ∧ queuedEng up = none := by decide +kernel
theorem test_witness_Power_wakes : let s := { up with pwr := { up.pwr with st := 2, epochs := 3, epochsPassed := 3 } }
    s.pwr.entering = false ∧ s.pwr.st = 2 ∧ s.pwr.exiting = false ∧ s.pwr.epochs ≠ 0 ∧ s.pwr.epochs.toNat ≤ s.pwr.epochsPassed ∧
      exitDone { s with pwr := { s.pwr with exiting := true } } = true ∧ ({ up.pwr with st := 1 }).st = 1 ∧ up.fac.running = true ∧ up.pwr.st.toNat < 2 := by
  decide +kernel

theorem test_witness_Supplies_regulators : regulatorsRun up = true ∧ (getCore up 31).ivrOn = false ∧ (getCore up 31).ivrLock = false ∧
    up.ldg.spares.contains 31 = false ∧ (getCore up 31).ivrRetries < 3 ∧ 3 ≤ (getCore (modCore up 31 fun c => { c with ivrRetries := 3 }) 31).ivrRetries ∧
    (let x := vget {} (getCore up 33).pumps 11; x.on = false ∧ x.lockout = false ∧ x.retries < 3) ∧ 3 ≤ ({ retries := 3 : Pump }).retries := by decide +kernel
theorem test_witness_Supplies_steps : (let s := modCore up 0 fun c => { c with ivrOn := true, varr := 1200 }
      (getCore s 0).ivrOn = true ∧ (getCore s 0).varr = 1200 ∧ inStandby s 0 = true) ∧ (getCore (modCore up 0 fun c => { c with ivrOn := true, varr := 900 }) 0).varr = 900 ∧
    (getPort (modPort up 2 fun p => { p with st := .sleep }) 2).laneMv = 900 ∧ up.pwr.exiting = false ∧
    (getPort (upPort fun p => { p with laneMv := 700 }) 2).st ≠ .lost ∧ (getPort (upPort fun p => { p with laneMv := 700 }) 2).laneMv = 700 ∧
    (getPort (upPort fun p => { p with laneMv := 700 }) 2).st ≠ .sleep := by decide +kernel
theorem test_witness_Supplies_toll : inReset up = false ∧ up.pwr.st ≠ 3 ∧ 0 < ({ up.tol with n1 := 1, n100 := 1 }).n1 ∧
    0 < ({ up.tol with n1 := 1, n100 := 1 }).n100 := by decide +kernel
theorem test_witness_HostAccesses : ∃ t, exec (.mbxClrErr .bar0 2) up = .next t := ⟨_, rfl⟩


theorem test_witness_Tamper : 10000 ≤ 10000 ∧ 9999 < 10000 ∧ up.pwr.vsbOk = true ∧ ({ up.pwr with vsbOk := false }).vsbOk = false := by decide +kernel
theorem test_witness_FencedCores_fenced : let s := posted (fenced31 2 true true 31) 16 0x40 [31]
    Accepted s 16 0x40 ∧ isFenced (taken s 16) (bitsOf (wordAt (msgAt s 16) 1) 0 5) = true := by unfold Accepted; decide +kernel
theorem test_witness_FencedCores_busy : let s := posted { up with ldg := { up.ldg with takeover := true } } 16 0x40 [31]
    Accepted s 16 0x40 ∧ isFenced (taken s 16) (bitsOf (wordAt (msgAt s 16) 1) 0 5) = false ∧ fenceBusy (taken s 16) = true := by
  unfold Accepted; decide +kernel
theorem test_witness_FencedCores_unfence : let s := posted (modMb up 16 fun p => { p with recs := [{ opcode := 0x40, seq := 0, eng := 30, grans := [] }] }) 16 0x41 [31]
    Accepted s 16 0x41 ∧ fenceBusy (taken s 16) = true := by unfold Accepted; decide +kernel
theorem test_witness_ProgramsWholeWords : bstProgramSeq bstProgram5 = some (0x50000, [(0x50000, 0xAB)]) ∧ up.bst.busy = false ∧
    bstMarked up.bst (0x50000 / 65536) = true ∧ bstErased up (0x50000 / 32 * 32) = true ∧
    bstErased { up with mem := { up.mem with boot := sset 0xFF [] 0x5001F 0x12 } } (0x50000 / 32 * 32) = false := by decide +kernel
theorem test_witness_SuspendedErases : let s := { up with bst := { up.bst with busy := true, opErase := true, sector := 5, susp := true } }
    s.bst.susp = true ∧ (0x5FFFF : BitVec 26).toNat / 65536 = s.bst.sector.toNat ∧ (0x60000 : BitVec 26).toNat / 65536 ≠ s.bst.sector.toNat ∧
      (0x5FFFF : BitVec 26).toNat / 32 * 32 ∉ s.bst.prefetch ∧ bstShort 4 (bstKey 4) = true ∧ bstShort 5 (bstKey 5) = true := by decide +kernel
/-- R474: a word of the sector under a suspended erase reads all ones with a count of 7. -/
theorem test_suspended_read :
    let s := { up with bst := { up.bst with busy := true, opErase := true, sector := 5, susp := true }, mem := { up.mem with boot := [(0x50000, 0)] } }
    (bstRead s 0x50000 0 false false).bst.readData = List.replicate 32 0xFF ∧ (bstRead s 0x50000 0 false false).bst.lastCbc = 7 ∧
      (bstRead s 0x50000 0 false false).bst.ue = false := by decide +kernel

/-! ## More clauses of the same statements -/

theorem test_witness_Upkeep_asleep : (let s := { up with pwr := { up.pwr with st := 2 } }; 2 ≤ s.pwr.st.toNat ∧ s.ptl.inservice = true) ∧
    ({ up with ptl := { up.ptl with inservice := false } }).ptl.inservice = false ∧ ({ up with ptl := { up.ptl with rate := 0 } }).ptl.rate = 0 ∧
    (3 : BitVec 3) ≠ 0 ∧ (3 : BitVec 3) ≠ 7 ∧ (4 : BitVec 3) ≠ 0 ∧ (4 : BitVec 3) ≠ 7 := by decide +kernel

def rx (b : Byte) : RxFrame := { ftype := 0, ctrl := 0, payload := List.replicate 500 b, bad := false, slot := none }
theorem test_witness_Frames_fourth : let s := upPort fun p => { p with group := [rx 0, rx 1, rx 2] }
    (getPort s 2).st = .up ∧ (getPort s 2).group.length = 3 ∧ 7 < ({ frame7 with symErrs := 8 } : Frame).symErrs ∧ (getPort (countUe (upPort id) 2) 2).st = .up ∧
      (getPort (countUe (upPort id) 2) 2).group.length < 3 ∧ (getPort (countUe s 2) 2).group.length = 3 ∧
      slotOwner (getEng up 3) 2 0 = none := by decide +kernel
theorem test_witness_Frames_closes : (getPort (upPort fun p => { p with prevGroup := [rx 0] }) 2).prevGroup ≠ [] := by decide +kernel
theorem test_witness_Frames_unowned : let x := getPort (upPort fun p => { p with rxSeq := 5 }) 2
    let q (n : Nat) : Word := BitVec.ofNat 32 (leNat ((leBytes 4 n).take 4))
    q 5 = x.rxSeq ∧ q 6 ≠ x.rxSeq ∧ x.nakSent = false ∧ (q 6 - x.rxSeq).toNat < 2 ^ 31 ∧ 2 ^ 31 ≤ (q 4 - x.rxSeq).toNat := by decide +kernel
def linked : State :=
  modEng (upPort id) 3 fun _ => { st := .ready, period := 256, anchor := 5000, plan := some { plan0 with links := [{ port := 2, first := 0, n := 1, dest := some (0, 0, 64) }] } }
theorem test_witness_Frames_owned : slotOwner (getEng linked 3) 2 0 ≠ none ∧
    (getPort (advanceTo linked (circuitBeat (getEng linked 3) 0 + 0 + (getPort linked 2).d.toNat)) 2).st = .up ∧ (getPort linked 2).st = .up := by decide +kernel

theorem test_witness_Training_down : (let s := modPort up 2 id; canTrain s 2 1 = true ∧ (getPort s 2).st = .down) ∧ canTrain (train 5 0) 2 6 = false ∧
    8 < flightTime 100000 ∧ (getPort (train 6 1) 2).fails < 2 := by decide +kernel

theorem test_witness_Keys_noTenant : let s := posted (withGran (held up) 1 granDevice) 2 0x51 [0x10000, 64, 8]
    Accepted s 2 0x51 ∧ ∀ x ∈ (getConn (taken s 2) (.tunnel (Fin.ofNat 16 2))).sessions, x.1 = wordOf (wordAt (msgAt s 2) 3) → x.2 = none := by
  have h : (let s := posted (withGran (held up) 1 granDevice) 2 0x51 [0x10000, 64, 8]
    (getConn (taken s 2) (.tunnel (Fin.ofNat 16 2))).sessions.all fun x => x.1 != wordOf (wordAt (msgAt s 2) 3) || x.2.isNone) = true := by decide +kernel
  refine ⟨by unfold Accepted; decide +kernel, fun x hx e => ?_⟩
  have hx := List.all_eq_true.mp h x hx
  rw [e] at hx
  simpa using hx
theorem test_witness_Management_none : admin.cus.tenancy ≠ .held ∧ mgmtUp admin = true ∧ mgmtHas admin 5 .admin = true := by decide +kernel
theorem test_witness_Debug_scopes : let s := { held up with cus := { (held up).cus with debugPort := true } }
    debugUp s = true ∧ scopeOpen s 1 = false ∧ scopeOpen s 2 = false ∧ scopeOpen s 3 = false ∧
      (let o := { s with cus := { s.cus with scopes := 2 } }; debugUp o = true ∧ scopeOpen o 1 = true) ∧ paLimit - 4 + 4 ≤ paLimit ∧
      paLimit < paLimit - 3 + 4 := by decide +kernel

theorem test_witness_Power_trek : let s := { up with pwr := { up.pwr with st := 1, target := 0 } }
    factorFree s = true ∧ s.pwr.target ≠ s.pwr.st ∧ s.pwr.target = 0 ∧ up.pwr.entering = false ∧ up.pwr.st = 0 ∧ s.pwr.st = 1 := by decide +kernel
theorem test_witness_Power_deep : let s := { up with pwr := { up.pwr with st := 3, epochs := 3, epochsPassed := 3 } }
    s.pwr.entering = false ∧ s.pwr.st = 3 ∧ s.pwr.epochs ≠ 0 ∧ s.pwr.epochs.toNat ≤ s.pwr.epochsPassed ∧
      ({ up with pwr := { up.pwr with entering := true, target := 2 } }).pwr.target ≠ 3 := by decide +kernel
theorem test_witness_Power_exit : let s := { up with pwr := { up.pwr with st := 2, exiting := true } }
    s.pwr.st = 2 ∧ s.pwr.exiting = true ∧ exitDone s = true := by decide +kernel
/-! ## Well-formedness: an ill-formed term for each check, and its sound neighbour -/

theorem test_wf_segment : (Instr.waybillSegment 0 0 []).wf = false ∧ (Instr.waybillSegment 0 0 [1]).wf = true := by decide
theorem test_wf_bar4Read : (Instr.bar4Read 0 0 true 0).wf = false ∧ (Instr.bar4Read 0 4097 true 0).wf = false ∧ (Instr.bar4Read 0 4096 true 0).wf = true := by
  decide
theorem test_wf_bar4Write : (Instr.bar4Write 0 [] true false 0).wf = false ∧ (Instr.bar4Write 0 (List.replicate 4097 0) true false 0).wf = false := by
  decide +kernel
theorem test_wf_arrayRead : (Instr.bstArrayRead 0 0 false true).wf = false ∧ (Instr.bstArrayRead 0 0 true true).wf = true := by decide
theorem test_wf_arrival : (Instr.readDataArrival 0 0 0 []).wf = false ∧ (Instr.readDataArrival 0 0 1 [(0, some [])]).wf = false := by decide
theorem test_wf_drain : (Instr.writeDrain (some (List.replicate 39 0))).wf = false ∧ (Instr.writeDrain (some (List.replicate 40 0))).wf = true := by decide
theorem test_wf_patrol : (Instr.patrolVisit 0 (some []) 7).wf = false := by decide
theorem test_wf_locate : (Instr.findingLocate { core := 0, string := 0, tile := 0, deck := 0 } 0 [36]).wf = false := by decide
theorem test_wf_loop : (Instr.programLoop { core := 0, string := 0, tile := 0, deck := 0 } 2059).wf = false ∧
    (Instr.programLoop { core := 0, string := 0, tile := 0, deck := 0 } 2058).wf = true ∧
    (Instr.programLoop { core := 0, string := 0, tile := 0, deck := 0 } 2061).wf = true := by decide
theorem test_wf_frames : (Instr.ownedSlotFrame 0 0 0 0 { symErrs := 0, ctrl := 0, tagp := 0, payload := [] }).wf = false ∧
    (Instr.unownedDataFrame 0 { symErrs := 0, ctrl := 0, tagp := 0, payload := [] }).wf = false ∧
    (Instr.unownedReplayFrame 0 { symErrs := 0, ctrl := 0, tagp := 0, payload := [] }).wf = false ∧
    (Instr.idleFrame 0 { symErrs := 0, ctrl := 0, tagp := 0, payload := [] }).wf = false ∧ (Instr.idleFrame 0 frame7).wf = true := by decide +kernel
theorem test_wf_train : (Instr.portTrain 0 0 true 0 0 0 0).wf = false ∧ (Instr.portTrain 0 8 true 0 0 0 0).wf = false ∧ (Instr.portTrain 0 7 true 0 0 0 0).wf = true := by
  decide
theorem test_wf_route : (Instr.routeFormation [(0, 0, [(1, 0, 0), (1, 2, 0)])]).wf = false ∧
    (Instr.routeFormation (List.replicate 65 (0, 0, []))).wf = false := by decide +kernel

/-! ## No command has an encoding: the table gives no bits -/

theorem test_no_words : decodeTableWord 32 0 = none ∧ (up.withFetchWord 32 0).pending = [] := by decide +kernel

/-! ## Worked examples of the spec -/

/-- The state a command leaves. -/
def run (c : Instr) (s : State) : State := match exec c s with | .next t => t | _ => s

/-- A rational as an FP32 word. -/
def num (neg : Bool) (n d : Nat) : Word := (toFp (.fin neg n d)).1

/-- Chapter 7, DBF8: 5.3 gives E 129 and 85, −0.1 gives −2. -/
theorem test_dbf8 : encodeDbf8 [fp (num false 53 10), fp (num true 1 10)] = (0x81, [85, -2], [false, false]) := by decide +kernel

/-- Chapter 7, R193: the made-up W8 layer of three outputs, of which outputs 1 and 2 are compared (log 34). -/
def layer3 : Array Word := #[num false 1 2, num true 19 16, num false 5 16, num false 1 16, num false 5 256, num true 1 64, num false 1 128, num false 3 256,
  num false 19 8, num false 7 8, num true 5 8, num false 7 4]
theorem test_quantise_weights : (quantiseLayer .w8 3 4 layer3).q.toList.drop 4 = [125, -100, 50, 75, 127, 47, -33, 94] := by decide +kernel
theorem test_quantise_scales : (quantiseLayer .w8 3 4 layer3).sOut.toList.drop 1 = [0x47, 0x7E] := by decide +kernel

/-- Chapter 7, the scale tracker: window −1.2 to 3.4 gives the zero point 67; 1.0 becomes 116 and 3.4 becomes 235. -/
theorem test_tracker : let k := trackerScale 0 8 (num true 12 10) (num false 34 10)
    k.2 = 67 ∧ (quantCode 8 k.1 k.2 (num false 1 1)).1 = 116 ∧ (quantCode 8 k.1 k.2 (num false 34 10)).1 = 235 := by decide +kernel

/-- Chapter 8: latencies of the two made-up legs. -/
theorem test_matrix_latency : matrixLatency { matrix0 with kt := 16, t := 64, fmtA := 3, fmtB := 3, out := 1 } = 65578 := by decide +kernel
theorem test_attend_latency : attnLatency { attend0 with g := 8, d := 128, nblk := 64, last := 32, fmt := 3, out := 1 } = 16686 := by decide +kernel

/-- Chapter 2: −45 in W8 holds 0, 1, 1, 5 in its N columns. -/
theorem test_slices : (List.range 8).map (sliceDigit .w8 (-45)) = [(0, 1), (0, 1), (0, 1), (1, 1), (0, 3), (1, 3), (0, 7), (5, 7)] := by decide +kernel
/-- Chapter 2: the spare of group 26 carries column 941. -/
theorem test_spare : mapSpare 0 0 5 = 0x85 ∧ physCol { reg := { spareMap := [(26, 0x85)] } } 26 5 = 970 ∧
    physCol { reg := { spareMap := [(26, 0x85)] } } 26 33 = 969 := by decide +kernel

/-- Chapter 3: shift-add gives 445, and the correction 0.3558 to four figures. -/
theorem test_correction :
    let x := (correct { reg := { fmt := .w8 }, beta := [(0, 16)], gamma := [(0, 655)], colsum := [(0, 1500)], scales := [(0, 0x19)], sDeck := num false 1 1000 } 4
      { aw := 4, zp := 8, tag := 0, scale := num false 1 20, poison := false, codes := [] } 0 445).1
    (fp (num false 35575 100000)).lt (fp x) = true ∧ (fp x).lt (fp (num false 35585 100000)) = true := by decide +kernel

/-- Chapter 5: residuals +1, −1, +2 give h = 0.436, which is 0x36FC in FP16. -/
theorem test_hterm : htermOf .w8 [672000, -672000, 1344000] = 0x36FC := by decide +kernel

/-- Chapter 12: units of 256 bytes alternate between the stacks. -/
theorem test_stacks : [0x41000, 0x41100, 0x41200, 0x41700, 0x41800].map paStack = [0, 1, 0, 1, 0] := by decide

/-- Chapter 13: MBX_GRAN_REQ 0x0001_0120 hands over two granules; word 0 of the SUBMIT and of its reply. -/
theorem test_gran_request : let s := run (.mbxGranReq (.bar2 true) 3 0x00010120) { up with gran := [(0x120, { flag := granHost, cid := 3 }), (0x121, { flag := granHost, cid := 3 })] }
    (getGran s 0x120).flag = granDevice ∧ (getGran s 0x121).flag = granDevice := by decide +kernel
def submitting : State :=
  posted (modMb (modEng up 9 fun _ => { st := .ready, bound := 8 }) 3 fun p => { p with qepoch := 2 }) 3 0x20 [9, 0, 0, 0, 0, 0, 1]
theorem test_submit : word0 0x20 7 3 = 0x00E35A20 ∧ let p := getMb (run (.submit 3) submitting) 3
    sget 0 p.outRing 0 = 0x02435A20 ∧ sget 0 p.outRing 2 = 0x00000200 ∧ p.wmark = 1 := by decide +kernel
/-- Word 0 and word 1 of the completion: OK, APPROX, two blocks. -/
theorem test_completion : (completionMsg 3 4 { entry7 with eng := 9, seq := 0x5A, done := 1, approx := true, acount := 2 }).take 2 = [0x06A35A20, 0x00020100] := by
  decide +kernel

/-- Chapter 18: the watchdog, then PERST_N during option loading: the end of the stretch leaves RST_CAUSE 0x000A_0024. -/
theorem test_reset_cause : regRead (run .stretchEnd { up with rst :=
      { up.rst with stretching := true, stCold := false, stFirst := 4, stSeen := 0xA, stVsbLost := false, stOlrestart := true } }) 0x1004 = 0x000A0024 := by
  decide +kernel
theorem test_reset_joins : let t := run (.perstN true) { up with rst := { up.rst with loading := true, loadCold := false, stCold := false, stFirst := 4, stSeen := 8, count := 7 } }
    t.rst.stFirst = 4 ∧ t.rst.stSeen = 0xA ∧ t.rst.stOlrestart = true ∧ t.rst.count = 7 := by decide +kernel

/-- The check value of the CRC-32 of IEEE 802.3. -/
theorem test_crc32 : crc32 [0x31, 0x32, 0x33, 0x34, 0x35, 0x36, 0x37, 0x38, 0x39] = 0xCBF43926 := by decide +kernel

/-- R272: an image starts with its engagement, the version and the period. -/
theorem test_image : (imageBytes 3 40 [{ issue := 0, body := .select { string := 1, tmask := 1, deck := 2 } }]).take 12 = [3, 1, 40, 0, 1, 0, 0, 0, 80, 0, 0, 0] := by
  decide +kernel


end Sys2Proof.Tests
end

section
/-! PROOFS. Deck selection (R50): a select leg that names the deck already active. -/

namespace Sys2Proof.Machine

theorem forEach_eq_self {α : Type} (l : List α) (s : State) (f : State → α → State) (h : ∀ a ∈ l, f s a = s) : forEach l s f = s := by
  induction l with
  | nil => rfl
  | cons a l ih =>
    obtain ⟨ha, hl⟩ := List.forall_mem_cons.mp h
    calc forEach (a :: l) s f
      _ = forEach l (f s a) f := rfl
      _ = forEach l s f := by rw [ha]
      _ = s := ih hl

/-- No deck is active during the four beats of a switch (R47, R48). -/
theorem switchingAt_eq_false_of_activeAt {t : Tile} {b : Nat} {d : Fin 4} (h : activeAt t b = some d) : switchingAt t b = false := by
  cases hw : t.switchTo with
  | none => simp only [switchingAt, hw, Option.isSome_none, Bool.false_and]
  | some e =>
    have hover : t.switchBeat.toNat + 4 ≤ b := Decidable.byContradiction fun hlt => by
      simp only [activeAt, hw, if_neg hlt] at h
      cases h
    simp only [switchingAt, decide_eq_false (Nat.not_lt.mpr hover), Bool.and_false]

theorem selectTile_of_active {s : State} {ctx : LegCtx} {l : SelectLeg} {t : Nat}
    (h : activeDeck s (getTile s (legTile s ctx l.string.toNat t)) = some l.deck) : selectTile ctx l s t = s := by
  have hs : switchingAt (getTile s (legTile s ctx l.string.toNat t)) s.alm.beat.toNat = false := switchingAt_eq_false_of_activeAt h
  simp only [selectTile, hs, h, Bool.false_eq_true, ↓reduceIte]

/-- An issued select leg that names an existing string acts on each tile of its mask in turn. -/
theorem selectRun_issued {s : State} {ctx : LegCtx} {l : SelectLeg} {f : Fetched} (hi : Issued s ctx (.select l) f) (hl : l.string.toNat < 12) :
    selectRun s ctx l = forEach (maskTiles l.tmask) (atLeg s ctx f.cyc) (selectTile ctx l) := by
  rw [selectRun, onLeg_issued s ctx _ f _ hi, if_neg (Nat.not_le.mpr hl)]

theorem exec_select (s : State) (ctx : LegCtx) (l : SelectLeg) : exec (.select ctx l) s = .next (selectRun s ctx l) := rfl

/-- Settles O60: every tile of the mask leaves the state at the leg's issue as it stands, so the whole leg does. -/
theorem selectsOfTheActiveDeckDoNothing : Obligations.SelectsOfTheActiveDeckDoNothing := by
  intro s ctx l f hi hl t hactive
  have hrun : selectRun s ctx l = t := by
    rw [selectRun_issued hi hl]
    exact forEach_eq_self _ t _ fun k hk => selectTile_of_active (hactive k hk)
  rw [exec_select, hrun]

end Sys2Proof.Machine
end

section
/-! PROOFS. The boot store while an erase is suspended (R474). -/

namespace Sys2Proof.Machine

/-! ## What the array commands and an array read execute -/

theorem exec_bstProgram (s : State) (l : List (Nat × Word)) : exec (.bstProgram l) s = .next (bstStartProgram s l) := rfl
theorem exec_bstErase (s : State) (l : List (Nat × Word)) : exec (.bstErase l) s = .next (bstStartErase s l) := rfl
theorem exec_bstSuspend (s : State) (l : List (Nat × Word)) : exec (.bstSuspend l) s = .next (bstDoSuspend s l) := rfl
theorem exec_bstResume (s : State) (l : List (Nat × Word)) : exec (.bstResume l) s = .next (bstDoResume s l) := rfl
theorem exec_bstAbort (s : State) (l : List (Nat × Word)) : exec (.bstAbort l) s = .next (bstDoAbort s l) := rfl
theorem exec_bstProgramDone (s : State) : exec .bstProgramDone s = .next (bstFinishProgram s) := rfl
theorem exec_bstArrayRead (s : State) (off : BitVec 26) (n : Nat) (fetch taken : Bool) :
    exec (.bstArrayRead off n fetch taken) s = .next (bstRead s off.toNat n fetch taken) := rfl

/-- A word and its first byte lie in the same sector. -/
theorem wordBase_div_sector (off : Nat) : off / 32 * 32 / 65536 = off / 65536 := by omega

/-- A word of the sector under a suspended erase, held by neither buffer. -/
theorem bstRead_inside {s : State} {off : Nat} (hs : s.bst.susp = true) (hp : off / 32 * 32 ∉ s.bst.prefetch) (hb : off / 32 * 32 ∉ s.bst.branch)
    (h : off / 65536 = s.bst.sector.toNat) (n : Nat) (fetch taken : Bool) :
    bstRead s off n fetch taken =
      bstMod s fun b => { b with readData := List.replicate 32 0xFF, fetchFault := false, loadAbort := false, lastCbc := 7 } := by
  simp only [bstRead, List.contains_eq_mem, hs, hp, hb, wordBase_div_sector, h, bstMod, Bool.not_true, Bool.and_false, Bool.true_and, decide_false,
    beq_self_eq_true, Bool.false_eq_true, ↓reduceIte]

/-- The count that an array read of the word at `base` reports (R465, R467). -/
def readCount (s : State) (base errs : Nat) : Nat := if bstErased s base then 0 else bstCount s errs

/-- An array read that reports the count `cbc`: the fault of an uncorrectable word, or its data to the Factor and the buffers (R466, R467). -/
def arrayRead (s : State) (base errs cbc : Nat) (fetch taken : Bool) : State :=
  let t := bstNote (if 5 < errs then freshen s else s) base cbc
  if cbc = 7 then bstMod t fun b => { b with readData := [], fetchFault := fetch, loadAbort := !fetch }
  else bstMod t fun b =>
    { b with readData := if 5 < errs then (List.range 32).map (Config.escapedByte [BitVec.ofNat 16 errs]) else bstBytes s base 32
             fetchFault := false
             loadAbort := false
             prefetch := if fetch then [base, base + 32, base + 64, base + 96] else b.prefetch
             branch := if taken then lruTouch 16 b.branch base else b.branch }

/-- A word that neither buffer holds, with no operation running and outside the sector of a suspended erase. -/
theorem bstRead_array {s : State} {off : Nat} (hrun : s.bst.busy = false ∨ s.bst.susp = true) (hp : off / 32 * 32 ∉ s.bst.prefetch)
    (hb : off / 32 * 32 ∉ s.bst.branch) (hout : s.bst.susp = false ∨ off / 65536 ≠ s.bst.sector.toNat) (n : Nat) (fetch taken : Bool) :
    bstRead s off n fetch taken = arrayRead s (off / 32 * 32) n (readCount s (off / 32 * 32) n) fetch taken := by
  have hrun' : (s.bst.busy && !s.bst.susp) = false := by rcases hrun with h | h <;> simp [h]
  have hout' : (s.bst.susp && off / 65536 == s.bst.sector.toNat) = false := by rcases hout with h | h <;> simp [h]
  simp only [bstRead, List.contains_eq_mem, hp, hb, wordBase_div_sector, hrun', hout', decide_false, Bool.false_eq_true, ↓reduceIte]
  by_cases hn : 5 < n
  · simp only [arrayRead, readCount, hn, ↓reduceIte]
    split <;> rfl
  · simp only [arrayRead, readCount, hn, ↓reduceIte]
    split <;> rfl

/-- The state with BUSY and SUSPENDED as given, and nothing else changed. -/
def withOperation (busy susp : Bool) (s : State) : State := bstMod s fun b => { b with busy := busy, susp := susp }

theorem readCount_withOperation (busy susp : Bool) (s : State) (base errs : Nat) :
    readCount (withOperation busy susp s) base errs = readCount s base errs := rfl

/-- An array read neither reads nor writes BUSY and SUSPENDED. -/
theorem arrayRead_withOperation (busy susp : Bool) (s : State) (base errs cbc : Nat) (fetch taken : Bool) :
    arrayRead (withOperation busy susp s) base errs cbc fetch taken = withOperation busy susp (arrayRead s base errs cbc fetch taken) := by
  unfold arrayRead
  split
  · split <;> rfl
  · split <;> rfl

theorem bstRead_outside {s : State} {off : Nat} (hs : s.bst.susp = true) (hp : off / 32 * 32 ∉ s.bst.prefetch) (hb : off / 32 * 32 ∉ s.bst.branch)
    (h : off / 65536 ≠ s.bst.sector.toNat) (n : Nat) (fetch taken : Bool) :
    bstRead s off n fetch taken = withOperation s.bst.busy s.bst.susp (bstRead (withOperation false false s) off n fetch taken) := by
  have hidle : bstRead (withOperation false false s) off n fetch taken =
      withOperation false false (arrayRead s (off / 32 * 32) n (readCount s (off / 32 * 32) n) fetch taken) := by
    rw [bstRead_array (s := withOperation false false s) (.inl rfl) hp hb (.inl rfl), readCount_withOperation, arrayRead_withOperation]
  calc bstRead s off n fetch taken
    _ = arrayRead (withOperation s.bst.busy s.bst.susp s) (off / 32 * 32) n (readCount s (off / 32 * 32) n) fetch taken :=
      bstRead_array (.inr hs) hp hb (.inr h) n fetch taken
    _ = withOperation s.bst.busy s.bst.susp (bstRead (withOperation false false s) off n fetch taken) := by
      rw [arrayRead_withOperation, hidle]; rfl

/-- While an operation is under way, PROGRAM and ERASE set CMDERR whether or not their stores form a sequence. -/
theorem bstStartProgram_busy {s : State} (h : s.bst.busy = true) (l : List (Nat × Word)) : bstStartProgram s l = bstCmdErr s := by
  cases hl : bstProgramSeq l <;> simp only [bstStartProgram, hl, h, ↓reduceIte]

theorem bstStartErase_busy {s : State} (h : s.bst.busy = true) (l : List (Nat × Word)) : bstStartErase s l = bstCmdErr s := by
  cases hl : bstEraseSeq l <;> simp only [bstStartErase, hl, h, ↓reduceIte]

theorem bstDoSuspend_suspended {s : State} (h : s.bst.susp = true) (l : List (Nat × Word)) : bstDoSuspend s l = bstCmdErr s := by
  simp only [bstDoSuspend, h, Bool.not_true, Bool.and_false, Bool.false_eq_true, ↓reduceIte]

theorem bstDoResume_suspended {s : State} {l : List (Nat × Word)} (hl : bstShort 4 l = true) (hb : s.bst.busy = true) (hs : s.bst.susp = true) :
    bstDoResume s l = bstMod s fun b => { b with susp := false } := by
  simp only [bstDoResume, hl, hb, hs, Bool.and_self, ↓reduceIte]

@[simp] theorem dropImage_cmdErr (b : Bst) (sec : Nat) : (dropImage b sec).cmdErr = b.cmdErr := by
  unfold dropImage; split <;> rfl

/-- ABORT of an erase: the operation is over, with no command error. -/
theorem bstDoAbort_erase {s : State} {l : List (Nat × Word)} (hl : bstShort 5 l = true) (hb : s.bst.busy = true) (he : s.bst.opErase = true) :
    (bstDoAbort s l).bst.busy = false ∧ (bstDoAbort s l).bst.susp = false ∧ (bstDoAbort s l).bst.cmdErr = s.bst.cmdErr := by
  simp only [bstDoAbort, bstCutShort, hl, hb, he, Bool.and_self, ↓reduceIte]
  exact ⟨rfl, rfl, dropImage_cmdErr _ _⟩

/-- Settles O59: an array read outside the sector under erase meets neither flag, one inside it takes the exception of R474, and the two accepted
commands are told from the refused ones by what is under way. -/
theorem suspendedErasesAreRead : Obligations.SuspendedErasesAreRead := by
  intro s hbusy herase hsusp
  refine ⟨fun off n fetch taken hp hb => ⟨fun hin => ?_, fun hout => ?_⟩, fun l => ⟨?_, ?_, ?_, fun hl => ?_, fun hl => ?_⟩⟩
  case refine_1 => rw [exec_bstArrayRead, bstRead_inside hsusp hp hb hin, bstMod]
  case refine_2 =>
    refine ⟨_, exec_bstArrayRead _ off n fetch taken, ?_⟩
    rw [exec_bstArrayRead, bstRead_outside hsusp hp hb hout, hbusy, hsusp]
    rfl
  case refine_3 => rw [exec_bstProgram, bstStartProgram_busy hbusy]; rfl
  case refine_4 => rw [exec_bstErase, bstStartErase_busy hbusy]; rfl
  case refine_5 => rw [exec_bstSuspend, bstDoSuspend_suspended hsusp]; rfl
  case refine_6 => rw [exec_bstResume, bstDoResume_suspended hl hbusy hsusp, bstMod]
  case refine_7 => exact ⟨_, exec_bstAbort s l, bstDoAbort_erase hl hbusy herase⟩

end Sys2Proof.Machine
end

section
/-! PROOFS. A PROGRAM of the boot store (R470): which bytes of the array it changes, and to what. -/

namespace Sys2Proof.Machine

/-! ## The bytes of words -/

/-- The byte that a word holds at the address `a`, little-endian. -/
def byteAt (w : Word) (a : Nat) : Byte := w.extractLsb' (8 * (a % 4)) 8

theorem byteAt_ones (a : Nat) : byteAt 0xFFFFFFFF a = 0xFF := by
  have h : ∀ r : Fin 4, byteAt 0xFFFFFFFF r.val = 0xFF := by decide
  simpa [byteAt] using h ⟨a % 4, Nat.mod_lt a (by decide)⟩

theorem leBytes_word (w : Word) : leBytes 4 w.toNat = [byteAt w 0, byteAt w 1, byteAt w 2, byteAt w 3] := by
  simp only [leBytes, byteAt, List.cons.injEq, and_true]
  refine ⟨?_, ?_, ?_, ?_⟩ <;> apply BitVec.eq_of_toNat_eq <;> simp [Nat.shiftRight_eq_div_pow, Nat.div_div_eq_div_mul]

@[simp] theorem length_wordsBytes (ws : List Word) : (wordsBytes ws).length = 4 * ws.length := by
  induction ws with
  | nil => rfl
  | cons w ws ih =>
    rw [wordsBytes, List.flatMap_cons, List.length_append, ← wordsBytes, ih, leBytes_word, List.length_cons]
    simp only [List.length_cons, List.length_nil]
    omega

/-- Byte `i` of a list of words is byte `i % 4` of its word `i / 4`. -/
theorem getElem?_wordsBytes (ws : List Word) (i : Nat) : (wordsBytes ws)[i]? = ws[i / 4]?.map fun w => byteAt w i := by
  induction ws generalizing i with
  | nil => simp [wordsBytes]
  | cons w ws ih =>
    rw [wordsBytes, List.flatMap_cons, ← wordsBytes, leBytes_word]
    match i with
    | 0 | 1 | 2 | 3 => rfl
    | i + 4 =>
      have hdiv : (i + 4) / 4 = i / 4 + 1 := by omega
      have hbyte : ∀ v : Word, byteAt v (i + 4) = byteAt v i := fun v => by simp [byteAt]
      simp only [List.cons_append, List.nil_append, List.getElem?_cons_succ, ih, hdiv, hbyte]

/-! ## The stores of a page -/

/-- Whether the array word of the byte at `a` received a store. -/
def Given (data : List (Nat × Word)) (a : Nat) : Prop := ∃ d ∈ data, d.1 / 32 = a / 32

/-- The word that the stores leave at `a`: the last one given there, or all ones (R470). -/
def storeAt (data : List (Nat × Word)) (a : Nat) : Word := ((data.reverse.find? fun d => d.1 == a).map Prod.snd).getD 0xFFFFFFFF

/-- The eight stores of the array word of the byte at `a`. -/
def wordStores (data : List (Nat × Word)) (a : Nat) : List Word := (List.range 8).map fun i => storeAt data (a / 32 * 32 + i * 4)

theorem bstWordData_eq {page w a : Nat} (h : page + w * 32 = a / 32 * 32) (data : List (Nat × Word)) : bstWordData page w data = wordStores data a := by
  unfold bstWordData wordStores storeAt
  refine List.map_congr_left fun i _ => ?_
  rw [h]
  cases data.reverse.find? fun d => d.1 == a / 32 * 32 + i * 4 <;> rfl

theorem storeAt_absent {data : List (Nat × Word)} {a : Nat} (h : ∀ d ∈ data, d.1 ≠ a) : storeAt data a = 0xFFFFFFFF := by
  have hnone : (data.reverse.find? fun d => d.1 == a) = none := by simpa [List.find?_eq_none] using h
  rw [storeAt, hnone]
  rfl

theorem storeAt_last {a : Nat} {before after : List (Nat × Word)} (v : Word) (h : ∀ d ∈ after, d.1 ≠ a) : storeAt (before ++ (a, v) :: after) a = v := by
  have hnone : (after.reverse.find? fun d => d.1 == a) = none := by simpa [List.find?_eq_none] using h
  simp [storeAt, List.find?_append, hnone]

/-- What a valid PROGRAM sequence says of its page: it is aligned, and every data store lies in it (R469). -/
theorem bstProgramSeq_page {l data : List (Nat × Word)} {page : Nat} (h : bstProgramSeq l = some (page, data)) :
    page % 256 = 0 ∧ ∀ d ∈ data, d.1 / 256 * 256 = page := by
  simp only [bstProgramSeq] at h
  split at h
  · split at h
    case isTrue hok =>
      obtain ⟨rfl, rfl⟩ := Prod.mk.inj (Option.some.inj h)
      simp only [Bool.and_eq_true, List.all_eq_true, beq_iff_eq] at hok
      exact ⟨Nat.mul_mod_left _ _, fun d hd => (hok.2 d hd).1.1.1⟩
    case isFalse => cases h
  · cases h

/-- The words that a PROGRAM writes are the array words that received a store, each whole. -/
theorem mem_bstPageWords {l data : List (Nat × Word)} {page : Nat} (h : bstProgramSeq l = some (page, data)) {w : Nat × List Word} :
    w ∈ bstPageWords page data ↔ ∃ a, Given data a ∧ w = (a / 32 * 32, wordStores data a) := by
  obtain ⟨halign, hdata⟩ := bstProgramSeq_page h
  simp only [bstPageWords, List.mem_map, List.mem_filter, List.mem_range, List.any_eq_true, beq_iff_eq]
  constructor
  · rintro ⟨k, ⟨-, d, hd, hk⟩, rfl⟩
    have hbase : page + k * 32 = d.1 / 32 * 32 := by omega
    exact ⟨d.1, ⟨d, hd, rfl⟩, by rw [bstWordData_eq hbase, hbase]⟩
  · rintro ⟨a, ⟨d, hd, hda⟩, rfl⟩
    have hpage := hdata d hd
    have hbase : page + (a / 32 - page / 32) * 32 = a / 32 * 32 := by omega
    exact ⟨a / 32 - page / 32, ⟨by omega, d, hd, by omega⟩, by rw [bstWordData_eq hbase, hbase]⟩

theorem pageWords_erased {l data : List (Nat × Word)} {page : Nat} (h : bstProgramSeq l = some (page, data)) (s : State) :
    ((bstPageWords page data).all fun w => bstErased s w.1) = true ↔ ∀ a, Given data a → bstErased s (a / 32 * 32) = true := by
  simp only [List.all_eq_true, mem_bstPageWords h]
  constructor
  · exact fun hall a ha => hall _ ⟨a, ha, rfl⟩
  · rintro hall _ ⟨a, ha, rfl⟩
    exact hall a ha

/-! ## The array after a PROGRAM -/

/-- The array after the words `ws` have been written in turn. -/
def writeWords (m : Sparse Byte) (ws : List (Nat × List Word)) : Sparse Byte := ws.foldl (fun m w => ssetRun 0xFF m w.1 (wordsBytes w.2)) m

theorem sget_writeWords_outside {ws : List (Nat × List Word)} {a : Nat} (h : ∀ w ∈ ws, a < w.1 ∨ w.1 + (wordsBytes w.2).length ≤ a) (m : Sparse Byte) :
    sget 0xFF (writeWords m ws) a = sget 0xFF m a := by
  induction ws generalizing m with
  | nil => rfl
  | cons w ws ih =>
    obtain ⟨hw, hws⟩ := List.forall_mem_cons.mp h
    calc sget 0xFF (writeWords m (w :: ws)) a
      _ = sget 0xFF (ssetRun 0xFF m w.1 (wordsBytes w.2)) a := ih hws _
      _ = sget 0xFF m a := sget_ssetRun_outside 0xFF _ m hw

/-- A byte that some of the words cover, where all that cover it agree. -/
theorem sget_writeWords_inside {ws : List (Nat × List Word)} {a : Nat} {x : Byte}
    (hagree : ∀ w ∈ ws, w.1 ≤ a → a < w.1 + (wordsBytes w.2).length → (wordsBytes w.2)[a - w.1]? = some x)
    (hcover : ∃ w ∈ ws, w.1 ≤ a ∧ a < w.1 + (wordsBytes w.2).length) (m : Sparse Byte) : sget 0xFF (writeWords m ws) a = x := by
  induction ws generalizing m with
  | nil => simp at hcover
  | cons w ws ih =>
    obtain ⟨hw, hws⟩ := List.forall_mem_cons.mp hagree
    change sget 0xFF (writeWords (ssetRun 0xFF m w.1 (wordsBytes w.2)) ws) a = x
    by_cases hlater : ∃ v ∈ ws, v.1 ≤ a ∧ a < v.1 + (wordsBytes v.2).length
    · exact ih hws hlater _
    · obtain ⟨v, hv, hin⟩ := hcover
      obtain rfl : v = w := (List.mem_cons.mp hv).resolve_right fun hlate => hlater ⟨v, hlate, hin⟩
      obtain ⟨hlo, hhi⟩ := hin
      have hnot : ∀ v ∈ ws, a < v.1 ∨ v.1 + (wordsBytes v.2).length ≤ a := fun v hv => by
        have hout : ¬(v.1 ≤ a ∧ a < v.1 + (wordsBytes v.2).length) := fun hin => hlater ⟨v, hv, hin⟩
        omega
      rw [sget_writeWords_outside hnot, sget_ssetRun, dif_pos ⟨hlo, hhi⟩]
      exact Option.some.inj ((List.getElem?_eq_getElem _).symm.trans (hw hlo hhi))

@[simp] theorem length_wordsBytes_wordStores (data : List (Nat × Word)) (a : Nat) : (wordsBytes (wordStores data a)).length = 32 := by
  simp [wordStores]

/-- Within its array word, the byte at `a` is the byte of the store at `a / 4 * 4`. -/
theorem getElem?_wordStores (data : List (Nat × Word)) {a b : Nat} (h : a / 32 = b / 32) :
    (wordsBytes (wordStores data b))[a - b / 32 * 32]? = some (byteAt (storeAt data (a / 4 * 4)) a) := by
  have hlt : (a - b / 32 * 32) / 4 < 8 := by omega
  have hstore : b / 32 * 32 + (a - b / 32 * 32) / 4 * 4 = a / 4 * 4 := by omega
  have hbyte : (a - b / 32 * 32) % 4 = a % 4 := by omega
  simp [getElem?_wordsBytes, wordStores, hlt, hstore, byteAt, hbyte]

/-- R470: outside the words that received a store the array is as it was. -/
theorem sget_pageWords_outside {l data : List (Nat × Word)} {page a : Nat} (h : bstProgramSeq l = some (page, data)) (m : Sparse Byte)
    (hnot : ¬Given data a) :
    sget 0xFF (writeWords m (bstPageWords page data)) a = sget 0xFF m a := by
  refine sget_writeWords_outside (fun w hw => ?_) m
  obtain ⟨b, ⟨d, hd, hdb⟩, rfl⟩ := (mem_bstPageWords h).mp hw
  have hne : d.1 / 32 ≠ a / 32 := fun heq => hnot ⟨d, hd, heq⟩
  rw [length_wordsBytes_wordStores]
  omega

/-- R470: inside a word that received a store, every byte is the one its store gives. -/
theorem sget_pageWords_inside {l data : List (Nat × Word)} {page a : Nat} (h : bstProgramSeq l = some (page, data)) (m : Sparse Byte)
    (ha : Given data a) :
    sget 0xFF (writeWords m (bstPageWords page data)) a = byteAt (storeAt data (a / 4 * 4)) a := by
  refine sget_writeWords_inside (fun w hw hlo hhi => ?_) ⟨_, (mem_bstPageWords h).mpr ⟨a, ha, rfl⟩, ?_⟩ m
  · obtain ⟨b, -, rfl⟩ := (mem_bstPageWords h).mp hw
    rw [length_wordsBytes_wordStores] at hhi
    exact getElem?_wordStores data (by omega)
  · rw [length_wordsBytes_wordStores]
    omega

/-! ## The command and its end -/

theorem bstStartProgram_refused {s : State} {l data : List (Nat × Word)} {page a : Nat} (h : bstProgramSeq l = some (page, data))
    (hidle : s.bst.busy = false) (ha : Given data a) (herased : bstErased s (a / 32 * 32) = false) :
    bstStartProgram s l = bstMod s fun b => { b with opErr := true, opErase := false, sector := BitVec.ofNat 10 (page / 65536) } := by
  have hall : ((bstPageWords page data).all fun w => bstErased s w.1) = false := by
    rw [← Bool.not_eq_true, pageWords_erased h]
    exact fun hall => Bool.false_ne_true (herased.symm.trans (hall a ha))
  simp only [bstStartProgram, h, hidle, hall, or_true, Bool.false_eq_true, ↓reduceIte]

theorem bstStartProgram_accepted {s : State} {l data : List (Nat × Word)} {page : Nat} (h : bstProgramSeq l = some (page, data))
    (hidle : s.bst.busy = false) (hsec : 4 ≤ page / 65536) (hmark : bstMarked s.bst (page / 65536) = true)
    (herased : ∀ a, Given data a → bstErased s (a / 32 * 32) = true) :
    bstStartProgram s l = bstMod s fun b =>
      { b with busy := true, susp := false, opErase := false, sector := BitVec.ofNat 10 (page / 65536), page := some (page, bstPageWords page data) } := by
  have hok : ¬(page / 65536 < 4 ∨ bstMarked s.bst (page / 65536) = false ∨ ((bstPageWords page data).all fun w => bstErased s w.1) = false) := by
    simp [(pageWords_erased h s).mpr herased, hmark, hsec]
  simp only [bstStartProgram, h, hidle, hok, Bool.false_eq_true, ↓reduceIte]

/-- The end of a PROGRAM under way: its words stand in the array, and both buffers are flushed (R466). -/
theorem bstFinishProgram_page {s : State} {page : Nat} {ws : List (Nat × List Word)} (hbusy : s.bst.busy = true) (hop : s.bst.opErase = false)
    (hpage : s.bst.page = some (page, ws)) :
    bstFinishProgram s = memMod (bstMod s fun b => bstFlush { b with busy := false, page := none }) fun m => { m with boot := writeWords m.boot ws } := by
  simp only [bstFinishProgram, hbusy, hop, hpage, Bool.not_false, Bool.and_self, ↓reduceIte]
  rfl

/-- Settles O58: the words that a PROGRAM writes are those that received a store, and each of their bytes is the one of the last store given there. -/
theorem programsWholeWords : Obligations.ProgramsWholeWords := by
  intro s l page data h hidle hsec hmark hit
  refine ⟨fun ⟨a, ha, herased⟩ => ?_, fun herased => ?_⟩
  case refine_1 => rw [exec_bstProgram, bstStartProgram_refused h hidle ha herased, bstMod]
  case refine_2 =>
    refine ⟨bstStartProgram s l, bstFinishProgram (bstStartProgram s l), exec_bstProgram s l, ?_⟩
    rw [exec_bstProgramDone, bstStartProgram_accepted h hidle hsec hmark herased, bstFinishProgram_page rfl rfl rfl]
    refine ⟨rfl, rfl, rfl, rfl, rfl, rfl, fun a hnot => sget_pageWords_outside h s.mem.boot hnot, fun a ha habsent => ?_,
      fun a v before after hdata hlast => ?_⟩
    · calc sget 0xFF (writeWords s.mem.boot (bstPageWords page data)) a
        _ = byteAt (storeAt data (a / 4 * 4)) a := sget_pageWords_inside h _ ha
        _ = 0xFF := by rw [storeAt_absent habsent, byteAt_ones]
    · have ha : Given data a := ⟨(a / 4 * 4, v), by simp [hdata], by omega⟩
      calc sget 0xFF (writeWords s.mem.boot (bstPageWords page data)) a
        _ = byteAt (storeAt data (a / 4 * 4)) a := sget_pageWords_inside h _ ha
        _ = v.extractLsb' (8 * (a % 4)) 8 := by rw [hdata, storeAt_last v hlast, byteAt]

end Sys2Proof.Machine
end

section
/-! PROOFS. The tamper detector (R576): what a low level of TAMPER_N does. -/

namespace Sys2Proof.Machine

theorem exec_tamper (lowNs : Nat) (s : State) : exec (.tamper lowNs) s = .next (tamper s lowNs) := rfl

/-- A low level of 10 µs or longer, with VSB present: the keys are gone before the reset begins (R460, R489). -/
theorem tamper_detected {s : State} {lowNs : Nat} (hlong : 10000 ≤ lowNs) (hvsb : s.pwr.vsbOk = true) :
    tamper s lowNs = beginReset (destroyKeys s) 8 true false false := by
  have hseen : ¬(lowNs < 10000 ∨ s.pwr.vsbOk = false) := by simp [hlong, hvsb]
  rw [tamper, if_neg hseen]

theorem tamper_filtered {s : State} {lowNs : Nat} (h : lowNs < 10000 ∨ s.pwr.vsbOk = false) : tamper s lowNs = s := by
  rw [tamper, if_pos h]

/-- Settles O56: the detector tells a tamper from the level's length and from VSB alone, so the power state plays no part. -/
theorem tamperIsFiltered : Obligations.TamperIsFiltered := by
  intro s ns
  refine ⟨fun hlong hvsb => ?_, fun hshort => ?_, fun habsent => ?_⟩
  · rw [exec_tamper, tamper_detected hlong hvsb]
  · rw [exec_tamper, tamper_filtered (.inl hshort)]
  · rw [exec_tamper, tamper_filtered (.inr habsent)]

end Sys2Proof.Machine
end

section
/-! PROOFS. The queue of commands and the memories of bytes: what every command and every step keeps. -/

namespace Sys2Proof.Machine

/-! ## A step -/

theorem step_queued {s : State} {c : Instr} {rest : List Instr} (h : s.pending = c :: rest) : step s = exec c { s with pending := rest } := by
  simp only [step, h]

theorem step_idle {s : State} (h : s.pending = []) : step s = .next (tickBeat s) := by simp only [step, h]

/-- Settles O1: it is what a step is with a command at the front. -/
theorem stepRunsTheFrontCommand : Obligations.StepRunsTheFrontCommand := fun _ _ _ h => step_queued h

/-! ## A beat with no command waiting -/

theorem landDue_idle {s : State} (h : s.flights = []) (cc : Nat) : landDue s cc = s :=
  landDue_early s cc fun f hf => by rw [h] at hf; exact absurd hf List.not_mem_nil

theorem setBeat_beat (s : State) (b : Beat) : (setBeat s b).alm.beat = b := rfl

/-- Inside a stretch of 200 beats no snapshot is taken. -/
theorem setBeat_inside {s : State} {b : Beat} (h : b.toNat / 200 = s.alm.beat.toNat / 200) :
    setBeat s b = { landDue s (8 * b.toNat) with
      alm := { (landDue s (8 * b.toNat)).alm with
        beat := b, epochOut := (landDue s (8 * b.toNat)).alm.epoutEn && decide (b.toNat % epochBeats < 4) } } := by
  simp only [setBeat, if_pos h]

theorem setBeat_idle {s : State} (h : s.flights = []) (b : Beat) : setBeat s b = { s with alm := (setBeat s b).alm, snap := (setBeat s b).snap } := by
  have hsnap : landDue (takeSnap s) (8 * b.toNat) = takeSnap s := landDue_idle (s := takeSnap s) h _
  by_cases hb : b.toNat / 200 = s.alm.beat.toNat / 200
  · simp only [setBeat_inside hb, landDue_idle h]
  · simp only [setBeat, if_neg hb, landDue_idle h, hsnap]
    rfl

/-- Settles O2: with the loop locked the beat that passes is `setBeat` to the next count; unlocked nothing happens. -/
theorem emptyQueuePassesABeat : Obligations.EmptyQueuePassesABeat := by
  intro s hq
  refine ⟨tickBeat s, step_idle hq, ?_⟩
  cases hl : s.alm.pllLock with
  | false => simp [tickBeat, hl]
  | true =>
    simp only [tickBeat, hl, if_true, setBeat_beat, true_and]
    refine ⟨fun hf => setBeat_idle hf _, by simp, fun _ hb => ?_⟩
    rw [setBeat_inside hb]
    exact ⟨rfl, rfl⟩

/-! ## Every command -/

/-- Settles O3: every command but an access of the debug port is a state to a next state. -/
theorem commandsComplete : Obligations.CommandsComplete := by
  intro c s hc
  cases c
  case debugPortAccess d => exact absurd rfl (hc d)
  all_goals exact ⟨_, rfl⟩

/-- What an access of the debug port that completes can leave. -/
theorem execDebugPortAccess_cases {d : DebugTarget} {s t : State} (h : execDebugPortAccess d s = .next t) :
    (∃ n bs, t = debugGive s n bs) ∨ (∃ n bs, t = freshen (debugGive s n bs)) ∨ ∃ b, t = debugHalt s b := by
  have hrefused {c : Prop} [Decidable c] {n : Nat} {bs : List Byte}
      (hg : (if c then Host.Outcome.fault Fault.noSuchAddress else .next (debugGive s n bs) : Host.Outcome State Fault Refusal) = .next t) :
      t = debugGive s n bs := by
    split at hg
    · cases hg
    · exact (Host.Outcome.next.inj hg).symm
  cases d with
  | waystation core addr => exact .inl ⟨_, _, hrefused h⟩
  | stacked pa => exact .inl ⟨_, _, hrefused h⟩
  | legTrace x => exact .inr (.inl ⟨_, _, (Host.Outcome.next.inj h).symm⟩)
  | factorHalt => exact .inr (.inr ⟨_, (Host.Outcome.next.inj h).symm⟩)
  | factorRun => exact .inr (.inr ⟨_, (Host.Outcome.next.inj h).symm⟩)
  | factorStep => exact .inl ⟨_, _, (Host.Outcome.next.inj h).symm⟩
  | factorReg => exact .inr (.inl ⟨_, _, (Host.Outcome.next.inj h).symm⟩)

/-- Settles O4, command by command: each has its law in Laws/Queue. -/
theorem commandsLeaveTheQueue : Obligations.CommandsLeaveTheQueue := by
  intro c s t h
  cases c
  case debugPortAccess d =>
    obtain ⟨n, bs, rfl⟩ | ⟨n, bs, rfl⟩ | ⟨b, rfl⟩ := execDebugPortAccess_cases h <;> simp
  all_goals
    injection h with h
    subst h
    simp

/-- Settles O5: the front command leaves the queue and its effect leaves the rest of it. -/
theorem queueIsConsumedInOrder : Obligations.QueueIsConsumedInOrder := by
  intro s t hq h
  have htail : t.pending = s.pending.tail := by
    cases hp : s.pending with
    | nil =>
      rw [step_idle hp] at h
      rw [← Host.Outcome.next.inj h, tickBeat_pending, hp, List.tail_nil]
    | cons c rest =>
      rw [step_queued hp] at h
      exact commandsLeaveTheQueue c _ t h
  exact ⟨htail, fun c hc => hq c (List.mem_of_mem_tail (htail ▸ hc))⟩

/-! ## The canonical form of the memories -/

/-- Every command keeps the canonical form: each has its law in Laws/Memory, where an access or a request that carries an effect asks the same of
the effect it carries. -/
theorem exec_wf {c : Instr} {s t : State} (hw : s.mem.wf = true) (h : exec c s = .next t) : t.mem.wf = true := by
  cases c
  case debugPortAccess d =>
    obtain ⟨n, bs, rfl⟩ | ⟨n, bs, rfl⟩ | ⟨b, rfl⟩ := execDebugPortAccess_cases h <;> simp [hw]
  case evict => injection h with h; subst h; exact hostWrite_wf _ _ (fun s k => writeEvict_wf s _ k) hw
  case rstCtlWarm | rstCtlCold => injection h with h; subst h; exact hostWrite_wf _ _ (fun s k => writeRstCtl_wf s _ k) hw
  case mgmtReset => injection h with h; subst h; exact asAdmin_wf _ _ _ (fun s k => beginReset_wf s _ _ _ _ k) hw
  case getVersion | getCapabilities | negotiateAlgorithms | getDigests | getCertificate | challenge | getMeasurements | keyExchange | finish |
      heartbeat | keyUpdate | endSession | setCertificate | chunkSend | vendorDefinedRequest =>
    injection h with h
    subst h
    exact spdmRequest_wf _ _ _ (fun s p => by simp) hw
  all_goals
    injection h with h
    subst h
    simp [hw]

/-- Settles O6: a beat and every command keep the canonical form. -/
theorem stepsKeepMemoryCanonical : Obligations.StepsKeepMemoryCanonical := by
  intro s t hw h
  cases hp : s.pending with
  | nil =>
    rw [step_idle hp] at h
    rw [← Host.Outcome.next.inj h]
    exact tickBeat_wf s hw
  | cons c rest =>
    rw [step_queued hp] at h
    exact exec_wf (s := { s with pending := rest }) hw h

/-- Settles O7: nothing is stored in any memory of bytes, and no command waits. -/
theorem resetHasCanonicalMemory : Obligations.ResetHasCanonicalMemory :=
  ⟨rfl, fun _ hc => absurd hc List.not_mem_nil, rfl⟩

/-! ## Reading back a run of bytes -/

theorem ssetRun_append {V : Type} [DecidableEq V] (d : V) (xs ys : List V) (m : Sparse V) (a : Nat) :
    ssetRun d m a (xs ++ ys) = ssetRun d (ssetRun d m a xs) (a + xs.length) ys := by
  induction xs generalizing m a with
  | nil => rfl
  | cons x xs ih => simp only [List.cons_append, ssetRun, ih, List.length_cons]; congr 1; omega

/-- Writing a run chunk by chunk, in the order of its 64-byte units, is writing the run. -/
theorem foldl_unitChunks (n a : Nat) (bs : List MByte) (m : Sparse Byte) (h : bs.length + a % 64 ≤ 64 * n) :
    (unitChunks n a bs).foldl (fun m c => ssetRun 0 m c.1 (plainOf c.2)) m = ssetRun 0 m a (plainOf bs) := by
  induction n generalizing a bs m with
  | zero =>
    have hb : bs = [] := List.eq_nil_of_length_eq_zero (by omega)
    subst hb
    rfl
  | succ n ih =>
    cases bs with
    | nil => rfl
    | cons b bs =>
      have hsplit : plainOf (b :: bs) = plainOf ((b :: bs).take (64 - a % 64)) ++ plainOf ((b :: bs).drop (64 - a % 64)) := by
        rw [plainOf, plainOf, plainOf, ← List.map_append, List.take_append_drop]
      have hlen : ((b :: bs).drop (64 - a % 64)).length + (a + (64 - a % 64)) % 64 ≤ 64 * n := by
        rw [List.length_drop]; omega
      simp only [unitChunks, List.isEmpty_cons, Bool.false_eq_true, if_false, List.foldl_cons]
      rw [ih _ _ _ hlen, hsplit, ssetRun_append]
      by_cases hfull : 64 - a % 64 ≤ (b :: bs).length
      · simp only [plainOf, List.length_map, List.length_take, Nat.min_eq_left hfull]
      · rw [List.drop_of_length_le (by omega)]
        rfl

theorem foldl_chunksOf (a : Nat) (bs : List MByte) (m : Sparse Byte) :
    (chunksOf a bs).foldl (fun m c => ssetRun 0 m c.1 (plainOf c.2)) m = ssetRun 0 m a (plainOf bs) :=
  foldl_unitChunks _ a bs m (by omega)

theorem forEach_wsPutChunk_ws (l : List (Nat × List MByte)) (s : State) :
    (forEach l s wsPutChunk).mem.ws = l.foldl (fun m c => ssetRun 0 m c.1 (plainOf c.2)) s.mem.ws := by
  unfold forEach
  induction l generalizing s with
  | nil => rfl
  | cons c l ih => exact ih _

theorem forEach_smPutChunk_sm (l : List (Nat × List MByte)) (s : State) :
    (forEach l s smPutChunk).mem.sm = l.foldl (fun m c => ssetRun 0 m c.1 (plainOf c.2)) s.mem.sm := by
  unfold forEach
  induction l generalizing s with
  | nil => rfl
  | cons c l ih => exact ih _

theorem wsWrite_ws (s : State) (p a : Nat) (bs : List MByte) : (wsWrite s p a bs).mem.ws = ssetRun 0 s.mem.ws (wsKey p a) (plainOf bs) := by
  rw [wsWrite, forEach_wsPutChunk_ws, foldl_chunksOf]

theorem smWrite_sm (s : State) (pa : Nat) (bs : List MByte) : (smWrite s pa bs).mem.sm = ssetRun 0 s.mem.sm pa (plainOf bs) := by
  rw [smWrite, forEach_smPutChunk_sm, foldl_chunksOf]

theorem sget_ssetRun_getD (m : Sparse Byte) (a k : Nat) (vs : List Byte) :
    sget 0 (ssetRun 0 m a vs) k = if a ≤ k ∧ k < a + vs.length then (vs[k - a]?).getD 0 else sget 0 m k := by
  rw [sget_ssetRun]
  split
  · rename_i h
    rw [List.getElem?_eq_getElem (by omega), Option.getD_some]
  · rfl

/-- Settles O8: a write is one run of the sparse map. -/
theorem memoriesReadWhatWasWritten : Obligations.MemoriesReadWhatWasWritten := by
  refine ⟨fun s p a bs k => ?_, fun s pa bs k => ?_⟩
  · rw [wsWrite_ws, sget_ssetRun_getD, plainOf, List.length_map]
  · rw [smWrite_sm, sget_ssetRun_getD, plainOf, List.length_map]

end Sys2Proof.Machine
end

section
/-! PROOFS. Frames: what reading a unit after a change of another gives, what a loop keeps, and the part of the state that the mailbox
operations leave as it stands. -/

namespace Sys2Proof.Machine

/-- A command whose effect on a state is known completes with it. -/
theorem next_congr {s t : State} (h : s = t) : (.next s : Host.Outcome State Fault Refusal) = .next t := congrArg _ h

/-! ## Loops -/

theorem forEach_nil {α : Type} (s : State) (f : State → α → State) : forEach [] s f = s := rfl

theorem forEach_cons {α : Type} (a : α) (l : List α) (s : State) (f : State → α → State) : forEach (a :: l) s f = forEach l (f s a) f := rfl

/-- What every round of a loop keeps, the loop keeps. -/
theorem forEach_keeps {α β : Type} (g : State → β) (f : State → α → State) (h : ∀ s a, g (f s a) = g s) (l : List α) (s : State) :
    g (forEach l s f) = g s := by
  induction l generalizing s with
  | nil => rfl
  | cons a l ih => rw [forEach_cons, ih, h]

/-- A property that every round of a loop keeps holds after the loop. -/
theorem forEach_preserves {α : Type} (p : State → Prop) (f : State → α → State) (h : ∀ s a, p s → p (f s a)) (l : List α) (s : State) (hs : p s) :
    p (forEach l s f) := by
  induction l generalizing s with
  | nil => exact hs
  | cons a l ih => exact ih _ (h s a hs)

theorem forEach_congr {α : Type} {f g : State → α → State} (l : List α) (s : State) (h : ∀ s, ∀ a ∈ l, f s a = g s a) : forEach l s f = forEach l s g := by
  induction l generalizing s with
  | nil => rfl
  | cons a l ih =>
    rw [forEach_cons, forEach_cons, h s a (List.mem_cons_self ..)]
    exact ih _ fun s b hb => h s b (List.mem_cons_of_mem _ hb)

/-! ## Instances -/

theorem vget_vmod {V : Type} {n : Nat} (d : V) (v : Vector V n) (i j : Nat) (f : V → V) :
    vget d (vmod v i f) j = if j = i ∧ i < n then f (vget d v i) else vget d v j := by
  by_cases hj : j = i
  · subst hj
    by_cases hn : j < n
    · rw [vget_vmod_same d v j f hn, if_pos ⟨rfl, hn⟩]
    · simp [vget, hn]
  · rw [vget_vmod_other d v i j f hj, if_neg (fun h => hj h.1)]

theorem vget_map {V W : Type} {n : Nat} (d : V) (e : W) (f : V → W) (v : Vector V n) (h : f d = e) (i : Nat) : vget e (v.map f) i = f (vget d v i) := by
  by_cases hi : i < n <;> simp [vget, hi, h]

theorem vmod_congr {V : Type} {n : Nat} (d : V) (v : Vector V n) (i : Nat) {f g : V → V} (h : f (vget d v i) = g (vget d v i)) : vmod v i f = vmod v i g := by
  unfold vmod
  split
  · rename_i hi
    rw [show f v[i] = g v[i] by simpa only [vget, hi, dif_pos] using h]
  · rfl

theorem modMb_congr {s : State} {p : Nat} {f g : MbPage → MbPage} (h : f (getMb s p) = g (getMb s p)) : modMb s p f = modMb s p g := by
  rw [modMb, modMb, vmod_congr _ _ _ h]

theorem modCore_congr {s : State} {p : Nat} {f g : Core → Core} (h : f (getCore s p) = g (getCore s p)) : modCore s p f = modCore s p g := by
  rw [modCore, modCore, vmod_congr _ _ _ h]

theorem modEng_congr {s : State} {e : Nat} {f g : Eng → Eng} (h : f (getEng s e) = g (getEng s e)) : modEng s e f = modEng s e g := by
  rw [modEng, modEng, vmod_congr _ _ _ h]

theorem getCore_modCore (s : State) (p q : Nat) (f : Core → Core) :
    getCore (modCore s p f) q = if q = p ∧ p < 34 then f (getCore s p) else getCore s q := vget_vmod ..

theorem getEng_modEng (s : State) (e x : Nat) (f : Eng → Eng) : getEng (modEng s e f) x = if x = e ∧ e < 64 then f (getEng s e) else getEng s x :=
  vget_vmod ..

theorem getMb_modMb (s : State) (p q : Nat) (f : MbPage → MbPage) : getMb (modMb s p f) q = if q = p ∧ p < 17 then f (getMb s p) else getMb s q :=
  vget_vmod ..

theorem getPort_modPort (s : State) (p q : Nat) (f : Port → Port) :
    getPort (modPort s p f) q = if q = p ∧ p < 8 then f (getPort s p) else getPort s q := vget_vmod ..

theorem getStack_modStack (s : State) (i j : Nat) (f : Stack → Stack) :
    getStack (modStack s i f) j = if j = i ∧ i < 2 then f (getStack s i) else getStack s j := vget_vmod ..

theorem sget_smod {V : Type} [DecidableEq V] (d : V) (m : Sparse V) (a b : Nat) (f : V → V) :
    sget d (smod d m a f) b = if b = a then f (sget d m a) else sget d m b := sget_sset ..

theorem getDeck_modDeck (s : State) (k j : Nat) (f : Deck → Deck) : getDeck (modDeck s k f) j = if j = k then f (getDeck s k) else getDeck s j :=
  sget_smod ..

theorem getTile_modTile (s : State) (k j : Nat) (f : Tile → Tile) : getTile (modTile s k f) j = if j = k then f (getTile s k) else getTile s j :=
  sget_smod ..

theorem getGran_modGran (s : State) (k j : Nat) (f : Gran → Gran) : getGran (modGran s k f) j = if j = k then f (getGran s k) else getGran s j :=
  sget_smod ..

/-! ## The mailboxes

A message, a completion or a consignor reset touches the pages, the granules, the interrupts, and the bounce records with their counters; the
rest of the state it leaves as it stands. -/

/-- The state without what mailbox operations act on. -/
def offMailbox (s : State) : State :=
  { s with mbx := Vector.replicate 17 {}, pcie := {}, gran := [], cus := { s.cus with bncCtr := [] }, mem := { s.mem with host := [] } }

/-- Two states that differ at most in what mailbox operations act on. -/
def MailboxOnly (s t : State) : Prop := offMailbox t = offMailbox s

namespace MailboxOnly

theorem refl (s : State) : MailboxOnly s s := rfl
theorem field {s t : State} {β : Type} (h : MailboxOnly s t) (g : State → β) : g (offMailbox t) = g (offMailbox s) := congrArg g h

theorem trans {s t u : State} (h : MailboxOnly s t) (k : MailboxOnly t u) : MailboxOnly s u := Eq.trans k h

section
variable {s t : State} (h : MailboxOnly s t)
include h
theorem alm : t.alm = s.alm := h.field State.alm
theorem fac : t.fac = s.fac := h.field State.fac
theorem ldg : t.ldg = s.ldg := h.field State.ldg
theorem engs : t.engs = s.engs := h.field State.engs
theorem cores : t.cores = s.cores := h.field State.cores
theorem tiles : t.tiles = s.tiles := h.field State.tiles
theorem decks : t.decks = s.decks := h.field State.decks
theorem targets : t.targets = s.targets := h.field State.targets
theorem granPage : t.granPage = s.granPage := h.field State.granPage
theorem hzl : t.hzl = s.hzl := h.field State.hzl
theorem pwr : t.pwr = s.pwr := h.field State.pwr
theorem ws : t.mem.ws = s.mem.ws := h.field fun s => s.mem.ws
theorem sm : t.mem.sm = s.mem.sm := h.field fun s => s.mem.sm
theorem cus : { t.cus with bncCtr := [] } = { s.cus with bncCtr := [] } := h.field State.cus
end

end MailboxOnly

theorem forEach_mailboxOnly {α : Type} {f : State → α → State} (h : ∀ s a, MailboxOnly s (f s a)) (l : List α) (s : State) :
    MailboxOnly s (forEach l s f) := forEach_keeps offMailbox f h l s

theorem modMb_mailboxOnly (s : State) (p : Nat) (f : MbPage → MbPage) : MailboxOnly s (modMb s p f) := rfl

theorem modGran_mailboxOnly (s : State) (k : Nat) (f : Gran → Gran) : MailboxOnly s (modGran s k f) := rfl

theorem fireVector_mailboxOnly (s : State) (v : Nat) : MailboxOnly s (fireVector s v) := by
  unfold fireVector
  split <;> rfl

theorem signalMb_mailboxOnly (s : State) (mb : Nat) : MailboxOnly s (signalMb s mb) := by
  unfold signalMb
  dsimp only
  split
  · exact .refl s
  · split
    · exact modMb_mailboxOnly ..
    · exact (modMb_mailboxOnly ..).trans (fireVector_mailboxOnly ..)

theorem writeOut_mailboxOnly (s : State) (mb : Nat) (m : List Word) : MailboxOnly s (writeOut s mb m) :=
  (modMb_mailboxOnly ..).trans (signalMb_mailboxOnly ..)

theorem sendOut_mailboxOnly (s : State) (mb : Nat) (m : List Word) : MailboxOnly s (sendOut s mb m) := by
  unfold sendOut
  split
  · exact modMb_mailboxOnly ..
  · exact writeOut_mailboxOnly ..

theorem reply_mailboxOnly (s : State) (mb : Nat) (op seq st : Byte) (payload : List Word) : MailboxOnly s (reply s mb op seq st payload) :=
  sendOut_mailboxOnly ..

theorem drainHeldN_mailboxOnly (n : Nat) (s : State) (mb : Nat) : MailboxOnly s (drainHeldN n s mb) := by
  induction n generalizing s with
  | zero => exact .refl s
  | succ n ih =>
    unfold drainHeldN
    split
    · exact .refl s
    · split
      · exact .refl s
      · exact ((modMb_mailboxOnly ..).trans (writeOut_mailboxOnly ..)).trans (ih _)

theorem memHost_mailboxOnly (s : State) (h : Memory → Sparse Byte) : MailboxOnly s (memMod s fun m => { m with host := h m }) := rfl

theorem bncCtr_mailboxOnly (s : State) (x : Sparse Nat) : MailboxOnly s { s with cus := { s.cus with bncCtr := x } } := rfl

theorem bouncePushChunk_mailboxOnly (k ctr : Nat) (s : State) (c : Nat) : MailboxOnly s (bouncePushChunk k ctr s c) := by
  unfold bouncePushChunk
  exact memHost_mailboxOnly ..

theorem bouncePush_mailboxOnly (s : State) (k : Nat) : MailboxOnly s (bouncePush s k) :=
  (bncCtr_mailboxOnly ..).trans (forEach_mailboxOnly (bouncePushChunk_mailboxOnly k _) _ _)

theorem granHold_mailboxOnly (s : State) (ks : List Nat) : MailboxOnly s (granHold s ks) :=
  forEach_mailboxOnly (fun s k => modGran_mailboxOnly s k _) ks s

theorem granDrop_mailboxOnly (s : State) (k : Nat) : MailboxOnly s (granDrop s k) := by
  unfold granDrop
  dsimp only
  split
  · refine .trans (t := modGran s k fun g => { g with refs := g.refs - 1 }) (modGran_mailboxOnly ..) (.trans ?_ (modGran_mailboxOnly ..))
    split
    · exact bouncePush_mailboxOnly ..
    · exact .refl _
  · exact modGran_mailboxOnly ..

theorem granRelease_mailboxOnly (s : State) (ks : List Nat) : MailboxOnly s (granRelease s ks) := forEach_mailboxOnly granDrop_mailboxOnly ks s

theorem modQ_mailboxOnly (s : State) (c q : Nat) (f : QEntry → QEntry) : MailboxOnly s (modQ s c q f) := by
  unfold modQ
  split
  · exact modMb_mailboxOnly ..
  · exact .refl s

theorem flushN_mailboxOnly (n : Nat) (s : State) (c : Nat) : MailboxOnly s (flushN n s c) := by
  induction n generalizing s with
  | zero => exact .refl s
  | succ n ih =>
    unfold flushN
    split
    · exact .refl s
    · split
      · split
        · exact (((granRelease_mailboxOnly ..).trans (modMb_mailboxOnly ..)).trans (writeOut_mailboxOnly ..)).trans (ih _)
        · exact .refl s
      · exact .refl s

theorem flushCompletions_mailboxOnly (s : State) (c : Nat) : MailboxOnly s (flushCompletions s c) :=
  ((flushN_mailboxOnly _ s c).trans (drainHeldN_mailboxOnly ..)).trans (flushN_mailboxOnly ..)

theorem endCons_mailboxOnly (s : State) (c q : Nat) (st : Byte) : MailboxOnly s (endCons s c q st) :=
  (modQ_mailboxOnly ..).trans (flushCompletions_mailboxOnly ..)

theorem endAll_mailboxOnly (s : State) (p : QEntry → Bool) (st : Byte) : MailboxOnly s (endAll s p st) := by
  unfold endAll
  refine forEach_mailboxOnly ?_ _ s
  exact fun s e => endCons_mailboxOnly s e.1 e.2 st

theorem finishRec_mailboxOnly (s : State) (mb : Nat) (r : LongRec) (st : Byte) (payload : List Word) :
    MailboxOnly s (finishRec s mb r st payload) := by
  have hdrop := (modMb_mailboxOnly s mb fun p => { p with recs := p.recs.erase r }).trans (granRelease_mailboxOnly _ r.grans)
  cases hd : r.discard with
  | true => simpa only [finishRec, hd, if_true, Bool.false_eq_true, if_false] using hdrop
  | false => simpa only [finishRec, hd, if_true, Bool.false_eq_true, if_false] using hdrop.trans (reply_mailboxOnly ..)

theorem finishRecs_mailboxOnly (s : State) (p : LongRec → Bool) (st : Byte) (payload : List Word) : MailboxOnly s (finishRecs s p st payload) := by
  unfold finishRecs
  refine forEach_mailboxOnly ?_ _ s
  exact fun s e => finishRec_mailboxOnly s e.1 e.2 st payload

theorem dropUnread_mailboxOnly (s : State) (mb : Nat) : MailboxOnly s (dropUnread s mb) := by
  refine forEach_mailboxOnly (fun s i => ?_) _ s
  dsimp only
  split
  · exact (granHold_mailboxOnly ..).trans (granRelease_mailboxOnly ..)
  · exact .refl s

theorem performCrst_mailboxOnly (s : State) (mb : Nat) : MailboxOnly s (performCrst s mb) := by
  unfold performCrst
  dsimp only
  refine .trans ?_ (flushCompletions_mailboxOnly ..)
  refine .trans ?_ (modMb_mailboxOnly ..)
  refine .trans ?_ (forEach_mailboxOnly ?_ _ _)
  case refine_2 => exact fun s e => endCons_mailboxOnly s mb e.1 stAborted
  exact (dropUnread_mailboxOnly s mb).trans (modMb_mailboxOnly ..)

theorem setMbErr_mailboxOnly (s : State) (mb : Nat) : MailboxOnly s (setMbErr s mb) := modMb_mailboxOnly ..

end Sys2Proof.Machine
end

section
/-! PROOFS. Stacked memory (R323, R324, R333, R336): what a read of a codeword counts, and what it leaves. -/

namespace Sys2Proof.Machine

theorem paStack_lt (pa : Nat) : paStack pa < 2 := by
  simp only [paStack, bitsOf]
  omega

/-! ## The bucket, the mark and the counter of corrected codewords -/

/-- Filling the bucket leaves a stack's counter of corrected codewords. -/
theorem bucketAdd_ce (s : State) (st n j : Nat) : (getStack (bucketAdd s st n) j).ce = (getStack s j).ce := by
  have hset (f : Stack → Stack) (hf : ∀ k, (f k).ce = k.ce) : (getStack (modStack s st f) j).ce = (getStack s j).ce := by
    rw [getStack_modStack]
    split
    · rename_i h; rw [hf, h.1]
    · rfl
  have hfire (t : State) : getStack (fireVector t 17) j = getStack t j := by unfold fireVector; split <;> rfl
  unfold bucketAdd
  dsimp only
  split
  · exact hset _ fun _ => rfl
  · split
    · exact hset _ fun _ => rfl
    · rw [hfire]; exact hset _ fun _ => rfl

theorem countCorrected_ce (s : State) {st : Nat} (h : st < 2) : (getStack (countCorrected s st) st).ce = satAdd (getStack s st).ce 1 := by
  rw [countCorrected, bucketAdd_ce, getStack_modStack, if_pos ⟨rfl, h⟩]

theorem markGroup_ce (s : State) (st g j : Nat) : (getStack (markGroup s st g) j).ce = (getStack s j).ce := by
  unfold markGroup
  dsimp only
  split
  · rfl
  · rw [bucketAdd_ce, getStack_modStack]
    split
    · rename_i h; rw [h.1]
    · rfl

theorem noteGroup_ce (s : State) (st g j : Nat) : (getStack (noteGroup s st g) j).ce = (getStack s j).ce := by
  have hrecent (l : List (Nat × Beat)) : (getStack (modStack s st fun k => { k with recent := l }) j).ce = (getStack s j).ce := by
    rw [getStack_modStack]
    split
    · rename_i h; rw [h.1]
    · rfl
  unfold noteGroup
  dsimp only
  split
  · rw [markGroup_ce, hrecent]
  · rw [hrecent]

/-! ## Decoding with no mark in force -/

theorem decodeErr_clean {err : List (BitVec 16)} (h : errSymbols err = []) : decodeErr none err = .clean := by
  simp only [decodeErr, h, List.isEmpty_nil, if_true]

theorem decodeErr_corrected {err : List (BitVec 16)} (h : errSymbols err ≠ []) (hn : (errSymbols err).length ≤ 4) : decodeErr none err = .corrected := by
  simp only [decodeErr, List.isEmpty_eq_false_iff.mpr h, hn, if_true, Bool.false_eq_true, if_false]

theorem readCw_clean {s : State} {pa : Nat} {err : List (BitVec 16)} (hp : sget false s.mem.smPoison (pa / 64) = false)
    (hd : decodeErr (markedGroup (getStack s (paStack pa))) err = .clean) (kind : Nat) (inj : Bool) : readCw s pa kind (some err) inj = (s, .clean) := by
  simp only [readCw, hp, Bool.false_and, Bool.false_eq_true, if_false, hd]

/-- A corrected codeword counts, and counts for its die group where all its errors lie in one and were not injected (R324). -/
theorem readCw_corrected {s : State} {pa : Nat} {err : List (BitVec 16)} (hp : sget false s.mem.smPoison (pa / 64) = false)
    (hd : decodeErr (markedGroup (getStack s (paStack pa))) err = .corrected) (kind : Nat) (inj : Bool) :
    readCw s pa kind (some err) inj = (countCorrected s (paStack pa), .corrected) ∨
      ∃ g, readCw s pa kind (some err) inj = (noteGroup (countCorrected s (paStack pa)) (paStack pa) g, .corrected) := by
  simp only [readCw, hp, Bool.false_and, Bool.false_eq_true, if_false, hd]
  split
  · cases inj with
    | true => exact .inl rfl
    | false => exact .inr ⟨_, rfl⟩
  · exact .inl rfl

theorem readCw_none {s : State} {pa : Nat} (hp : sget false s.mem.smPoison (pa / 64) = false) (kind : Nat) (inj : Bool) :
    readCw s pa kind none inj = (noteUe s pa 3, .uncorrectable) := by
  simp only [readCw, hp, Bool.false_and, Bool.false_eq_true, if_false]

/-! ## An uncorrectable codeword -/

theorem poisonTarget_keeps {β : Type} (g : State → β) (hd : ∀ s k f, g (modDeck s k f) = g s) (he : ∀ s e f, g (modEng s e f) = g s) (s : State)
    (pa : Nat) : g (poisonTarget s pa) = g s := by
  refine forEach_keeps g _ (fun s lg => ?_) _ s
  dsimp only
  split
  · rw [he, hd]
  · rfl

theorem poisonTarget_ptl (s : State) (pa : Nat) : (poisonTarget s pa).ptl = s.ptl := poisonTarget_keeps State.ptl (fun _ _ _ => rfl) (fun _ _ _ => rfl) s pa

theorem noteUe_smPoison (s : State) (pa kind : Nat) : sget false (noteUe s pa kind).mem.smPoison (pa / 64) = true :=
  sget_sset_same (V := Bool) false _ _ true

theorem noteUe_sm (s : State) (pa kind : Nat) : (noteUe s pa kind).mem.sm = s.mem.sm :=
  poisonTarget_keeps (fun s => s.mem.sm) (fun _ _ _ => rfl) (fun _ _ _ => rfl) s pa

theorem noteUe_ue (s : State) (pa kind : Nat) : (getStack (noteUe s pa kind) (paStack pa)).ue = satAdd (getStack s (paStack pa)).ue 1 := by
  have hlog (t : State) (u : UeEntry) :
      (if t.ptl.ueLog.length < 16 then { t.ptl with ueLog := t.ptl.ueLog ++ [u] } else { t.ptl with ueLost := true }).stack = t.ptl.stack := by
    split <;> rfl
  have hstack : (noteUe s pa kind).ptl.stack = (modStack (poisonTarget s pa) (paStack pa) fun k => { k with ue := satAdd k.ue 1 }).ptl.stack :=
    hlog (modStack (poisonTarget s pa) (paStack pa) fun k => { k with ue := satAdd k.ue 1 }) _
  rw [getStack, hstack, ← getStack, getStack_modStack, if_pos ⟨rfl, paStack_lt pa⟩, getStack, poisonTarget_ptl, ← getStack]

theorem noteUe_ueLog {s : State} (h : s.ptl.ueLog.length < 16) (pa kind : Nat) :
    ∃ v, (noteUe s pa kind).ptl.ueLog = s.ptl.ueLog ++ [v] ∧ v.pa = pa ∧ v.kind = BitVec.ofNat 2 kind := by
  have hlog : (poisonTarget s pa).ptl.ueLog = s.ptl.ueLog := by rw [poisonTarget_ptl]
  refine ⟨{ pa := pa, kind := BitVec.ofNat 2 kind, eng := BitVec.ofNat 6 ((pageOwnerOf s pa).getD 0), owned := (pageOwnerOf s pa).isSome }, ?_, rfl, rfl⟩
  simp only [noteUe, memMod_ptl, modStack, hlog, h, if_true]

/-- Settles O45: with no mark in force the decoder goes by the number of symbols in error. -/
theorem codewordsAreCorrectedOrPoisoned : Obligations.CodewordsAreCorrectedOrPoisoned := by
  intro s pa kind err inj hp hm
  refine ⟨fun h => ?_, fun h hn => ?_, ?_⟩
  · exact readCw_clean hp (hm ▸ decodeErr_clean h) kind inj
  · have hce := countCorrected_ce s (paStack_lt pa)
    obtain hr | ⟨g, hr⟩ := readCw_corrected hp (hm ▸ decodeErr_corrected h hn) kind inj <;> rw [hr]
    · exact ⟨rfl, countCorrected_mem .., hce⟩
    · exact ⟨rfl, (noteGroup_mem ..).trans (countCorrected_mem ..), (noteGroup_ce ..).trans hce⟩
  · rw [readCw_none hp]
    exact ⟨rfl, noteUe_smPoison .., noteUe_sm .., noteUe_ue .., fun h => noteUe_ueLog h pa 3⟩

end Sys2Proof.Machine
end

section
/-! PROOFS. The tenant switch (R455): what its steps leave of keys, sessions, memories and granules. -/

namespace Sys2Proof.Machine

/-! ## Steps 2, 3 and 6 -/

theorem dropReservations_cus (s : State) (e : Nat) : (dropReservations s e).cus = s.cus := by
  unfold dropReservations dropTargets dropRegions dropWsPages dropItins
  with_reducible rfl

theorem retireEng_cus (s : State) (e : Nat) : (retireEng s e).cus = s.cus := by
  unfold retireEng
  dsimp only
  split
  · exact dropReservations_cus s e
  · split <;> rw [modEng_cus, dropReservations_cus]

theorem switchStop_cus (s : State) : (switchStop s).cus = s.cus := by
  simp only [switchStop, tidyTakeover, mapTiles, wsClear, memMod_cus]
  rw [forEach_keeps State.cus _ retireEng_cus]
  simp only [closeLatches, mapDecks]

theorem switchStop_ws (s : State) : (switchStop s).mem.ws = [] := by
  simp only [switchStop, tidyTakeover, mapTiles, wsClear, memMod_mem]

/-! ## Steps 4, 5 and 7 -/

theorem sealOutgoing_cus (s : State) : (sealOutgoing s).cus = s.cus := by unfold sealOutgoing; split <;> rfl

theorem sealOutgoing_targets (s : State) : (sealOutgoing s).targets = s.targets := by unfold sealOutgoing; split <;> rfl

theorem rekeyPort_cus (s : State) (p : Nat) : (rekeyPort s p).cus = s.cus := rfl

theorem rekeyPort_targets (s : State) (p : Nat) : (rekeyPort s p).targets = s.targets := rfl

theorem switchCustoms_cus (s : State) : (switchCustoms s).cus = (destroyKeys s).cus := by
  simp only [switchCustoms, forEach_keeps State.cus _ rekeyPort_cus, sealOutgoing_cus, smClear, memMod_cus, destroyKeys, cusMod, switchStop_cus]

theorem switchCustoms_targets (s : State) : (switchCustoms s).targets = [] := by
  simp only [switchCustoms, forEach_keeps State.targets _ rekeyPort_targets, sealOutgoing_targets, smClear, memMod_targets]

theorem switchCustoms_mem (s : State) : (switchCustoms s).mem = (smClear (switchStop s)).mem := by
  simp only [switchCustoms, forEach_keeps State.mem _ rekeyPort_mem, sealOutgoing_mem, smClear, memMod_mem, destroyKeys, cusMod]

/-! ## Steps 8 and 9 -/

theorem switchConsignor_mailboxOnly (s : State) (c : Nat) : MailboxOnly s (switchConsignor s c) := by
  unfold switchConsignor
  dsimp only
  refine .trans (.trans (modMb_mailboxOnly ..) (performCrst_mailboxOnly ..)) (forEach_mailboxOnly ?_ _ _)
  exact fun s e => endCons_mailboxOnly s c e.1 stAborted

/-- The mailboxes of a tenant switch, before the granules return. -/
def switchMailboxes (s : State) : State :=
  forEach (List.range 16) (finishRecs s (fun r => r.opcode == 0x03 || r.opcode == 0x41) stOk []) switchConsignor

theorem switchMailboxes_mailboxOnly (s : State) : MailboxOnly s (switchMailboxes s) :=
  (finishRecs_mailboxOnly ..).trans (forEach_mailboxOnly switchConsignor_mailboxOnly _ _)

theorem switchFactor_eq (s : State) : switchFactor s = cusMod (scrubTcm (clearGranules (switchMailboxes s))) fun c =>
    { c with tenancy := .none, tenantId := 0, swRec := none, tenancyRec := none, switches := satAdd c.switches 1, scopes := 0, grants := 0,
             consentBeat := beat200 (scrubTcm (clearGranules (switchMailboxes s))), evict := false, switchWaits := false } := rfl

/-- While the Factor is up a tenant switch runs whole (R455, R460). -/
theorem tenantSwitch_runs {s : State} (hsw : s.cus.tenancy = .switching) (hw : s.cus.switchWaits = false) (hst : s.pwr.st.toNat < 2)
    (hup : s.fac.up = true) : tenantSwitch s = switchFactor (switchCustoms s) := by
  have hst' : ¬2 ≤ s.pwr.st.toNat := by omega
  simp [tenantSwitch, hsw, hw, hst', hup]

theorem exec_tenantSwitch (s : State) : exec .tenantSwitch s = .next (tenantSwitch s) := rfl

/-- Settles O50: Customs destroys the keys and empties the memories, and the mailboxes that are then reset touch none of that. -/
theorem tenantSwitchLeavesNothing : Obligations.TenantSwitchLeavesNothing := by
  intro s hsw hw hst hup
  refine ⟨_, exec_tenantSwitch s, ?_⟩
  rw [tenantSwitch_runs hsw hw hst hup, switchFactor_eq]
  have hkept := switchMailboxes_mailboxOnly (switchCustoms s)
  have hmem := switchCustoms_mem s
  have hcus : ({ (switchMailboxes (switchCustoms s)).cus with bncCtr := [] } : Cus) = (destroyKeys s).cus := by
    rw [hkept.cus, switchCustoms_cus]; rfl
  generalize switchMailboxes (switchCustoms s) = u at hkept hcus
  have field {β : Type} (g : Cus → β) : g { u.cus with bncCtr := [] } = g (destroyKeys s).cus := congrArg g hcus
  refine ⟨rfl, rfl, field Cus.kMem, field Cus.kSeal, field Cus.kBnc, field Cus.conf, field Cus.bounce, field Cus.tdi, rfl, rfl,
    congrArg (satAdd · 1) (field Cus.switches), ?_, ?_, ?_, rfl, ?_⟩
  · intro c hc
    have hconns : u.cus.conns = (destroyKeys s).cus.conns := field Cus.conns
    obtain ⟨x, -, rfl⟩ := List.mem_map.mp ((hconns ▸ hc : c ∈ (destroyKeys s).cus.conns))
    exact ⟨rfl, rfl⟩
  · exact hkept.sm.trans (congrArg Memory.sm hmem)
  · exact hkept.ws.trans (congrArg Memory.ws hmem)
  · exact hkept.targets.trans (switchCustoms_targets s)

end Sys2Proof.Machine
end

section
/-! PROOFS. What the host does through its BARs (R370, R412–R418, R550), and what none of it touches: weights, placements, Waystations and the
tenant's keys. -/

namespace Sys2Proof.Machine

/-! ## What a host access cannot touch -/

/-- Tile-decks, target images, engagements, Waystation bytes and the tenant's keys. -/
structure Assets where
  decks : Sparse Deck
  targets : Sparse TargetRef
  ws : Sparse Byte
  kMem : BitVec 512
  kSeal : BitVec 256
  kBnc : BitVec 256
  engs : Vector Eng 64

def assets (s : State) : Assets :=
  { decks := s.decks, targets := s.targets, ws := s.mem.ws, kMem := s.cus.kMem, kSeal := s.cus.kSeal, kBnc := s.cus.kBnc, engs := s.engs }

theorem MailboxOnly.assets {s t : State} (h : MailboxOnly s t) : Machine.assets t = Machine.assets s := h.field Machine.assets

theorem setResp_assets (s : State) (r : HostResp) : assets (setResp s r) = assets s := rfl

theorem logViolation_assets (s : State) (v : Viol) : assets (logViolation s v) = assets s := by
  unfold logViolation
  split
  · exact (fireVector_mailboxOnly ..).assets
  · rfl

theorem aerNonFatal_assets (s : State) : assets (aerNonFatal s) = assets s := rfl

theorem modMb_assets (s : State) (p : Nat) (f : MbPage → MbPage) : assets (modMb s p f) = assets s := rfl
theorem modGran_assets (s : State) (k : Nat) (f : Gran → Gran) : assets (modGran s k f) = assets s := rfl
theorem modTile_assets (s : State) (k : Nat) (f : Tile → Tile) : assets (modTile s k f) = assets s := rfl
theorem modCore_assets (s : State) (p : Nat) (f : Core → Core) : assets (modCore s p f) = assets s := rfl
theorem modPort_assets (s : State) (p : Nat) (f : Port → Port) : assets (modPort s p f) = assets s := rfl
theorem modStack_assets (s : State) (i : Nat) (f : Stack → Stack) : assets (modStack s i f) = assets s := rfl
theorem smPutChunk_assets (s : State) (c : Nat × List MByte) : assets (smPutChunk s c) = assets s := rfl

theorem winWrite_assets (s : State) (a : Nat) (bs : List MByte) : assets (winWrite s a bs) = assets s :=
  forEach_keeps assets _ smPutChunk_assets _ s

/-! ## Wakes of a host access -/

theorem abortEntry_assets (s : State) : assets (abortEntry s) = assets s := rfl

/-- A wake of a device that is not in Deep Camp acts on its power state alone (R514, R516). -/
theorem wake_assets {s : State} (h : s.pwr.st ≠ 3) (code port : Nat) : assets (wake s code port) = assets s := by
  unfold wake
  split
  · exact abortEntry_assets s
  · split
    · rfl
    · split
      · split
        · split <;> rfl
        · rfl
      · rfl

theorem wake_awake {s : State} (h : s.pwr.st ≠ 3) (code port : Nat) : (wake s code port).pwr.st ≠ 3 := by
  unfold wake
  split
  · exact (by decide : (0 : BitVec 2) ≠ 3)
  · split
    · exact h
    · split
      · split
        · split <;> exact h
        · exact h
      · exact h

theorem hostTouch_assets (s : State) : assets (hostTouch s) = assets s := by
  unfold hostTouch
  split
  · rfl
  · rename_i h
    exact wake_assets h 1 0

theorem awake_of_not_blocked {s : State} (h : hostBlocked s = false) : s.pwr.st ≠ 3 := by
  intro h3
  simp [hostBlocked, h3] at h

theorem hostServed_awake {s : State} (h : hostBlocked s = false) : (hostServed s).pwr.st ≠ 3 := by
  have h3 := awake_of_not_blocked h
  simp only [hostServed, setResp_pwr, hostTouch, if_neg h3]
  exact wake_awake h3 1 0

theorem hostServed_assets (s : State) : assets (hostServed s) = assets s := hostTouch_assets s

/-! ## The frames of host accesses -/

theorem hostWrite_served {s : State} (h : hostBlocked s = false) (act : State → State) : hostWrite s act = act (hostServed s) := by
  simp only [hostWrite, h, Bool.false_eq_true, if_false, hostServed]

theorem hostWrite_assets (s : State) {act : State → State} (hact : ∀ t, t.pwr.st ≠ 3 → assets (act t) = assets t) : assets (hostWrite s act) = assets s := by
  cases hb : hostBlocked s with
  | true => simp only [hostWrite, hb, if_true, setResp_assets]
  | false => rw [hostWrite_served hb, hact _ (hostServed_awake hb), hostServed_assets]

theorem pageWrite_open {s : State} {via : PageAccess} {page : Mb} (h : PageOpen s via page) (off : Nat) (act : State → State) :
    pageWrite s via page off act = act (hostServed s) := by
  obtain ⟨hreach, hblocked, hide, hcrst⟩ := h
  simp only [pageWrite, hreach, hblocked, hide, hcrst, Bool.not_true, Bool.false_eq_true, if_false, hostServed]

theorem pageWrite_assets (s : State) (via : PageAccess) (page : Mb) (off : Nat) {act : State → State} (hact : ∀ t, assets (act t) = assets t) :
    assets (pageWrite s via page off act) = assets s := by
  unfold pageWrite
  split
  · rfl
  · split
    · exact setResp_assets ..
    · dsimp only
      split
      · exact (setResp_assets ..).trans ((logViolation_assets ..).trans (hostTouch_assets s))
      · split
        · exact (modMb_assets ..).trans ((logViolation_assets ..).trans (hostTouch_assets s))
        · rw [hact, setResp_assets, hostTouch_assets]

theorem pageViolation_assets (s : State) (via : PageAccess) (page : Mb) (off : Nat) : assets (pageViolation s via page off) = assets s :=
  logViolation_assets ..

/-! ## Mailbox pages -/

theorem startCrst_assets (s : State) (mb : Nat) : assets (startCrst s mb) = assets s := by
  unfold startCrst
  dsimp only
  split
  · rw [(performCrst_mailboxOnly _ mb).assets, modMb_assets]
  · simp only [assets, modMb]

theorem bouncePull_assets (s : State) (k : Nat) : assets (bouncePull s k).1 = assets s := by
  unfold bouncePull
  generalize List.replicate 65536 (0 : Byte) = zeros
  dsimp only
  split <;> exact winWrite_assets ..

theorem handOver_assets (s : State) (k : Nat) : assets (handOver s k) = assets s := by
  unfold handOver
  dsimp only
  split
  · rw [modGran_assets, bouncePull_assets, modGran_assets]
  · exact modGran_assets ..

theorem mbxInDb_assets (s : State) (via : PageAccess) (page : Mb) (v : Word) : assets (mbxInDb s via page v) = assets s :=
  pageWrite_assets s via page 0 fun t => by
    dsimp only
    split
    · exact modMb_assets ..
    · exact (modMb_assets ..).trans (pageViolation_assets ..)

theorem mbxOutAck_assets (s : State) (via : PageAccess) (page : Mb) (v : Word) : assets (mbxOutAck s via page v) = assets s :=
  pageWrite_assets s via page 4 fun _ => (flushCompletions_mailboxOnly ..).assets.trans (modMb_assets ..)

theorem ringWrite_assets (s : State) (via : PageAccess) (page : Mb) (out : Bool) (slot : Fin 64) (word : Fin 16) (v : Word) :
    assets (ringWrite s via page out slot word v) = assets s :=
  pageWrite_assets s via page _ fun t => by
    split
    · exact pageViolation_assets ..
    · exact modMb_assets ..

theorem mbxGranReq_assets (s : State) (via : PageAccess) (page : Mb) (v : Word) : assets (mbxGranReq s via page v) = assets s :=
  pageWrite_assets s via page 0x10 fun t => by
    dsimp only
    split
    · exact forEach_keeps assets _ handOver_assets _ t
    · exact (modMb_assets ..).trans (pageViolation_assets ..)

theorem granTidy_assets (s : State) (j : Nat) : assets (granTidy s j) = assets s := by
  unfold granTidy
  split <;> rfl

theorem mbxGranWrite_assets (s : State) (k : Nat) (v : Word) : assets (mbxGranWrite s k v) = assets s := by
  unfold mbxGranWrite
  split
  · exact setResp_assets ..
  · dsimp only
    rw [← hostServed_assets s, hostServed]
    generalize setResp (hostTouch s) .ok = t
    split
    · split <;> rfl
    · split
      · exact (granTidy_assets ..).trans (modGran_assets ..)
      · split
        · exact handOver_assets ..
        · rfl

theorem coalesceExpiry_assets (s : State) (page : Mb) : assets (coalesceExpiry s page) = assets s := by
  unfold coalesceExpiry
  dsimp only
  split
  · rfl
  · split
    · exact (fireVector_mailboxOnly ..).assets.trans (modMb_assets ..)
    · exact modMb_assets ..

/-! ## The shared window, configuration and link events -/

theorem ideAbort_assets (s : State) (addr src : Nat) (write : Bool) (req : BitVec 16) (cid : Nat) : assets (ideAbort s addr src write req cid) = assets s :=
  logViolation_assets ..

theorem bar4Violation_assets (s : State) (addr : Nat) (write : Bool) (req : BitVec 16) : assets (bar4Violation s addr write req) = assets s :=
  logViolation_assets ..

theorem bar4Read_assets (s : State) (a : Word) (n : Nat) (ide : Bool) (req : BitVec 16) : assets (bar4Read s a n ide req) = assets s := by
  unfold bar4Read
  split
  · exact setResp_assets ..
  · dsimp only
    rw [← hostTouch_assets s]
    generalize hostTouch s = t
    split
    · exact ideAbort_assets ..
    · split
      · exact (setResp_assets ..).trans (bar4Violation_assets ..)
      · split
        · exact setResp_assets ..
        · split <;> rfl

theorem bar4Write_assets (s : State) (a : Word) (d : List Byte) (ide poisoned : Bool) (req : BitVec 16) :
    assets (bar4Write s a d ide poisoned req) = assets s := by
  unfold bar4Write
  split
  · exact setResp_assets ..
  · dsimp only
    rw [← hostTouch_assets s]
    generalize hostTouch s = t
    split
    · exact ideAbort_assets ..
    · split
      · rfl
      · split
        · exact (aerNonFatal_assets ..).trans ((setResp_assets ..).trans (bar4Violation_assets ..))
        · split
          · exact (setResp_assets ..).trans (bar4Violation_assets ..)
          · exact (winWrite_assets ..).trans (setResp_assets ..)

theorem unprivileged_assets (s : State) (off : BitVec 26) (write : Bool) (req : BitVec 16) : assets (unprivileged s off write req) = assets s := by
  unfold unprivileged
  split
  · exact setResp_assets ..
  · exact (setResp_assets ..).trans ((logViolation_assets ..).trans (hostTouch_assets s))

theorem configAccess_assets (s : State) (power : Option Bool) : assets (configAccess s power) = assets s := by
  unfold configAccess
  split
  · exact setResp_assets ..
  · split
    · exact setResp_assets ..
    · cases power <;> exact hostTouch_assets s

theorem resetConsignors_assets (s : State) : assets (resetConsignors s) = assets s :=
  forEach_keeps assets _ startCrst_assets (List.range 17) s

theorem flr_assets (s : State) : assets (flr s) = assets s := (resetConsignors_assets _).trans (hostTouch_assets s)

theorem fatalError_assets (s : State) : assets (fatalError s) = assets s := resetConsignors_assets _

/-! ## Privileged registers -/

theorem clearTile_assets (s : State) (t : TileAddr) (f : Tile → Tile) : assets (clearTile s t f) = assets s := by unfold clearTile; split <;> rfl

theorem clearCore_assets (s : State) (c : Nat) (f : Core → Core) : assets (clearCore s c f) = assets s := by unfold clearCore; split <;> rfl

theorem removeUe_assets (s : State) : assets (removeUe s) = assets s := by unfold removeUe; split <;> rfl

theorem removeViolation_assets (s : State) : assets (removeViolation s) = assets s := by unfold removeViolation; split <;> rfl

theorem writeInj_assets (s : State) (v : Word) : assets (writeInj s v) = assets s := by unfold writeInj; split <;> rfl

theorem beginSwitch_assets (s : State) : assets (beginSwitch s) = assets s := by unfold beginSwitch; split <;> rfl

theorem writeEvict_assets {s : State} (h : s.pwr.st ≠ 3) (v : Word) : assets (writeEvict s v) = assets s := by
  unfold writeEvict
  split
  · exact (beginSwitch_assets _).trans (wake_assets (s := { s with cus := { s.cus with evict := true } }) h 1 0)
  · rfl

theorem writeLockable_assets (s : State) (r : LockReg) (v : Word) : assets (writeLockable s r v) = assets s := by
  cases r with
  | almCfg => simp only [writeLockable, writeAlmCfg]; split <;> rfl
  | hzlRoute => simp only [writeLockable, writeHzlRoute]; split <;> rfl
  | asyCalCfg => simp only [writeLockable, writeCalCfg]; split <;> rfl
  | ldgCfg => simp only [writeLockable, writeLdgCfg]; split <;> rfl
  | bstEccCfg => simp only [writeLockable, writeEccCfg]; split <;> rfl
  | rstCfg => simp only [writeLockable, writeRstCfg]; split <;> rfl
  | tolCfg => simp only [writeLockable, writeTolCfg]; split <;> rfl

theorem setLock_assets (s : State) (r : LockReg) : assets (setLock s r) = assets s := by cases r <;> rfl

theorem lockSet_assets (s : State) (r : LockReg) (v : Word) : assets (lockSet s r v) = assets s := by
  unfold lockSet
  split
  · exact setResp_assets ..
  · unfold lockWrite
    dsimp only
    split
    · exact (setLock_assets ..).trans ((writeLockable_assets ..).trans (hostServed_assets s))
    · exact (writeLockable_assets ..).trans (hostServed_assets s)

/-- Settles O55, access by access: none of them touches the assets. -/
theorem hostAccessesLeaveWeightsAndKeys : Obligations.HostAccessesLeaveWeightsAndKeys := by
  intro c s t hc h
  have hkept : assets t = assets s := by
    cases c
    case mbxInDb => injection h with h; subst h; exact mbxInDb_assets ..
    case mbxOutAck => injection h with h; subst h; exact mbxOutAck_assets ..
    case inboundSlotWrite => injection h with h; subst h; exact ringWrite_assets ..
    case crst => injection h with h; subst h; exact pageWrite_assets _ _ _ _ fun _ => startCrst_assets ..
    case mbxClrErr => injection h with h; subst h; exact pageWrite_assets _ _ _ _ fun _ => modMb_assets ..
    case mbxGranReq => injection h with h; subst h; exact mbxGranReq_assets ..
    case mbxGranWrite => injection h with h; subst h; exact mbxGranWrite_assets ..
    case tilClrOvf | tilClrClip => injection h with h; subst h; exact hostWrite_assets _ fun _ _ => clearTile_assets ..
    case corClrNan | corClrSat | clrMe | clrAtt | clrStall | xpkClrOvf | xpkClrCrc | clrLate | clrTail =>
      injection h with h; subst h; exact hostWrite_assets _ fun _ _ => clearCore_assets ..
    case prtStgClr => injection h with h; subst h; exact hostWrite_assets _ fun _ _ => rfl
    case hzlClrErr | hzlClrRty => injection h with h; subst h; exact hostWrite_assets _ fun _ _ => modPort_assets ..
    case bucketOvfClear => injection h with h; subst h; exact hostWrite_assets _ fun _ _ => modStack_assets ..
    case ueLogRemove => injection h with h; subst h; exact hostWrite_assets _ fun _ _ => removeUe_assets ..
    case ptlInjArm => injection h with h; subst h; exact hostWrite_assets _ fun _ _ => writeInj_assets ..
    case violLogRemove => injection h with h; subst h; exact hostWrite_assets _ fun _ _ => removeViolation_assets ..
    case evict => injection h with h; subst h; exact hostWrite_assets _ fun _ ht => writeEvict_assets ht 1
    case drvFaultClear => injection h with h; subst h; exact hostWrite_assets _ fun _ _ => modCore_assets ..
    case lockSet => injection h with h; subst h; exact lockSet_assets ..
    case almBeatLoRead => injection h with h; subst h; exact hostWrite_assets _ fun _ _ => setResp_assets ..
    case unprivilegedAccess => injection h with h; subst h; exact unprivileged_assets ..
    case bar4Read => injection h with h; subst h; exact bar4Read_assets ..
    case bar4Write => injection h with h; subst h; exact bar4Write_assets ..
    case configRequest => injection h with h; subst h; exact configAccess_assets ..
    case flr | hotReset => injection h with h; subst h; exact flr_assets ..
    case pcieFatalError => injection h with h; subst h; exact fatalError_assets ..
    case msixCoalesceExpiry => injection h with h; subst h; exact coalesceExpiry_assets ..
    all_goals exact False.elim hc
  have hengs : t.engs = s.engs := congrArg Assets.engs hkept
  exact ⟨congrArg Assets.decks hkept, congrArg Assets.targets hkept, congrArg Assets.ws hkept, congrArg Assets.kMem hkept,
    congrArg Assets.kSeal hkept, congrArg Assets.kBnc hkept, fun e => by simp only [getEng, hengs, and_self]⟩

end Sys2Proof.Machine
end

section
/-! PROOFS. Mailbox pages and the shared window (R364–R368, R370, R376–R381, R415–R418): what each access does. -/

namespace Sys2Proof.Machine

/-! ## Registers of a mailbox page -/

section
variable {s : State} {via : PageAccess} {page : Mb} (h : PageOpen s via page)
include h

theorem exec_mbxInDb_legal (v : Word) (hd : ((getMb (hostServed s) page).pi.toNat + 128 - (getMb (hostServed s) page).wmark.toNat) % 128 ≤
      (fieldOf v 0 7 + 128 - (getMb (hostServed s) page).wmark.toNat) % 128 ∧
    (fieldOf v 0 7 + 128 - (getMb (hostServed s) page).wmark.toNat) % 128 ≤ 64) :
    exec (.mbxInDb via page v) s = .next (modMb (hostServed s) page fun p => { p with pi := BitVec.ofNat 7 (fieldOf v 0 7) }) :=
  next_congr ((pageWrite_open h 0 _).trans (if_pos hd))

theorem exec_mbxInDb_illegal (v : Word) (hd : ¬(((getMb (hostServed s) page).pi.toNat + 128 - (getMb (hostServed s) page).wmark.toNat) % 128 ≤
      (fieldOf v 0 7 + 128 - (getMb (hostServed s) page).wmark.toNat) % 128 ∧
    (fieldOf v 0 7 + 128 - (getMb (hostServed s) page).wmark.toNat) % 128 ≤ 64)) :
    exec (.mbxInDb via page v) s = .next (setMbErr (pageViolation (hostServed s) via page 0) page) :=
  next_congr ((pageWrite_open h 0 _).trans (if_neg hd))

theorem exec_mbxOutAck (v : Word) : exec (.mbxOutAck via page v) s = .next
    (flushCompletions (modMb (hostServed s) page fun p => { p with ci := BitVec.ofNat 7 (fieldOf v 0 7) }) page) :=
  next_congr (pageWrite_open h 4 _)

theorem exec_mbxClrErr : exec (.mbxClrErr via page) s = .next (modMb (hostServed s) page fun p => { p with err := false }) :=
  next_congr (pageWrite_open h 0xC _)

theorem exec_crst : exec (.crst via page) s = .next (startCrst (hostServed s) page) := next_congr (pageWrite_open h 0xC _)

theorem exec_inboundSlotWrite (out : Bool) (slot : Fin 64) (word : Fin 16) (v : Word) : exec (.inboundSlotWrite via page out slot word v) s = .next
    (if out || slotPosted (getMb (hostServed s) page) slot then
      pageViolation (hostServed s) via page ((if out then 0x2000 else 0x1000) + slot.val * 64 + word.val * 4)
    else modMb (hostServed s) page fun p => { p with inRing := sset 0 p.inRing (slot.val * 16 + word.val) v }) :=
  next_congr (by rw [ringWrite, pageWrite_open h])

theorem exec_mbxGranReq_run (v : Word) (hks : ∀ k ∈ (List.range (fieldOf v 16 16 + 1)).map (fieldOf v 0 16 + ·),
      k < 65536 ∧ (getGran (hostServed s) k).flag = granHost ∧ (page.val = 16 ∨ (getGran (hostServed s) k).cid.toNat = page.val)) :
    exec (.mbxGranReq via page v) s = .next
      (forEach ((List.range (fieldOf v 16 16 + 1)).map (fieldOf v 0 16 + ·)) (hostServed s) handOver) := by
  refine next_congr ((pageWrite_open h 0x10 _).trans (if_pos ?_))
  simpa only [List.all_eq_true, Bool.and_eq_true, Bool.or_eq_true, decide_eq_true_eq, beq_iff_eq, and_assoc] using hks

end

theorem startCrst_up {s : State} (h : s.fac.up = true) (mb : Nat) : startCrst s mb = performCrst (modMb s mb fun p => { p with crstBusy := true }) mb := by
  simp only [startCrst, h, if_true]

theorem startCrst_down {s : State} (h : s.fac.up = false) (mb : Nat) : startCrst s mb =
    { modMb s mb fun p => { p with crstBusy := true } with fac :=
      { (modMb s mb fun p => { p with crstBusy := true }).fac with
        crstPending := (modMb s mb fun p => { p with crstBusy := true }).fac.crstPending ||| BitVec.ofNat 17 (2 ^ mb) } } := by
  simp only [startCrst, h, Bool.false_eq_true, if_false]

theorem exec_msixCoalesceExpiry (s : State) (page : Mb) : exec (.msixCoalesceExpiry page) s = .next (coalesceExpiry s page) := rfl

/-- Settles O14: a page that is open carries each write out. -/
theorem pageRegistersAreWritten : Obligations.PageRegistersAreWritten := by
  refine ⟨⟨fun s via page v h h1 h2 => exec_mbxInDb_legal h v ⟨h1, h2⟩, fun s via page v h hd => exec_mbxInDb_illegal h v hd,
      fun s via page v h => exec_mbxOutAck h v, fun s via page h => exec_mbxClrErr h, fun s via page h => ⟨fun hup => ?_, fun hdown => ?_⟩⟩,
    ⟨fun s via page slot word v h hfree => ?_, fun s via page out slot word v h hheld => ?_⟩,
    ⟨fun s page hrun hpend => ?_, fun s page hrun hpend => ?_⟩⟩
  · rw [exec_crst h, startCrst_up hup]
  · rw [exec_crst h, startCrst_down hdown]
  · rw [exec_inboundSlotWrite h, hfree, Bool.or_false, if_neg Bool.false_ne_true]
  · rw [exec_inboundSlotWrite h, if_pos (Bool.or_eq_true_iff.mpr hheld)]
    rfl
  · simp only [exec_msixCoalesceExpiry, coalesceExpiry, hrun, hpend, Bool.not_true, Bool.false_eq_true, if_false, if_true]
    exact next_congr (congrArg (fireVector · page) (modMb_congr rfl))
  · simp only [exec_msixCoalesceExpiry, coalesceExpiry, hrun, hpend, Bool.not_true, Bool.false_eq_true, if_false]

/-! ## Granules and the shared window -/

/-- A write of the granule register that is served (R365, R366, R381). -/
theorem mbxGranWrite_served {s : State} (h : hostBlocked s = false) (g : Nat) (v : Word) : mbxGranWrite s g v =
    if (getGran (hostServed s) g).flag = granNone ∧ fieldOf v 0 2 = 1 ∧ fieldOf v 2 5 < 16 then
      match sfind (hostServed s).granPage (g / 32), freePage (hostServed s) with
      | some _, _ => modGran (hostServed s) g fun _ => { flag := granHost, cid := BitVec.ofNat 5 (fieldOf v 2 5) }
      | none, some p => modGran { hostServed s with granPage := sput (hostServed s).granPage (g / 32) p } g fun _ =>
          { flag := granHost, cid := BitVec.ofNat 5 (fieldOf v 2 5) }
      | none, none => setMbErr (hostServed s) 16
    else if (getGran (hostServed s) g).flag = granHost ∧ fieldOf v 0 2 = 0 then granTidy (modGran (hostServed s) g fun _ => {}) (g / 32)
    else if (getGran (hostServed s) g).flag = granHost ∧ fieldOf v 0 2 = 2 then handOver (hostServed s) g
    else hostServed s := by
  unfold mbxGranWrite
  rw [if_neg (by rw [h]; exact Bool.false_ne_true)]
  rfl

theorem exec_mbxGranWrite (s : State) (g : Fin 65536) (v : Word) : exec (.mbxGranWrite g v) s = .next (mbxGranWrite s g v) := rfl

theorem granHost_ne_granNone : granHost ≠ granNone := by decide

theorem mbxGranWrite_assign {s : State} {g : Fin 65536} {v : Word} {p : Nat} (h : hostBlocked s = false)
    (hn : (getGran (hostServed s) g).flag = granNone) (hf : fieldOf v 0 2 = 1) (hc : fieldOf v 2 5 < 16) :
    (sfind (hostServed s).granPage (g.val / 32) = some p →
      mbxGranWrite s g v = modGran (hostServed s) g fun _ => { flag := granHost, cid := BitVec.ofNat 5 (fieldOf v 2 5) }) ∧
    (sfind (hostServed s).granPage (g.val / 32) = none → freePages (hostServed s) 1 = some [p] →
      mbxGranWrite s g v = modGran { hostServed s with granPage := sput (hostServed s).granPage (g.val / 32) p } g fun _ =>
        { flag := granHost, cid := BitVec.ofNat 5 (fieldOf v 2 5) }) := by
  rw [mbxGranWrite_served h, if_pos ⟨hn, hf, hc⟩]
  refine ⟨fun hp => by rw [hp], fun hp hfree => ?_⟩
  have hpage : freePage (hostServed s) = some p := by rw [freePage, hfree]
  rw [hp, hpage]

theorem mbxGranWrite_take {s : State} {g : Fin 65536} {v : Word} (h : hostBlocked s = false) (hg : (getGran (hostServed s) g).flag = granHost)
    (hf : fieldOf v 0 2 = 2) : mbxGranWrite s g v = handOver (hostServed s) g := by
  rw [mbxGranWrite_served h, if_neg (by rw [hg]; exact fun k => granHost_ne_granNone k.1), if_neg (by omega), if_pos ⟨hg, hf⟩]

theorem mbxGranWrite_return {s : State} {g : Fin 65536} {v : Word} (h : hostBlocked s = false) (hg : (getGran (hostServed s) g).flag = granHost)
    (hf : fieldOf v 0 2 = 0) : mbxGranWrite s g v = granTidy (modGran (hostServed s) g fun _ => {}) (g.val / 32) := by
  rw [mbxGranWrite_served h, if_neg (by rw [hg]; exact fun k => granHost_ne_granNone k.1), if_pos ⟨hg, hf⟩]

theorem not_outside_ide {s : State} {ide : Bool} (hi : s.cus.tdi = .run → ide = true) : ¬(s.cus.tdi = .run ∧ ide = false) := fun ⟨hrun, hide⟩ =>
  Bool.noConfusion ((hi hrun).symm.trans hide)

section
variable {s : State} {ide : Bool} (h : hostBlocked s = false) (hi : (hostTouch s).cus.tdi = .run → ide = true)
include h hi

theorem exec_bar4Read (a : Word) (n : Nat) (req : BitVec 16) : exec (.bar4Read a n ide req) s = .next
    (if rangeHost (hostTouch s) a.toNat n = false then setResp (bar4Violation (hostTouch s) a.toNat false req) .completerAbort
    else if (hostTouch s).cus.bounce then setResp (hostTouch s) (.data (List.replicate n 0))
    else if anyMark (winRead (hostTouch s) a.toNat n) then setResp (aerNonFatal (hostTouch s)) (.poisoned (winBytes (hostTouch s) a.toNat n))
    else setResp (hostTouch s) (.data (winBytes (hostTouch s) a.toNat n))) := by
  refine next_congr ?_
  unfold bar4Read
  simp only [h, Bool.false_eq_true, if_false, not_outside_ide hi, Bool.not_eq_true']
  rfl

theorem exec_bar4Write (a : Word) (d : List Byte) (req : BitVec 16) : exec (.bar4Write a d ide false req) s = .next
    (if rangeHost (hostTouch s) a.toNat d.length = false then aerNonFatal (setResp (bar4Violation (hostTouch s) a.toNat true req) .discarded)
    else if (hostTouch s).cus.bounce then setResp (bar4Violation (hostTouch s) a.toNat true req) .discarded
    else winWrite (setResp (hostTouch s) .ok) a.toNat (markAll false d)) := by
  refine next_congr ?_
  unfold bar4Write
  simp only [h, Bool.false_eq_true, if_false, not_outside_ide hi, Bool.not_eq_true']

end

/-- Settles O15. -/
theorem windowAndGranules : Obligations.WindowAndGranules := by
  refine ⟨⟨fun s via page v h hks => exec_mbxGranReq_run h v hks, fun s g v p h hn hf hc => ?_, fun s g v h hg hf => ?_, fun s g v h hg hf => ?_⟩,
    fun s a n ide req h hi hr => ⟨fun hb hm => ?_, fun hb hm => ?_, fun hb => ?_⟩, fun s a n ide req h hi hr => ?_,
    fun s a d ide req h hi => ⟨fun hr hb => ?_, fun hr hb => ?_, fun hr => ?_⟩⟩
  · simp only [exec_mbxGranWrite, Host.Outcome.next.injEq]
    exact mbxGranWrite_assign h hn hf hc
  · rw [exec_mbxGranWrite, mbxGranWrite_take h hg hf]
  · rw [exec_mbxGranWrite, mbxGranWrite_return h hg hf]
  · simp only [exec_bar4Read h hi, hr, hb, hm, Bool.true_eq_false, Bool.false_eq_true, if_false]
  · simp only [exec_bar4Read h hi, hr, hb, hm, Bool.true_eq_false, Bool.false_eq_true, if_false, if_true]
  · simp only [exec_bar4Read h hi, hr, hb, Bool.true_eq_false, if_false, if_true]
  · simp only [exec_bar4Read h hi, hr, if_true]
    rfl
  · simp only [exec_bar4Write h hi, hr, hb, Bool.true_eq_false, Bool.false_eq_true, if_false]
  · simp only [exec_bar4Write h hi, hr, hb, Bool.true_eq_false, if_false, if_true]
    rfl
  · simp only [exec_bar4Write h hi, hr, if_true]
    rfl

end Sys2Proof.Machine
end

section
/-! PROOFS. Host events, privileged registers and the SMBus endpoint (R370, R374, R384, R412–R416, R462, R508, R553–R557): what each does. -/

namespace Sys2Proof.Machine

/-! ## Link events and the triggers of a tenant switch -/

theorem beginSwitch_held {s : State} (h : s.cus.tenancy = .held) : beginSwitch s =
    { s with cus := { s.cus with tenancy := .switching, swRec := some (s.cus.tenantId.extractLsb' 0 128) } } := if_pos h

theorem exec_unprivilegedAccess {s : State} (h : hostBlocked s = false) (off : BitVec 26) (w : Bool) (req : BitVec 16) :
    exec (.unprivilegedAccess off w req) s = .next
      (setResp (logViolation (hostTouch s) { addr := BitVec.ofNat 32 off.toNat, req := req, src := 1, write := w, cid := 0x1F })
        (if w then .discarded else .completerAbort)) :=
  next_congr (by rw [unprivileged, h, if_neg Bool.false_ne_true])

theorem exec_configRequest {s : State} (hst : s.pwr.st ≠ 3) (x : Option Bool) : exec (.configRequest x) s = .next
    (if hostBlocked s then setResp s .crs
    else match x with
      | some d3 => { hostServed s with pcie := { (hostServed s).pcie with d3hot := d3 } }
      | none => hostServed s) := by
  refine next_congr ?_
  rw [configAccess, if_neg hst]
  rfl

theorem writeEvict_held {s : State} (h : s.cus.tenancy = .held) :
    writeEvict s 1 = beginSwitch (wake { s with cus := { s.cus with evict := true } } 1 0) := by
  have hset : (flagOf (1 : Word) 0 && decide (s.cus.tenancy ≠ .none)) = true := by rw [h]; decide
  exact if_pos hset

/-- Settles O16. -/
theorem hostEventsAndRequests : Obligations.HostEventsAndRequests := by
  refine ⟨⟨fun s off w req h => exec_unprivilegedAccess h off w req, fun s d3 hst h => ⟨?_, ?_⟩, fun s x hst h => ?_⟩,
    ⟨fun s => rfl, fun s => rfl, fun s => rfl⟩, ⟨fun s h => next_congr (beginSwitch_held h), fun s h => next_congr (beginSwitch_held h)⟩, fun s h ht => ?_⟩
  · rw [exec_configRequest hst, h, if_neg Bool.false_ne_true]
  · rw [exec_configRequest hst, h, if_neg Bool.false_ne_true]
  · rw [exec_configRequest hst, h, if_pos rfl]
  · exact next_congr ((hostWrite_served h _).trans (writeEvict_held ht))

/-! ## The clearing commands -/

theorem hostWrite_clearTile {s : State} {t : TileAddr} (h : hostBlocked s = false) (hout : isOut (hostServed s) t.core = false) (f : Tile → Tile) :
    hostWrite s (fun s => clearTile s t f) = modTile (hostServed s) (tileKey (hostServed s) t) f := by
  rw [hostWrite_served h, clearTile, hout, if_neg Bool.false_ne_true]

theorem hostWrite_clearCore {s : State} {c : Nat} (h : hostBlocked s = false) (hout : isOut (hostServed s) c = false) (f : Core → Core) :
    hostWrite s (fun s => clearCore s c f) = modCore (hostServed s) (physOf (hostServed s) c) f := by
  rw [hostWrite_served h, clearCore, hout, if_neg Bool.false_ne_true]

/-- Settles O17: a clear that is served acts on the tile, core, port or stack it names, where a logical core is in service. -/
theorem countersClear : Obligations.CountersClear := by
  refine ⟨fun s t h hout => ⟨fun n => ?_, fun n m => ?_⟩, fun s c n m h hout => ?_, fun s h => ⟨fun p a b c => ?_, fun p a b => ?_, ?_, fun k => ?_⟩⟩
  · exact next_congr (hostWrite_clearTile h hout _)
  · exact next_congr (hostWrite_clearTile h hout _)
  · have hclear (f : Core → Core) := hostWrite_clearCore h hout f
    exact ⟨next_congr (hclear _), next_congr (hclear _), next_congr (hclear _), next_congr (hclear _), next_congr (hclear _), next_congr (hclear _),
      next_congr (hclear _), next_congr (hclear _), next_congr (hclear _), next_congr (hostWrite_served h _)⟩
  · exact next_congr (hostWrite_served h _)
  · exact next_congr (hostWrite_served h _)
  · exact next_congr (hostWrite_served h _)
  · exact next_congr (hostWrite_served h _)

/-! ## Logs, injection and writes through BAR0 -/

theorem removeViolation_cons {s : State} {v : Viol} {r : List Viol} (h : s.cus.viol = v :: r) :
    removeViolation s = { s with cus := { s.cus with viol := r, violLost := s.cus.violLost && !r.isEmpty } } := by
  unfold removeViolation
  rw [h]

theorem removeUe_cons {s : State} {v : UeEntry} {r : List UeEntry} (h : s.ptl.ueLog = v :: r) :
    removeUe s = { s with ptl := { s.ptl with ueLog := r, ueLost := s.ptl.ueLost && !r.isEmpty } } := by
  unfold removeUe
  rw [h]

theorem barWrite_word {s : State} {off : BitVec 26} (h : hostBlocked s = false) (ho : off.toNat % 4 = 0) (v : Word) :
    barWrite s off v 0xF = regWrite (hostServed s) off.toNat v := by
  rw [barWrite, h, if_neg Bool.false_ne_true, if_neg (by simp [ho])]
  rfl

theorem barWrite_part {s : State} {off : BitVec 26} {be : BitVec 4} (h : hostBlocked s = false) (ho : be ≠ 0xF ∨ off.toNat % 4 ≠ 0) (v : Word) :
    barWrite s off v be = setResp (hostTouch s) .discarded := by
  rw [barWrite, h, if_neg Bool.false_ne_true, if_pos ho]

/-! ## Locked fields -/

/-- LOCK of a register. -/
def lockOf (s : State) : LockReg → Bool
  | .almCfg => s.alm.lock
  | .hzlRoute => s.hzl.lock
  | .asyCalCfg => s.asy.lock
  | .ldgCfg => s.ldg.lock
  | .bstEccCfg => s.bst.lock
  | .rstCfg => s.rst.lock
  | .tolCfg => s.tol.lock

theorem exec_lockSet {s : State} (h : hostBlocked s = false) (r : LockReg) (v : Word) : exec (.lockSet r v) s = .next (lockWrite (hostServed s) r v) :=
  next_congr (by rw [lockSet, h, if_neg Bool.false_ne_true, hostServed])

theorem setLock_of_locked {s : State} {r : LockReg} (h : lockOf s r = true) : setLock s r = s := by
  cases r <;> (simp only [setLock]; rw [← h]; rfl)

theorem writeLockable_of_locked {s : State} {r : LockReg} (h : lockOf s r = true) (v : Word) : writeLockable s r v = s := by
  cases r with
  | almCfg => exact if_pos h
  | hzlRoute => exact if_pos h
  | asyCalCfg => exact if_pos (Or.inl h)
  | ldgCfg => exact if_pos h
  | bstEccCfg => exact if_pos (Or.inl h)
  | rstCfg => exact if_pos h
  | tolCfg => exact if_pos h

theorem lockWrite_of_locked {s : State} {r : LockReg} (h : lockOf s r = true) (v : Word) : lockWrite s r v = s := by
  unfold lockWrite
  dsimp only
  rw [writeLockable_of_locked h, setLock_of_locked h, ite_self]

theorem lockWrite_open {s : State} {r : LockReg} {v : Word} {f : Bool → State} (hw : writeLockable s r v = f false) (hl : setLock (f false) r = f true) :
    lockWrite s r v = f (flagOf v 31) := by
  unfold lockWrite
  dsimp only
  rw [hw, hl]
  cases flagOf v 31 <;> rfl

section
variable {s : State} (v : Word)

theorem lockWrite_rstCfg (h : s.rst.lock = false) :
    lockWrite s .rstCfg v = { s with rst := { s.rst with rstnCold := flagOf v 0, routeEn := flagOf v 1, lock := flagOf v 31 } } :=
  lockWrite_open (f := fun k => { s with rst := { s.rst with rstnCold := flagOf v 0, routeEn := flagOf v 1, lock := k } })
    (by simp only [writeLockable, writeRstCfg, h, Bool.false_eq_true, if_false]) rfl

theorem lockWrite_almCfg (h : s.alm.lock = false) : lockWrite s .almCfg v = { s with alm :=
    { s.alm with src := if fieldOf v 0 2 = 3 then s.alm.src else BitVec.ofNat 2 (fieldOf v 0 2), uport := BitVec.ofNat 3 (fieldOf v 2 3)
                 epinEn := flagOf v 5, epinDly := BitVec.ofNat 4 (fieldOf v 6 4), epoutEn := flagOf v 10, lock := flagOf v 31 } } :=
  lockWrite_open (f := fun k => { s with alm :=
    { s.alm with src := if fieldOf v 0 2 = 3 then s.alm.src else BitVec.ofNat 2 (fieldOf v 0 2), uport := BitVec.ofNat 3 (fieldOf v 2 3)
                 epinEn := flagOf v 5, epinDly := BitVec.ofNat 4 (fieldOf v 6 4), epoutEn := flagOf v 10, lock := k } })
    (by simp only [writeLockable, writeAlmCfg, h, Bool.false_eq_true, if_false]) rfl

theorem lockWrite_hzlRoute (h : s.hzl.lock = false) : lockWrite s .hzlRoute v = { s with hzl :=
    { s.hzl with devnum := BitVec.ofNat 6 (fieldOf v 0 6), ndev := BitVec.ofNat 7 (fieldOf v 6 7), lock := flagOf v 31 } } :=
  lockWrite_open (f := fun k => { s with hzl :=
    { s.hzl with devnum := BitVec.ofNat 6 (fieldOf v 0 6), ndev := BitVec.ofNat 7 (fieldOf v 6 7), lock := k } })
    (by simp only [writeLockable, writeHzlRoute, h, Bool.false_eq_true, if_false]) rfl

theorem lockWrite_tolCfg (h : s.tol.lock = false) : lockWrite s .tolCfg v = { s with tol :=
    { s.tol with units := if fieldOf v 0 12 = 0 ∨ 3072 < fieldOf v 0 12 then s.tol.units else BitVec.ofNat 12 (fieldOf v 0 12)
                 limit := if fieldOf v 12 9 = 0 ∨ 450 < fieldOf v 12 9 then s.tol.limit else BitVec.ofNat 9 (fieldOf v 12 9)
                 lock := flagOf v 31 } } :=
  lockWrite_open (f := fun k => { s with tol :=
    { s.tol with units := if fieldOf v 0 12 = 0 ∨ 3072 < fieldOf v 0 12 then s.tol.units else BitVec.ofNat 12 (fieldOf v 0 12)
                 limit := if fieldOf v 12 9 = 0 ∨ 450 < fieldOf v 12 9 then s.tol.limit else BitVec.ofNat 9 (fieldOf v 12 9), lock := k } })
    (by simp only [writeLockable, writeTolCfg, h, Bool.false_eq_true, if_false]) rfl

theorem lockWrite_asyCalCfg (h : s.asy.lock = false) : lockWrite s .asyCalCfg v = { s with asy :=
    { s.asy with interval := if fieldOf v 0 5 = 0 ∨ 16 < fieldOf v 0 5 then s.asy.interval else BitVec.ofNat 5 (fieldOf v 0 5)
                 lock := flagOf v 31 } } := by
  refine lockWrite_open (f := fun k => { s with asy :=
    { s.asy with interval := if fieldOf v 0 5 = 0 ∨ 16 < fieldOf v 0 5 then s.asy.interval else BitVec.ofNat 5 (fieldOf v 0 5), lock := k } }) ?_ rfl
  simp only [writeLockable, writeCalCfg, h, Bool.false_eq_true, false_or]
  split
  · rw [← h]
  · rfl

theorem lockWrite_ldgCfg (h : s.ldg.lock = false) :
    lockWrite s .ldgCfg v = { s with ldg := { s.ldg with thr := BitVec.ofNat 4 (fieldOf v 0 4), lock := flagOf v 31 } } :=
  lockWrite_open (f := fun k => { s with ldg := { s.ldg with thr := BitVec.ofNat 4 (fieldOf v 0 4), lock := k } })
    (by simp only [writeLockable, writeLdgCfg, h, Bool.false_eq_true, if_false]) rfl

theorem lockWrite_bstEccCfg (h : s.bst.lock = false) : lockWrite s .bstEccCfg v = { s with bst :=
    { s.bst with thr := if fieldOf v 0 3 = 0 ∨ 4 < fieldOf v 0 3 then s.bst.thr else BitVec.ofNat 3 (fieldOf v 0 3), lock := flagOf v 31 } } := by
  refine lockWrite_open (f := fun k => { s with bst :=
    { s.bst with thr := if fieldOf v 0 3 = 0 ∨ 4 < fieldOf v 0 3 then s.bst.thr else BitVec.ofNat 3 (fieldOf v 0 3), lock := k } }) ?_ rfl
  simp only [writeLockable, writeEccCfg, bstMod, h, Bool.false_eq_true, false_or]
  split
  · rw [← h]
  · rfl

end

/-- Settles O18. -/
theorem registerCommands : Obligations.RegisterCommands := by
  refine ⟨⟨fun s v r h hv => ?_, fun s v r h hv => ?_⟩, fun s v h => ?_, fun s h => ?_, ⟨fun s off v h ho => ?_, fun s off v be h ho => ?_⟩,
    fun s v h => ⟨fun k => ?_, fun k => ?_, fun k => ?_, fun k => ?_, fun k => ?_, fun k => ?_, fun k => ?_,
      fun k => ?_, fun k => ?_, fun k => ?_, fun k => ?_, fun k => ?_, fun k => ?_, fun k => ?_⟩⟩
  · exact next_congr ((hostWrite_served h _).trans (removeViolation_cons hv))
  · exact next_congr ((hostWrite_served h _).trans (removeUe_cons hv))
  · exact next_congr (hostWrite_served h _)
  · exact next_congr (hostWrite_served h _)
  · exact next_congr (barWrite_word h ho v)
  · exact next_congr (barWrite_part h ho v)
  all_goals rw [exec_lockSet h]
  · rw [lockWrite_of_locked (r := .rstCfg) k]
  · rw [lockWrite_of_locked (r := .almCfg) k]
  · rw [lockWrite_of_locked (r := .hzlRoute) k]
  · rw [lockWrite_of_locked (r := .tolCfg) k]
  · rw [lockWrite_of_locked (r := .asyCalCfg) k]
  · rw [lockWrite_of_locked (r := .ldgCfg) k]
  · rw [lockWrite_of_locked (r := .bstEccCfg) k]
  · rw [lockWrite_rstCfg v k]
  · rw [lockWrite_almCfg v k]
  · rw [lockWrite_hzlRoute v k]
  · rw [lockWrite_tolCfg v k]
  · rw [lockWrite_asyCalCfg v k]
  · rw [lockWrite_ldgCfg v k]
  · rw [lockWrite_bstEccCfg v k]

end Sys2Proof.Machine
end

section
/-! PROOFS. Device resets (R489–R497, R508, R576) and the SMBus endpoint (R518, R555–R557). -/

namespace Sys2Proof.Machine

/-! ## The reset control register -/

/-- The key field of a word made of a low bit field and a key. -/
theorem fieldOf_key (lo : Nat) (key : Byte) (hlo : lo < 2) : fieldOf (packWord [(1, lo, 1), (key.toNat, 8, 8)]) 8 8 = key.toNat := by
  have hk : key.toNat < 256 := key.isLt
  have hl : lo = 0 ∨ lo = 1 := by omega
  have hor : 1 <<< lo ||| (key.toNat <<< 8 ||| 0) < 2 ^ 32 := by
    refine Nat.or_lt_two_pow ?_ (Nat.or_lt_two_pow ?_ (by decide))
    · rcases hl with rfl | rfl <;> decide
    · rw [Nat.shiftLeft_eq]; omega
  have hlow : (1 <<< lo) >>> 8 = 0 := by rcases hl with rfl | rfl <;> rfl
  simp only [fieldOf, bitsOf, packWord, packNat, BitVec.toNat_ofNat, Nat.reducePow, Nat.reduceMod, Nat.mod_eq_of_lt hk]
  rw [Nat.mod_eq_of_lt (show _ < 4294967296 from hor), Nat.shiftRight_or_distrib, Nat.shiftRight_or_distrib, hlow, Nat.zero_or, Nat.zero_shiftRight, Nat.or_zero,
    Nat.shiftLeft_shiftRight, Nat.mod_eq_of_lt hk]

theorem writeRstCtl_other {s : State} {v : Word} (h : fieldOf v 8 8 ≠ 0xC3) : writeRstCtl s v = s := if_pos h

theorem writeRstCtl_warm (s : State) : writeRstCtl s (packWord [(1, 0, 1), (0xC3, 8, 8)]) = beginReset s 5 false false false := by
  have hkey : ¬fieldOf (packWord [(1, 0, 1), (0xC3, 8, 8)]) 8 8 ≠ 0xC3 := by decide
  have hcold : flagOf (packWord [(1, 0, 1), (0xC3, 8, 8)]) 1 = false := by decide
  have hwarm : flagOf (packWord [(1, 0, 1), (0xC3, 8, 8)]) 0 = true := by decide
  rw [writeRstCtl, if_neg hkey, hcold, hwarm, if_neg Bool.false_ne_true, if_pos rfl]

theorem writeRstCtl_cold (s : State) : writeRstCtl s (packWord [(1, 1, 1), (0xC3, 8, 8)]) = beginReset s 5 true false false := by
  have hkey : ¬fieldOf (packWord [(1, 1, 1), (0xC3, 8, 8)]) 8 8 ≠ 0xC3 := by decide
  have hcold : flagOf (packWord [(1, 1, 1), (0xC3, 8, 8)]) 1 = true := by decide
  rw [writeRstCtl, if_neg hkey, hcold, if_pos rfl]

/-! ## The other sources -/

theorem deviceReset_cold (s : State) (src : Nat) : deviceReset s src true = beginReset s src true false false := rfl

theorem deviceReset_warm {s : State} (h : s.pwr.st ≠ 3) (src : Nat) : deviceReset s src false = beginReset (rouse s) src false false false := by
  rw [deviceReset, if_neg Bool.false_ne_true, if_neg h]

theorem deviceReset_off {s : State} (h : s.pwr.st = 3) (src : Nat) : deviceReset s src false = s := by
  rw [deviceReset, if_neg Bool.false_ne_true, if_pos h]

theorem rstNInput_long {s : State} {ns : Nat} (h : 1000 ≤ ns) (hd : s.rst.rstNDriven = false) : rstNInput s ns = deviceReset s 3 s.rst.rstnCold := by
  rw [rstNInput, if_neg (by rw [hd]; exact fun k => k.elim (fun k => absurd k (by omega)) Bool.noConfusion)]

theorem factorWatchdog_runs {s : State} (h : s.fac.running = true) (hst : s.pwr.st.toNat < 2) : factorWatchdog s = deviceReset s 4 false := by
  simp only [factorWatchdog, h, hst, decide_true, Bool.and_self, if_true]

theorem perstChange_falls {s : State} (h : s.rst.perstLow = false) : perstChange s true =
    { beginReset (if s.pwr.st = 3 then wake s 1 0 else rouse s) 2 false false false with rst :=
      { (beginReset (if s.pwr.st = 3 then wake s 1 0 else rouse s) 2 false false false).rst with perstLow := true } } := by
  unfold perstChange
  rw [if_neg (by decide), h, if_neg Bool.false_ne_true]

theorem routeReset_master {s : State} (hup : s.fac.up = true) (hf : s.hzl.formed = true) (hm : s.alm.master = false) (cold : Bool) :
    routeReset s 0 cold = if s.rst.routeEn then deviceReset (broadcast s (resetRequestBytes cold)) 7 cold else broadcast s (resetRequestBytes cold) := by
  simp [routeReset, hup, hf, hm]

theorem routeReset_other {s : State} {d : Nat} (hup : s.fac.up = true) (h : d ≠ 0 ∨ s.hzl.formed = false ∨ s.alm.master = true) (cold : Bool) :
    routeReset s d cold = logViolation s { addr := BitVec.ofNat 32 d, req := BitVec.ofNat 16 d, src := 6, write := true, cid := 0x1F } := by
  rw [routeReset, hup, if_neg (by decide), if_pos h]

theorem awake_of_lt_two {x : BitVec 2} (h : x.toNat < 2) : x ≠ 3 := by
  rintro rfl
  exact absurd h (by decide)

/-- Settles O19. -/
theorem resetSourcesBeginAReset : Obligations.ResetSourcesBeginAReset := by
  refine ⟨⟨fun s h => ?_, fun s h => ?_, fun s key h hk => ?_⟩, fun s v => rfl, fun s => rfl, fun s ns hns hv => (tamperIsFiltered s ns).1 hns hv,
    fun s ns hns => (tamperIsFiltered s ns).2.1 hns, fun s ns hns hd => ⟨fun hc => ?_, fun hc hst => ?_, fun hc hst => ?_⟩, fun s ns hns => ?_,
    fun s hr hst => ?_, fun s hp => ?_, fun s => rfl, fun s cold hup hf hm => ⟨fun hen => ?_, fun hen => ?_⟩, fun s d cold hup h => ?_⟩
  · exact next_congr ((hostWrite_served h _).trans (writeRstCtl_warm _))
  · exact next_congr ((hostWrite_served h _).trans (writeRstCtl_cold _))
  · have hkey (lo : Nat) (hlo : lo < 2) : fieldOf (packWord [(1, lo, 1), (key.toNat, 8, 8)]) 8 8 ≠ 0xC3 := by
      rw [fieldOf_key lo key hlo]
      exact fun e => hk (BitVec.eq_of_toNat_eq e)
    exact ⟨next_congr ((hostWrite_served h _).trans (writeRstCtl_other (hkey 0 (by decide)))),
      next_congr ((hostWrite_served h _).trans (writeRstCtl_other (hkey 1 (by decide))))⟩
  · exact next_congr ((rstNInput_long hns hd).trans (by rw [hc, deviceReset_cold]))
  · exact next_congr ((rstNInput_long hns hd).trans (by rw [hc, deviceReset_warm hst]))
  · exact next_congr ((rstNInput_long hns hd).trans (by rw [hc, deviceReset_off hst]))
  · exact next_congr (if_pos (Or.inl hns))
  · exact next_congr ((factorWatchdog_runs hr hst).trans (deviceReset_warm (awake_of_lt_two hst) 4))
  · exact next_congr (perstChange_falls hp)
  · exact next_congr ((routeReset_master hup hf hm cold).trans (by rw [hen, if_neg Bool.false_ne_true]))
  · exact next_congr ((routeReset_master hup hf hm cold).trans (by rw [hen, if_pos rfl]))
  · refine next_congr (routeReset_other hup ?_ cold)
    exact h.imp_left fun hd h0 => hd (Fin.ext h0)

/-! ## Joining -/

/-- What the assertion of a reset leaves of the reset under way. -/
structure ResetCarried (s t : State) : Prop where
  count : t.rst.count = s.rst.count
  stFirst : t.rst.stFirst = s.rst.stFirst
  stSeen : t.rst.stSeen = s.rst.stSeen

theorem bstCutShort_rst (s : State) : (bstCutShort s).rst = s.rst := by
  unfold bstCutShort
  dsimp only
  split
  · rw [bstMod_rst]
    split
    · rfl
    · split <;> rfl
  · rfl

theorem gpioHold_rst (s : State) : (gpioHold s).rst = s.rst := by unfold gpioHold; split <;> rfl

theorem assertCold_carried (s : State) (vsbLost thermal : Bool) : ResetCarried s (assertCold s vsbLost thermal) := by
  have h : (stopAllProgramming (bstCutShort s) thermal).rst = s.rst := bstCutShort_rst s
  constructor <;> simp only [assertCold, h]

theorem beginSwitch_rst (s : State) : (beginSwitch s).rst = s.rst := by unfold beginSwitch; split <;> rfl

theorem assertPerst_rst (s : State) : (assertPerst s).rst = s.rst := by
  unfold assertPerst
  dsimp only
  split
  · exact beginSwitch_rst _
  · rfl

theorem assertWarm_rst (s : State) (perst : Bool) : (assertWarm s perst).rst = s.rst := by
  have h : (bstCutShort (gpioHold s)).rst = s.rst := (bstCutShort_rst _).trans (gpioHold_rst s)
  cases perst with
  | true => simp only [assertWarm, if_true, assertPerst_rst, h]
  | false => simp only [assertWarm, Bool.false_eq_true, if_false, h]

/-- The state in which a source of a reset is recorded. -/
theorem beginReset_asserts (s : State) (src : Nat) (cold thermal : Bool) : ∃ t, ResetCarried s t ∧ beginReset s src cold false thermal =
    { t with rst := { t.rst with
      stretching := true, loading := false, rstNDriven := true, stCold := cold || (inReset s && s.rst.stCold)
      stFirst := if inReset s then t.rst.stFirst else BitVec.ofNat 4 src
      stSeen := (if inReset s then t.rst.stSeen else 0) ||| BitVec.ofNat 8 (2 ^ (src - 1))
      stOlrestart := inReset s && (t.rst.stOlrestart || s.rst.loading), stVsbLost := (inReset s && t.rst.stVsbLost) || false
      perstSeen := (inReset s && t.rst.perstSeen) || decide (src = 2)
      count := if inReset s then t.rst.count else t.rst.count + 1 } } := by
  refine ⟨_, ?_, rfl⟩
  split
  · exact assertCold_carried ..
  · split
    · split <;> exact ⟨rfl, rfl, rfl⟩
    · have h := assertWarm_rst s (decide (src = 2))
      exact ⟨congrArg Rst.count h, congrArg Rst.stFirst h, congrArg Rst.stSeen h⟩

theorem exec_stretchEnd (s : State) : exec .stretchEnd s = .next (stretchEnd s) := rfl

theorem optionLoading_runs {s : State} (hl : s.rst.loading = true) (hs : s.rst.stretching = false) (smba : BitVec 2) (recovN : Bool) :
    optionLoading s smba recovN =
      (let u := { loadedState s smba with rst := { (loadedState s smba).rst with loading := false, perstSeen := false, recovN := recovN } }
       if recovN then gpioConfigure (startImage u) else u) := by
  rw [optionLoading, hl, hs, if_pos (by decide)]

theorem factorReady_cold {s : State} (h : mayComeUp s = true) (hr : s.fac.resumePending = false) : factorReady s = factorUp s := by
  rw [factorReady, h, hr, if_pos (by decide)]

theorem factorResume_warm {s : State} (h : mayComeUp s = true) (hr : s.fac.resumePending = true) :
    factorResume s = fireVector (retarget { factorUp s with pwr := { (factorUp s).pwr with st := 0 } }) 22 := by
  rw [factorResume, h, hr, if_pos (by decide)]

/-- Settles O28: the source is recorded on what the assertion of its class leaves. -/
theorem resetsJoinAndEnd : Obligations.ResetsJoinAndEnd := by
  refine ⟨fun s src cold h1 h8 => ?_, fun s hs hm => ?_, fun s smba hl hs => ⟨?_, fun hr => if_pos hr, ?_⟩, fun s h hr => ?_, fun s h hr => ?_⟩
  · obtain ⟨t, ht, heq⟩ := beginReset_asserts s src cold false
    dsimp only
    rw [heq]
    refine ⟨rfl, rfl, fun hin => ?_, fun hin => ?_⟩ <;> simp only [hin, if_true, Bool.false_eq_true, if_false, Bool.false_and, Bool.true_and, Bool.or_false]
    · have hsrc : (BitVec.ofNat 4 src).toNat = src := by rw [BitVec.toNat_ofNat]; omega
      exact ⟨by rw [ht.count], hsrc, trivial, trivial⟩
    · exact ⟨ht.count, ht.stFirst, trivial, by rw [ht.stSeen]⟩
  · rw [exec_stretchEnd, stretchEnd, hs, hm, if_pos (by decide)]
  · exact next_congr (optionLoading_runs hl hs smba true)
  · exact next_congr (optionLoading_runs hl hs smba false)
  · exact next_congr (factorReady_cold h hr)
  · exact next_congr (factorResume_warm h hr)

/-! ## The SMBus endpoint -/

theorem smbusRead_mapped {s : State} {a : BitVec 7} {cmd : Byte} {off : Nat} (ha : smbusAcks s a = true) (hr : smbusReg cmd.toNat = some off) :
    smbusRead s a cmd false true = smcMod s fun m => { m with acked := true, reply := (4 :: leBytes 4 (regRead s off).toNat) ++
      [pecOf ([BitVec.ofNat 8 (a.toNat * 2), cmd, BitVec.ofNat 8 (a.toNat * 2) + 1] ++ (4 :: leBytes 4 (regRead s off).toNat))] } := by
  simp only [smbusRead, ha, hr, Bool.not_true, Bool.false_eq_true, if_false]

theorem smbusRead_badPec {s : State} {a : BitVec 7} (ha : smbusAcks s a = true) (cmd : Byte) (w : Bool) :
    smbusRead s a cmd w false = smcMod s fun m => { m with pecErr := satAdd m.pecErr 1, acked := false, reply := [] } := by
  simp only [smbusRead, ha, Bool.not_true, Bool.not_false, Bool.false_eq_true, if_false, if_true]

theorem smbusRead_refused {s : State} {a : BitVec 7} {cmd : Byte} {w : Bool} (ha : smbusAcks s a = true) (h : smbusReg cmd.toNat = none ∨ w = true) :
    smbusRead s a cmd w true = smbusNack s cmd w := by
  simp only [smbusRead, ha, Bool.not_true, Bool.false_eq_true, if_false]
  split
  · rename_i hr
    rw [h.resolve_left (by rw [hr]; exact Option.some_ne_none _), if_pos rfl]
  · rfl

theorem smbusMctp_acked {s : State} {a : BitVec 7} (ha : smbusAcks s a = true) (e : Option Byte) :
    smbusMctp s a e true = smcMod s fun m => { m with acked := true, reply := [], eid := e.getD m.eid } := by
  simp only [smbusMctp, ha, Bool.not_true, Bool.false_eq_true, if_false]

theorem smbusMctp_badPec {s : State} {a : BitVec 7} (ha : smbusAcks s a = true) (e : Option Byte) :
    smbusMctp s a e false = smcMod s fun m => { m with pecErr := satAdd m.pecErr 1, acked := false, reply := [] } := by
  simp only [smbusMctp, ha, Bool.not_true, Bool.not_false, Bool.false_eq_true, if_false, if_true]

/-- Settles O20. -/
theorem smbusEndpointAnswers : Obligations.SmbusEndpointAnswers :=
  ⟨fun _ _ _ _ ha hr => next_congr (smbusRead_mapped ha hr), fun _ _ cmd w ha => next_congr (smbusRead_badPec ha cmd w),
    fun _ _ _ _ ha h => next_congr (smbusRead_refused ha h),
    fun _ _ e ha => ⟨next_congr (smbusMctp_acked ha (some e)), next_congr (smbusMctp_acked ha none), fun x => next_congr (smbusMctp_badPec ha x)⟩,
    fun _ haddr hst hs => next_congr (if_pos ⟨haddr, hst, hs⟩), fun _ hst => next_congr (if_pos ⟨hst, rfl⟩)⟩

end Sys2Proof.Machine
end

section
/-! PROOFS. Mailbox messages (R353–R365, R385, R390, R404, R408, R451–R453, R457, R515): what the Factor answers and does. -/

namespace Sys2Proof.Machine

/-! ## The outbound ring and refusals -/

theorem getMb_modMb_same (s : State) (p : Mb) (f : MbPage → MbPage) : getMb (modMb s p f) p = f (getMb s p) := by
  rw [getMb_modMb, if_pos ⟨rfl, p.isLt⟩]

theorem signalMb_silent {s : State} {mb : Nat} (h : (getMb s mb).irqEn = false) : signalMb s mb = s := by
  unfold signalMb
  dsimp only
  rw [h, if_pos (by decide)]

/-- A message for which nothing goes first enters the ring. -/
theorem sendOut_writes {s : State} {mb : Nat} (hfull : outFull (getMb s mb) = false) (hheld : (getMb s mb).held = []) (hold : owesOld (getMb s mb) = false)
    (hup : s.fac.up = true) (m : List Word) : sendOut s mb m = writeOut s mb m := by
  rw [sendOut, hfull, hheld, hold, hup, if_neg (by decide)]

theorem writeOut_silent {s : State} {mb : Mb} (h : (getMb s mb).irqEn = false) (m : List Word) : writeOut s mb m =
    modMb s mb fun p => { p with outRing := ssetRun 0 p.outRing ((getMb s mb).outPi.toNat % 64 * 16) ((m ++ List.replicate 16 0).take 16)
                                 outPi := p.outPi + 1 } := by
  rw [writeOut, signalMb_silent]
  rw [getMb_modMb_same]
  exact h

theorem exec_refused {s : State} {mb : Mb} {op : Nat} {act : State → List Word → State} {i : Instr} (hi : exec i s = .next (takeMsg s mb op act))
    (hp : msgPosted s mb = true) (hs : entryStatus s mb (msgAt s mb) ≠ stOk) (hop : msgOpcode (msgAt s mb) = op) :
    exec i s = .next (refuseMsg (commitMsg s mb) mb (msgAt s mb) (entryStatus s mb (msgAt s mb))) := by
  rw [hi, takeMsg_refused s mb op act hp hop hs]

theorem exec_accepted {s : State} {mb : Mb} {op : Nat} {act : State → List Word → State} {i : Instr} (hi : exec i s = .next (takeMsg s mb op act))
    (h : Accepted s mb op) {t : State} (ht : act (taken s mb) (msgAt s mb) = t) : exec i s = .next t := by
  rw [hi, takeMsg_accepted s mb op act h, ht]

theorem refuseMsg_malformed (s : State) (mb : Nat) (w : List Word) : refuseMsg s mb w stBadFormat =
    reply (granRelease (granHold s []) []) mb (BitVec.ofNat 8 (msgOpcode w)) (BitVec.ofNat 8 (msgSeq w)) stBadFormat [] := by
  unfold refuseMsg
  rw [if_pos rfl]

theorem refuseMsg_formed {st : Byte} (h : st ≠ stBadFormat) (s : State) (mb : Nat) (w : List Word) : refuseMsg s mb w st =
    reply (granRelease (granHold s (ownGrans s mb w)) (ownGrans s mb w)) mb (BitVec.ofNat 8 (msgOpcode w)) (BitVec.ofNat 8 (msgSeq w)) st [] := by
  unfold refuseMsg
  rw [if_neg h]

theorem undefinedMsg_posted {s : State} {mb : Mb} (hp : msgPosted s mb = true) (hop : opMasks (msgOpcode (msgAt s mb)) = none) : undefinedMsg s mb =
    sendOut (commitMsg s mb) mb
      [packWord [(msgOpcode (msgAt s mb), 0, 8), (msgSeq (msgAt s mb), 8, 8), (mb.val, 16, 5), (0, 21, 4), (1, 25, 1)], statusWord stBadFormat 0 0] := by
  unfold undefinedMsg
  dsimp only
  rw [hp, hop, if_pos (by decide)]

/-- Settles O9: the Factor takes every message in one frame, which refuses it before its opcode is acted on. -/
theorem messagesAreAnswered : Obligations.MessagesAreAnswered := by
  refine ⟨fun s mb op seq st payload hfull hheld hold hup hirq => ?_, fun s mb pf pt ok hp hs => ?_, fun s mb w st => ⟨fun h => ?_, fun h => ?_⟩,
    fun s mb hp hop => next_congr (undefinedMsg_posted hp hop)⟩
  · rw [reply, sendOut_writes hfull hheld hold hup, writeOut_silent hirq]
  · have refused {i : Instr} {op : Nat} {act : State → List Word → State} (hi : exec i s = .next (takeMsg s mb op act)) := exec_refused hi hp hs
    simp only [List.forall_mem_cons, List.not_mem_nil, false_implies, implies_true, and_true]
    exact ⟨refused rfl, refused rfl, refused rfl, refused rfl, refused rfl, refused rfl, refused rfl, refused rfl, refused rfl, refused rfl, refused rfl,
      refused rfl, refused rfl, refused rfl, refused rfl, refused rfl, refused rfl, refused rfl, refused rfl, refused rfl, refused rfl⟩
  · exact refuseMsg_formed h s mb w
  · rw [h, refuseMsg_malformed]

/-! ## Queries -/

theorem head?_seq (l : List Finding) (d : Word) : (match l.head? with | some f => f.seq | none => d) = (l.map Finding.seq).headD d := by
  cases l <;> rfl

/-- Settles O10: each query is accepted and answered. -/
theorem queriesAreAnswered : Obligations.QueriesAreAnswered := by
  refine ⟨⟨fun s mb h => exec_accepted rfl h rfl, fun s mb h => exec_accepted rfl h rfl, fun s mb h => exec_accepted rfl h rfl⟩,
    fun s mb h => exec_accepted rfl h rfl, fun s mb h => ?_⟩
  dsimp only
  simp only [← head?_seq]
  exact exec_accepted rfl h rfl

end Sys2Proof.Machine
end

section
/-! PROOFS. Mailbox messages that act (R361, R362, R385, R390, R404, R405, R408, R451–R453, R457, R515). -/

namespace Sys2Proof.Machine

/-! ## POWER_HINT, DEBUG_CONSENT, RELEASE and RESET_ENGAGEMENT -/

/-- The hint of POWER_HINT and its time are stored, and the target is chosen anew (R515). -/
def hinted (s : State) (w : List Word) : State :=
  retarget { s with pwr := { s.pwr with hint := BitVec.ofNat 2 (bitsOf (wordAt w 1) 0 2)
                                        hintMs := if bitsOf (wordAt w 1) 0 2 = 0 then 0 else wordOf (wordAt w 2) } }

theorem exec_powerHint {s : State} {mb : Mb} (h : Accepted s mb 0x60) : exec (.powerHint mb) s = .next
    (if bitsOf (wordAt (msgAt s mb) 1) 0 2 = 3 then answered s (taken s mb) mb stBadFormat []
    else answered s (if bitsOf (wordAt (msgAt s mb) 1) 0 2 = 2 then leaveHalt (hinted (taken s mb) (msgAt s mb)) 6
      else hinted (taken s mb) (msgAt s mb)) mb stOk []) := exec_accepted rfl h rfl

/-- Consent given or withdrawn for the scopes of a mask (R457). -/
def consented (s : State) (m : BitVec 4) (grant : Bool) : State :=
  { s with cus := { s.cus with scopes := if grant then s.cus.scopes ||| m else s.cus.scopes &&& ~~~m
                               grants := if grant then s.cus.grants + 1 else s.cus.grants
                               consentBeat := beat200 s } }

theorem exec_debugConsent {s : State} {mb : Mb} (h : Accepted s mb 0x70) : exec (.debugConsent mb) s = .next
    (if !tenantRights (taken s mb) mb || decide (16 ≤ wordAt (msgAt s mb) 1) then answered s (taken s mb) mb stPolicy []
    else answered s (consented (taken s mb) (BitVec.ofNat 4 (wordAt (msgAt s mb) 1)) (bitOf (wordAt (msgAt s mb) 2) 0)) mb stOk [6]) :=
  exec_accepted rfl h rfl

theorem consented_eq (s : State) (m : BitVec 4) (grant : Bool) : consented s m grant =
    if grant then { s with cus := { s.cus with scopes := s.cus.scopes ||| m, grants := s.cus.grants + 1, consentBeat := beat200 s } }
    else { s with cus := { s.cus with scopes := s.cus.scopes &&& ~~~m, consentBeat := beat200 s } } := by
  cases grant <;> rfl

/-- The engagement of a RELEASE: its consignments are aborted, its programming stopped, the message recorded and its mailboxes unbound (R390). -/
def releasing (s : State) (mb : Mb) (w : List Word) : State :=
  modEng (pushRec (stopEngProgramming (abortCons s (engField w)) (engField w)) mb w { opcode := 0, seq := 0, eng := engField w, grans := [] }) (engField w)
    fun g => { g with bound := 0 }

/-- The itineraries of an engagement are marked to leave at the swap beat that is named (R278, R390). -/
def itinsLeave (s : State) (e : Nat) : State :=
  nameSwap (modEng { s with cores := s.cores.map fun c =>
      { c with itins := c.itins.map fun i => if i.eng.val = e then { i with remove := true } else i } } e fun g =>
        { g with nextSt := some .free }) e (swapBeat s (getEng s e).route)

theorem exec_release {s : State} {mb : Mb} (h : Accepted s mb 0x03) : exec (.release mb) s = .next
    (if hasItins (releasing (taken s mb) mb (msgAt s mb)) (engField (msgAt s mb)) then
      itinsLeave (releasing (taken s mb) mb (msgAt s mb)) (engField (msgAt s mb))
    else finishRelease (releasing (taken s mb) mb (msgAt s mb)) (engField (msgAt s mb))) :=
  exec_accepted rfl h (by unfold releasing itinsLeave; with_reducible rfl)

/-- Settles O11. -/
theorem hintsConsentAndReleases : Obligations.HintsConsentAndReleases := by
  refine ⟨fun s mb h => ⟨fun h2 => ?_, fun h2 => ?_, fun h3 => ?_⟩, fun s mb h => ⟨fun ht hm => ?_, fun hr => ?_⟩,
    fun s mb h => ⟨fun hi => ?_, fun hi => ?_⟩, fun s mb h => exec_accepted rfl h rfl⟩
  · rw [exec_powerHint h, if_neg (by omega), if_neg (by omega)]
    rfl
  · rw [exec_powerHint h, if_neg (by omega), if_pos h2]
    rfl
  · rw [exec_powerHint h, if_pos h3]
  · rw [exec_debugConsent h, ht, decide_eq_false (by omega), if_neg (by decide), consented_eq]
  · rw [exec_debugConsent h, if_pos]
    rcases hr with hr | hr
    · rw [hr]; rfl
    · rw [decide_eq_true hr, Bool.or_true]
  · rw [exec_release h]
    exact next_congr (if_neg (ne_true_of_eq_false hi))
  · rw [exec_release h]
    exact next_congr (if_pos hi)

/-! ## SUBMIT and CANCEL -/

theorem exec_submit {s : State} {mb : Mb} (h : Accepted s mb 0x20) : exec (.submit mb) s = .next
    (if wordAt (msgAt s mb) 7 = 0 then answered s (taken s mb) mb stBadFormat []
    else if submitState (taken s mb) (engField (msgAt s mb)) ≠ stOk then answered s (taken s mb) mb (submitState (taken s mb) (engField (msgAt s mb))) []
    else match freeQSlot (getMb (taken s mb) mb).queue with
      | none => answered s (taken s mb) mb stFull []
      | some q =>
        reply { modMb (taken s mb) mb (fun p => { p with queue := sput p.queue q (queueEntry (taken s mb) mb (msgAt s mb)) }) with
          order := (taken s mb).order + 1 } mb 0x20 (queueEntry (taken s mb) mb (msgAt s mb)).seq stOk
          [packWord [(q, 0, 8), ((queueEntry (taken s mb) mb (msgAt s mb)).qepoch.toNat, 8, 8), ((queueEntry (taken s mb) mb (msgAt s mb)).pos, 16, 9)]]) :=
  exec_accepted rfl h rfl

/-- An engagement that takes none answers a SUBMIT with the status of its state. -/
theorem exec_submit_refused {s : State} {mb : Mb} {st : Byte} (h : Accepted s mb 0x20) (hn : wordAt (msgAt s mb) 7 ≠ 0)
    (hst : submitState (taken s mb) (engField (msgAt s mb)) = st) (hs : st ≠ stOk) : exec (.submit mb) s = .next (answered s (taken s mb) mb st []) := by
  rw [exec_submit h, if_neg hn, hst, if_pos hs]

theorem submitState_takes {s : State} {e : Nat} (h : (getEng s e).st = .ready ∨ (getEng s e).st = .shadow ∨
    ((getEng s e).st = .suspended ∧ ((getEng s e).takeover ∨ (getEng s e).replacing))) : submitState s e = stOk := by
  rcases h with h | h | ⟨h, hr⟩
  · simp only [submitState, h]
  · simp only [submitState, h]
  · rcases hr with hr | hr <;> simp [submitState, h, hr]

theorem submitState_fenced {s : State} {e : Nat} (h : (getEng s e).st = .placing ∨ (getEng s e).st = .loading ∨
    ((getEng s e).st = .suspended ∧ (getEng s e).takeover = false ∧ (getEng s e).replacing = false) ∨
    ((getEng s e).st = .resident ∧ anySealed s e = false)) : submitState s e = stFenced := by
  rcases h with h | h | ⟨h, ht, hr⟩ | ⟨h, hs⟩
  · simp only [submitState, h]
  · simp only [submitState, h]
  · simp [submitState, h, ht, hr]
  · simp [submitState, h, hs]

/-- CANCEL: what becomes of the consignment in an entry (R362). -/
def cancelled (s : State) (mb q epoch : Nat) : State :=
  match getQ s mb q with
  | some e =>
    if e.qepoch.toNat ≠ epoch ∨ e.st = .ended then s
    else if e.st = .queued then endCons s mb q stOk
    else modQ s mb q fun e => { e with cancelled := true }
  | none => s

theorem exec_cancel {s : State} {mb : Mb} (h : Accepted s mb 0x21) : exec (.cancel mb) s = .next
    (answered s (cancelled (taken s mb) mb (bitsOf (wordAt (msgAt s mb) 1) 0 8) (bitsOf (wordAt (msgAt s mb) 1) 8 8)) mb stOk []) :=
  exec_accepted rfl h rfl

theorem cancelled_queued {s : State} {mb q epoch : Nat} {x : QEntry} (hx : getQ s mb q = some x) (he : x.qepoch.toNat = epoch) (hs : x.st = .queued) :
    cancelled s mb q epoch = endCons s mb q stOk := by
  simp [cancelled, hx, he, hs]

theorem cancelled_started {s : State} {mb q epoch : Nat} {x : QEntry} (hx : getQ s mb q = some x) (he : x.qepoch.toNat = epoch) (hs : x.st = .started) :
    cancelled s mb q epoch = modQ s mb q fun y => { y with cancelled := true } := by
  simp [cancelled, hx, he, hs]

theorem cancelled_none {s : State} {mb q epoch : Nat}
    (h : getQ s mb q = none ∨ ∃ x, getQ s mb q = some x ∧ (x.st = .ended ∨ x.qepoch.toNat ≠ epoch)) : cancelled s mb q epoch = s := by
  rcases h with h | ⟨x, hx, h⟩
  · simp only [cancelled, h]
  · simp only [cancelled, hx, h.symm, if_true]

/-- Settles O12. -/
theorem consignmentsAreQueuedAndCancelled : Obligations.ConsignmentsAreQueuedAndCancelled := by
  refine ⟨fun s mb h => ⟨fun hn => ?_, fun hn hst => ?_, fun hn => ⟨fun hst => ?_, fun hst => ?_, fun hst hs => ?_⟩⟩,
    fun s mb h => ⟨fun x hx he => ⟨fun hs => ?_, fun hs => ?_⟩, fun hq => ?_⟩⟩
  · rw [exec_submit h, if_pos hn]
  · rw [exec_submit h, if_neg hn, submitState_takes hst, if_neg (fun k => k rfl)]
    rfl
  · exact exec_submit_refused h hn (by simp only [submitState, hst]) (by decide)
  · exact exec_submit_refused h hn (submitState_fenced hst) (by decide)
  · exact exec_submit_refused h hn (by simp only [submitState, hst, hs, if_true]) (by decide)
  · rw [exec_cancel h, cancelled_queued hx he hs]
  · rw [exec_cancel h, cancelled_started hx he hs]
  · rw [exec_cancel h, cancelled_none hq]

/-! ## SEAL, UNSEAL and ERASE_DECKS -/

theorem exec_eraseDecks {s : State} {mb : Mb} {all : Bool} {ks : List Nat} (h : Accepted s mb 0x14) (hall : bitOf (wordAt (msgAt s mb) 1) 8 = all)
    (hks : (if all then allErasable (taken s mb) else engDeckKeys (taken s mb) (engField (msgAt s mb))) = ks) : exec (.eraseDecks mb) s = .next
    (if all ∧ mb.val ≠ 16 then answered s (taken s mb) mb stPolicy []
    else if !all && ((getEng (taken s mb) (engField (msgAt s mb))).st != .resident || ks.any fun k => !deckOpen (getDeck (taken s mb) k)) then
      answered s (taken s mb) mb stPolicy []
    else if ks.any fun k => deckBusy (getDeck (taken s mb) k) then answered s (taken s mb) mb stBusy []
    else if ks.isEmpty then answered s (taken s mb) mb stOk [0, 0]
    else pushRec (forEach ks (taken s mb) queueErase) mb (msgAt s mb)
      { opcode := 0, seq := 0, eng := if all then 64 else engField (msgAt s mb), grans := [], decks := ks }) := by
  subst hall hks
  exact exec_accepted rfl h rfl

/-- ERASE_DECKS may erase every erasable deck for the privileged mailbox, or the open decks of a RESIDENT engagement (R453). -/
def EraseAllowed (s : State) (mb : Mb) (all : Bool) (e : Nat) (ks : List Nat) : Prop :=
  (all = true ∧ mb.val = 16) ∨ (all = false ∧ (getEng s e).st = .resident ∧ ∀ k ∈ ks, deckOpen (getDeck s k) = true)

section
variable {s : State} {mb : Mb} {all : Bool} {ks : List Nat} (h : Accepted s mb 0x14) (hall : bitOf (wordAt (msgAt s mb) 1) 8 = all)
  (hks : (if all then allErasable (taken s mb) else engDeckKeys (taken s mb) (engField (msgAt s mb))) = ks)
include h hall hks

theorem exec_eraseDecks_refused (hr : ¬EraseAllowed (taken s mb) mb all (engField (msgAt s mb)) ks) :
    exec (.eraseDecks mb) s = .next (answered s (taken s mb) mb stPolicy []) := by
  rw [exec_eraseDecks h hall hks]
  cases all with
  | true => rw [if_pos ⟨rfl, fun h16 => hr (.inl ⟨rfl, h16⟩)⟩]
  | false =>
    rw [if_neg (fun k => Bool.noConfusion k.1), if_pos]
    rw [Bool.not_false, Bool.true_and, Bool.or_eq_true_iff, bne_iff_ne, List.any_eq_true]
    by_cases hres : (getEng (taken s mb) (engField (msgAt s mb))).st = .resident
    · refine .inr (Decidable.byContradiction fun hopen => hr (.inr ⟨rfl, hres, fun k hk => ?_⟩))
      cases ho : deckOpen (getDeck (taken s mb) k) with
      | true => rfl
      | false => exact absurd ⟨k, hk, by rw [ho]; rfl⟩ hopen
    · exact .inl hres

theorem exec_eraseDecks_allowed (hr : EraseAllowed (taken s mb) mb all (engField (msgAt s mb)) ks) : exec (.eraseDecks mb) s = .next
    (if ks.any fun k => deckBusy (getDeck (taken s mb) k) then answered s (taken s mb) mb stBusy []
    else if ks.isEmpty then answered s (taken s mb) mb stOk [0, 0]
    else pushRec (forEach ks (taken s mb) queueErase) mb (msgAt s mb)
      { opcode := 0, seq := 0, eng := if all then 64 else engField (msgAt s mb), grans := [], decks := ks }) := by
  rw [exec_eraseDecks h hall hks]
  rcases hr with ⟨rfl, h16⟩ | ⟨rfl, hres, hopen⟩
  · rw [if_neg (fun k => k.2 h16), if_neg (by rw [Bool.not_true, Bool.false_and]; exact Bool.false_ne_true)]
  · have hno : (ks.any fun k => !deckOpen (getDeck (taken s mb) k)) = false := List.any_eq_false.mpr fun k hk => by rw [hopen k hk]; decide
    rw [if_neg (fun k => Bool.noConfusion k.1), hno, hres, if_neg (by decide)]

end

theorem exec_fenceCore {s : State} {mb : Mb} (h : Accepted s mb 0x40) : exec (.fenceCore mb) s = .next
    (if isFenced (taken s mb) (bitsOf (wordAt (msgAt s mb) 1) 0 5) then answered s (taken s mb) mb stOk []
    else if fenceBusy (taken s mb) then answered s (taken s mb) mb stBusy []
    else pushRec (taken s mb) mb (msgAt s mb) { opcode := 0, seq := 0, eng := bitsOf (wordAt (msgAt s mb) 1) 0 5, grans := [] }) := exec_accepted rfl h rfl

theorem exec_seal {s : State} {mb : Mb} {ks : List Nat} (h : Accepted s mb 0x12) (hks : engDeckKeys (taken s mb) (engField (msgAt s mb)) = ks) :
    exec (.seal mb) s = .next
    (if ks.any fun k => deckBusy (getDeck (taken s mb) k) then answered s (taken s mb) mb stBusy []
    else answered s (markDecks (forEach (ks.filter fun k => deckDone (getDeck (taken s mb) k) && deckPublic (getDeck (taken s mb) k)) (taken s mb)
        fun s k => modDeck s k fun d => { d with opened := true }) (ks.filter fun k => deckDone (getDeck (taken s mb) k) && deckPublic (getDeck (taken s mb) k)))
      mb stOk [wordOf (ks.filter fun k => deckDone (getDeck (taken s mb) k) && deckPublic (getDeck (taken s mb) k)).length]) := by
  subst hks
  exact exec_accepted rfl h rfl

theorem exec_unseal {s : State} {mb : Mb} {ks : List Nat} (h : Accepted s mb 0x13) (hks : engDeckKeys (taken s mb) (engField (msgAt s mb)) = ks) :
    exec (.unseal mb) s = .next
    (if ks.any fun k => !deckOpen (getDeck (taken s mb) k) then answered s (taken s mb) mb stSealed []
    else if (ks.filter fun k => deckDone (getDeck (taken s mb) k) && !deckPublic (getDeck (taken s mb) k)).any fun k => 32 ≤ (getDeck (taken s mb) k).marks then
      answered s (taken s mb) mb stPolicy []
    else answered s (markDecks (taken s mb) (ks.filter fun k => deckDone (getDeck (taken s mb) k) && !deckPublic (getDeck (taken s mb) k))) mb stOk
      [wordOf (ks.filter fun k => deckDone (getDeck (taken s mb) k) && !deckPublic (getDeck (taken s mb) k)).length]) := by
  subst hks
  exact exec_accepted rfl h rfl

/-- Settles O13. -/
theorem deckMessages : Obligations.DeckMessages := by
  refine ⟨⟨fun s mb h => ⟨fun hb => ?_, fun hb => ?_⟩, fun s mb h => ⟨fun ho => ?_, fun ho => ⟨fun hm => ?_, fun hm => ?_⟩⟩⟩,
    fun s mb h => ⟨fun hr => ?_, fun hr hb => ?_, fun hr hb => ⟨fun hnil => ?_, fun hnil => ?_⟩⟩, fun s mb h hf hb => ?_⟩
  · exact (exec_seal h rfl).trans (next_congr (if_neg (ne_true_of_eq_false hb)))
  · exact (exec_seal h rfl).trans (next_congr (if_pos hb))
  · exact (exec_unseal h rfl).trans (next_congr (if_pos ho))
  · exact (exec_unseal h rfl).trans (next_congr ((if_neg (ne_true_of_eq_false ho)).trans (if_neg (ne_true_of_eq_false hm))))
  · exact (exec_unseal h rfl).trans (next_congr ((if_neg (ne_true_of_eq_false ho)).trans (if_pos hm)))
  · exact exec_eraseDecks_refused h rfl rfl hr
  · obtain ⟨k, hk, hbusy⟩ := hb
    exact (exec_eraseDecks_allowed h rfl rfl hr).trans (next_congr (if_pos (List.any_eq_true.mpr ⟨k, hk, hbusy⟩)))
  · exact (exec_eraseDecks_allowed h rfl rfl hr).trans (next_congr ((if_neg (by
      rw [List.any_eq_true]; rintro ⟨k, hk, hbusy⟩; exact Bool.noConfusion ((hb k hk).symm.trans hbusy))).trans (if_pos (List.isEmpty_iff.mpr hnil))))
  · exact (exec_eraseDecks_allowed h rfl rfl hr).trans (next_congr ((if_neg (by
      rw [List.any_eq_true]; rintro ⟨k, hk, hbusy⟩; exact Bool.noConfusion ((hb k hk).symm.trans hbusy))).trans
        (if_neg (fun hempty => hnil (List.isEmpty_iff.mp hempty)))))
  · rw [exec_fenceCore h, hf, hb, if_neg Bool.false_ne_true, if_neg Bool.false_ne_true]

end Sys2Proof.Machine
end

section
/-! PROOFS. Fences, takeovers and the return of a core (R398–R405, R411). -/

namespace Sys2Proof.Machine

/-! ## FENCE_CORE and UNFENCE_CORE -/

theorem bitVec4_four {x : BitVec 4} : x.toNat = 4 ↔ x = 4 := ⟨fun h => BitVec.eq_of_toNat_eq h, fun h => by rw [h]; rfl⟩

theorem mapFenced_of_fenced {m : LdgEntry} (h : m.fenced = true) : mapFenced m = true := by rw [mapFenced, h, Bool.true_or]

/-- What UNFENCE_CORE does of a core that may return: no placement is computed, LDG_MAP reads FENCED, it is not locked out and passes its check. -/
def returned (s t : State) (mb : Mb) (w : List Word) (c : Nat) : State :=
  if (vget {} t.ldg.map c).fenced then
    if (strandedEngs (returnCore t c) c).all fun e => (getEng (returnCore t c) e).swapAt.isNone then answered s (returnCore t c) mb stOk []
    else pushRec (returnCore t c) mb w { opcode := 0, seq := 0, eng := c, grans := [] }
  else
    match (vget {} t.ldg.map c).failed with
    | p :: r =>
      let t1 := mapMod t c fun m => { m with failed := r, cause := if r.isEmpty then 0 else m.cause }
      answered s (saveCoreMap { t1 with ldg := { t1.ldg with spares := sortBy id (p :: t1.ldg.spares) } }) mb stOk []
    | [] => answered s t mb stOk []

theorem exec_unfenceCore {s : State} {mb : Mb} {ok : Bool} {c : Nat} {m : LdgEntry} (h : Accepted s mb 0x41) (hc : bitsOf (wordAt (msgAt s mb) 1) 0 5 = c)
    (hm : vget {} (taken s mb).ldg.map c = m) : exec (.unfenceCore mb ok) s = .next
    (if fenceBusy (taken s mb) then answered s (taken s mb) mb stBusy []
    else if !mapFenced m then answered s (taken s mb) mb stOk []
    else if m.cause.toNat = 4 then answered s (taken s mb) mb stFenced []
    else if !ok then answered s (mapMod (taken s mb) c fun m => { m with cause := 6 }) mb stFenced []
    else returned s (taken s mb) mb (msgAt s mb) c) := by
  subst hc hm
  exact exec_accepted rfl h rfl

/-- Settles O23: UNFENCE_CORE goes through its checks in order. -/
theorem coresReturnToService : Obligations.CoresReturnToService := by
  intro s mb ok h
  refine ⟨fun hb => ?_, fun hb => ⟨fun hf => ?_, fun hf h4 => ?_, fun hf h4 hok => ?_, fun hf h4 hok => ?_, fun p r hf hfn h4 hok hfail => ?_⟩⟩
  · exact (exec_unfenceCore h rfl rfl).trans (next_congr (if_pos hb))
  · rw [exec_unfenceCore h rfl rfl, if_neg (ne_true_of_eq_false hb), hf, if_pos (by decide)]
  · rw [exec_unfenceCore h rfl rfl, if_neg (ne_true_of_eq_false hb), hf, if_neg (by decide), if_pos (bitVec4_four.mpr h4)]
  · rw [exec_unfenceCore h rfl rfl, if_neg (ne_true_of_eq_false hb), hf, if_neg (by decide), if_neg (fun k => h4 (bitVec4_four.mp k)), hok, if_pos (by decide)]
  · rw [exec_unfenceCore h rfl rfl, if_neg (ne_true_of_eq_false hb), mapFenced_of_fenced hf, if_neg (by decide), if_neg (fun k => h4 (bitVec4_four.mp k)), hok,
      if_neg (by decide), returned, if_pos hf]
  · rw [exec_unfenceCore h rfl rfl, if_neg (ne_true_of_eq_false hb), hf, if_neg (by decide), if_neg (fun k => h4 (bitVec4_four.mp k)), hok, if_neg (by decide),
      returned, if_neg (ne_true_of_eq_false hfn), hfail]

/-- Settles O57. -/
theorem fencedCoresAnswerAtOnce : Obligations.FencedCoresAnswerAtOnce := by
  refine fun s mb => ⟨fun h => ⟨fun hf => ?_, fun hf hb => ?_⟩, fun h hb ok => ?_⟩
  · exact (exec_fenceCore h).trans (next_congr (if_pos hf))
  · exact (exec_fenceCore h).trans (next_congr ((if_neg (ne_true_of_eq_false hf)).trans (if_pos hb)))
  · exact (exec_unfenceCore h rfl rfl).trans (next_congr (if_pos hb))

/-! ## The fence

After the core has stopped and LDG_MAP names its fence, every later step of R400 keeps both. -/

/-- The core map is `map`, and physical core `p` does not run and has no stop. -/
structure StoppedUnder (map : Vector LdgEntry 32) (p : Nat) (s : State) : Prop where
  map : s.ldg.map = map
  running : (getCore s p).running = false
  stops : (getCore s p).stops = 0

/-- A change of a core that keeps a stopped core stopped. -/
def KeepsStopped (f : Core → Core) : Prop := ∀ c, c.running = false → c.stops = 0 → (f c).running = false ∧ (f c).stops = 0

namespace StoppedUnder
variable {map : Vector LdgEntry 32} {p : Nat} {s t : State}

theorem of_eq (h : StoppedUnder map p s) (hl : t.ldg.map = s.ldg.map) (hc : t.cores = s.cores) : StoppedUnder map p t := by
  have hp : getCore t p = getCore s p := by rw [getCore, hc, getCore]
  exact ⟨hl.trans h.map, hp ▸ h.running, hp ▸ h.stops⟩

theorem of_mailboxOnly (h : StoppedUnder map p s) (k : MailboxOnly s t) : StoppedUnder map p t := h.of_eq (congrArg Ldg.map k.ldg) k.cores

theorem modEng (h : StoppedUnder map p s) (e : Nat) (f : Eng → Eng) : StoppedUnder map p (modEng s e f) := h.of_eq rfl rfl

theorem modCore (h : StoppedUnder map p s) (q : Nat) {f : Core → Core} (hf : KeepsStopped f) : StoppedUnder map p (modCore s q f) := by
  have hkept : (getCore (Machine.modCore s q f) p).running = false ∧ (getCore (Machine.modCore s q f) p).stops = 0 := by
    rw [getCore_modCore]
    split
    · rename_i hq
      exact hf _ (hq.1 ▸ h.running) (hq.1 ▸ h.stops)
    · exact ⟨h.running, h.stops⟩
  exact ⟨h.map, hkept.1, hkept.2⟩

theorem mapCores (h : StoppedUnder map p s) {f : Core → Core} (hf : KeepsStopped f) : StoppedUnder map p { s with cores := s.cores.map f } := by
  have hkept : (getCore { s with cores := s.cores.map f } p).running = false ∧ (getCore { s with cores := s.cores.map f } p).stops = 0 := by
    have hr := h.running
    have hs := h.stops
    by_cases hp : p < 34
    · simp only [getCore, vget, hp, dif_pos, Vector.getElem_map] at hr hs ⊢
      exact hf _ hr hs
    · simp [getCore, vget, hp]
  exact ⟨h.map, hkept.1, hkept.2⟩

theorem wsWrite (h : StoppedUnder map p s) (q a : Nat) (bs : List MByte) : StoppedUnder map p (wsWrite s q a bs) :=
  h.of_eq (forEach_keeps (fun s => s.ldg.map) wsPutChunk (fun _ _ => rfl) _ s) (forEach_keeps State.cores wsPutChunk (fun _ _ => rfl) _ s)

theorem forEach {α : Type} {f : State → α → State} (hf : ∀ s a, StoppedUnder map p s → StoppedUnder map p (f s a)) (h : StoppedUnder map p s) (l : List α) :
    StoppedUnder map p (forEach l s f) := forEach_preserves _ f hf l s h

theorem nameSwap (h : StoppedUnder map p s) (e x : Nat) : StoppedUnder map p (nameSwap s e x) :=
  (h.modEng e fun g => { g with swapAt := some (BitVec.ofNat 64 x) }).mapCores fun c hr hs => by split <;> exact ⟨hr, hs⟩

theorem writeImages (h : StoppedUnder map p s) (e : Nat) (pl : Plan) : StoppedUnder map p (writeImages s e pl) := by
  unfold Machine.writeImages
  exact .forEach (fun _ _ hs => hs.wsWrite _ _ _) h _

/-- A core with no stop does not run when it is given an itinerary (R305). -/
theorem loadStandby (h : StoppedUnder map p s) (e : Fin 64) (pl : Plan) : StoppedUnder map p (loadStandby s e pl) := by
  unfold Machine.loadStandby
  dsimp only
  refine .forEach ?_ (h.mapCores ?_) _
  · intro s it hs
    refine hs.modCore _ fun c hr h0 => ?_
    split
    · exact ⟨hr, h0⟩
    · exact ⟨by simp [Core.dead, h0], h0⟩
  · exact fun c hr h0 => ⟨hr, h0⟩

theorem addPages (h : StoppedUnder map p s) (e : Nat) (pl : Plan) : StoppedUnder map p (addPages s e pl) := by
  unfold Machine.addPages
  refine .forEach ?_ h _
  exact fun s q hs => hs.modCore q fun c hr h0 => ⟨hr, h0⟩

theorem putHistories (h : StoppedUnder map p s) (hs : List ((Nat × Nat) × List Byte)) : StoppedUnder map p (putHistories s hs) := by
  unfold Machine.putHistories
  exact .forEach (fun _ _ k => k.wsWrite _ _ _) h _

theorem replayEng (h : StoppedUnder map p s) (e : Nat) : StoppedUnder map p (replayEng s e) := by
  unfold Machine.replayEng restoreHist
  exact ((StoppedUnder.forEach (fun s x hs => hs.of_mailboxOnly (modQ_mailboxOnly ..)) h _).modEng _ _).putHistories _

theorem degradeEng (h : StoppedUnder map p s) (plans : List (Fin 64 × Plan)) (spare : Bool) (e : Nat) : StoppedUnder map p (degradeEng plans spare s e) := by
  unfold Machine.degradeEng
  have hreplay := (h.modEng e fun g => { g with live0 := true, takeover := spare, replacing := false, pShadow := 0, shadowPlan := none }).replayEng e
  dsimp only
  split
  · exact ((((hreplay.addPages _ _).writeImages _ _).loadStandby _ _).modEng _ _).nameSwap _ _
  · exact hreplay.modEng _ _

theorem withdrawSwap (h : StoppedUnder map p s) (e : Nat) : StoppedUnder map p (withdrawSwap s e) := by
  unfold Machine.withdrawSwap
  dsimp only
  split
  · exact (h.modEng e _).mapCores fun c hr h0 => ⟨hr, h0⟩
  · exact h

theorem endStranded (h : StoppedUnder map p s) (c e : Nat) : StoppedUnder map p (endStranded s c e) := by
  unfold Machine.endStranded
  have hnote : StoppedUnder map p (if (getEng s e).decks.any fun lg => lg / 768 == c then noteStatus s e stCapacity else s) := by
    split
    · exact h.modEng _ _
    · exact h
  dsimp only
  split
  · exact hnote.of_mailboxOnly (endAll_mailboxOnly ..)
  · exact hnote

theorem tidied (h : StoppedUnder map p s) : StoppedUnder map p (saveCoreMap (tidyTakeover s)) := h.of_eq rfl rfl

end StoppedUnder

theorem fenceRun_stops {s : State} {c : Nat} (hout : (vget {} s.ldg.map c).out = false) (hf : (vget {} s.ldg.map c).fenced = false)
    (cause : BitVec 4) (plans : List (Fin 64 × Plan)) :
    StoppedUnder (vmod s.ldg.map c fun m => { m with fenced := true, cause := cause, failed := physOf s c :: m.failed, out := !spareLeft s }) (physOf s c)
      (fenceRun s c cause plans) := by
  have hstop : StoppedUnder (vmod s.ldg.map c fun m => { m with fenced := true, cause := cause, failed := physOf s c :: m.failed, out := !spareLeft s })
      (physOf s c) (mapMod (stopCoreDecks (stopTiles (stopCore s (physOf s c)) (physOf s c)) (physOf s c)) c fun m =>
        { m with fenced := true, cause := cause, failed := physOf s c :: m.failed, out := !spareLeft s }) := by
    have hcore : (getCore (stopCore s (physOf s c)) (physOf s c)).running = false ∧ (getCore (stopCore s (physOf s c)) (physOf s c)).stops = 0 := by
      rw [stopCore, getCore_modCore]
      split
      · exact ⟨rfl, rfl⟩
      · rename_i hp
        have hp : ¬physOf s c < 34 := fun k => hp ⟨rfl, k⟩
        simp [getCore, vget, hp]
    exact ⟨rfl, hcore.1, hcore.2⟩
  unfold fenceRun
  dsimp only
  rw [hout, hf, if_neg (by simp)]
  refine .of_mailboxOnly (.tidied ?_) (finishRecs_mailboxOnly ..)
  generalize hspare : spareLeft s = spare at hstop ⊢
  have hdegraded (l l' : List Nat) := StoppedUnder.forEach (fun s e hs => hs.degradeEng plans spare e)
    (StoppedUnder.forEach (fun s e hs => hs.withdrawSwap e) hstop l) l'
  split
  · exact hdegraded _ _
  · exact .forEach (fun s e hs => hs.endStranded c e) (hdegraded _ _) _

theorem exec_coreFence (s : State) (c : Fin 32) (cause : BitVec 4) (plans : List (Fin 64 × Plan)) :
    exec (.coreFence c cause plans) s = .next (coreFence s c cause plans) := rfl

theorem coreFence_holds {s : State} {c : Nat} {cause : BitVec 4} (h : fenceCause s c cause.toNat = true) (hup : s.fac.up = true)
    (plans : List (Fin 64 × Plan)) : coreFence s c cause plans = fenceRun s c cause plans := by
  rw [coreFence, h, hup, if_pos (by decide)]

theorem coreFence_refused {s : State} {c : Nat} {cause : BitVec 4} (h : fenceCause s c cause.toNat = false ∨ s.fac.up = false)
    (plans : List (Fin 64 × Plan)) : coreFence s c cause plans = s := by
  rw [coreFence, if_neg]
  rcases h with h | h <;> simp [h]

/-! ## The takeover -/

theorem spareTakeover_assigns {s : State} {c p : Nat} {r : List Nat} (hup : s.fac.up = true) (hf : (vget {} s.ldg.map c).fenced = true)
    (ho : (vget {} s.ldg.map c).out = false) (hfail : (vget {} s.ldg.map c).failed.contains (vget {} s.ldg.map c).phys = true)
    (hs : sortBy id s.ldg.spares = p :: r) : spareTakeover s c = finishTakeover (assignSpare s c p) c := by
  unfold spareTakeover
  dsimp only
  rw [hf, ho, hup, if_neg (by decide), if_pos hfail, hs]

theorem spareTakeover_waits {s : State} {c : Nat} (hup : s.fac.up = true) (hf : (vget {} s.ldg.map c).fenced = true)
    (ho : (vget {} s.ldg.map c).out = false) (hfail : (vget {} s.ldg.map c).failed.contains (vget {} s.ldg.map c).phys = false) :
    spareTakeover s c = finishTakeover s c := by
  unfold spareTakeover
  dsimp only
  rw [hf, ho, hup, if_neg (by decide), if_neg (ne_true_of_eq_false hfail)]

/-- Settles O24. -/
theorem fencesAndTakeovers : Obligations.FencesAndTakeovers := by
  refine ⟨fun s c cause plans hcause hup hout hf => ?_, fun s c cause plans h => next_congr (coreFence_refused h plans),
    fun s c p r hup hf ho hfail hs => next_congr (spareTakeover_assigns hup hf ho hfail hs),
    fun s c hup hf ho hfail => next_congr (spareTakeover_waits hup hf ho hfail)⟩
  refine ⟨_, exec_coreFence s c cause plans, ?_⟩
  rw [coreFence_holds hcause hup]
  have hstop := fenceRun_stops hout hf cause plans
  rw [hstop.map, vget_vmod_same _ _ _ _ c.isLt]
  exact ⟨rfl, rfl, rfl, rfl, hstop.running, hstop.stops⟩

end Sys2Proof.Machine
end

section
/-! PROOFS. The legs of the digital path: the vector unit, the matrix engine and attention. -/

namespace Sys2Proof.Machine

/-! ## Vector legs (R181–R202, R216–R218) -/

/-- A leg of one operand leaves the function's results under way. -/
theorem vecUnary_ready {s : State} {ctx : LegCtx} {vop : Byte} {d : VecDesc} {f : Fetched} (h : VecReady s ctx vop d f) (g : Word → Word × Bool) :
    vecUnary s ctx vop d g = vecUnderWay s ctx vop d f
      (emitted d d.fmtOut ((vecIn (atLeg s ctx f.cyc) (legPhys s ctx f) d).map fun x => (((g x.1).1, x.2), (g x.1).2))) :=
  vecLeg_ready s ctx vop d f _ h

theorem vecBinary_ready {s : State} {ctx : LegCtx} {vop : Byte} {d : VecDesc} {f : Fetched} (h : VecReady s ctx vop d f)
    (g : Word → Word → Word × Bool) :
    vecBinary s ctx vop d g = vecUnderWay s ctx vop d f
      (emitted d d.fmtOut (((vecIn (atLeg s ctx f.cyc) (legPhys s ctx f) d).zip
        (readVec (atLeg s ctx f.cyc) (legPhys s ctx f) d.src1.toNat d.fmtIn d.n)).map fun x =>
          (((g x.1.1 x.2.1).1, x.1.2 || x.2.2), (g x.1.1 x.2.1).2))) :=
  vecLeg_ready s ctx vop d f _ h

theorem vecTernary_ready {s : State} {ctx : LegCtx} {vop : Byte} {d : VecDesc} {f : Fetched} (h : VecReady s ctx vop d f)
    (g : Word → Word → Word → Word × Bool) :
    vecTernary s ctx vop d g = vecUnderWay s ctx vop d f
      (emitted d d.fmtOut (((vecIn (atLeg s ctx f.cyc) (legPhys s ctx f) d).zip
        ((readVec (atLeg s ctx f.cyc) (legPhys s ctx f) d.src1.toNat d.fmtIn d.n).zip
          (readVec (atLeg s ctx f.cyc) (legPhys s ctx f) d.src2.toNat d.fmtIn d.n))).map fun x =>
            (((g x.1.1 x.2.1.1 x.2.2.1).1, x.1.2 || x.2.1.2 || x.2.2.2), (g x.1.1 x.2.1.1 x.2.2.1).2))) :=
  vecLeg_ready s ctx vop d f _ h

/-- Settles O36: every leg of one, two or three operands by the lemma of its number of operands. -/
theorem elementwiseVectorLegs : Obligations.ElementwiseVectorLegs := by
  refine ⟨fun s ctx d f => ?_, fun ws k qs => comesAbout_of_step _ _ rfl fun s f hw => ?_⟩
  · exact ⟨fun h => next_congr (vecUnary_ready h _), fun h => next_congr (vecUnary_ready h _), fun h => next_congr (vecUnary_ready h _),
      fun h => next_congr (vecUnary_ready h _), fun h => next_congr (vecUnary_ready h _), fun h => next_congr (vecUnary_ready h _),
      fun h => next_congr (vecUnary_ready h _), fun h => next_congr (vecUnary_ready h _), fun h => next_congr (vecUnary_ready h _),
      fun h => next_congr (vecUnary_ready h _), fun h => next_congr (vecUnary_ready h _), fun h => next_congr (vecUnary_ready h _),
      fun h => next_congr (vecUnary_ready h _), fun h => next_congr (vecBinary_ready h _), fun h => next_congr (vecBinary_ready h _),
      fun h => next_congr (vecBinary_ready h _), fun h => next_congr (vecBinary_ready h _), fun h => next_congr (vecBinary_ready h _),
      fun h => next_congr (vecBinary_ready h _), fun h => next_congr (vecTernary_ready h _), fun h => next_congr (vecTernary_ready h _)⟩
  · rw [landOne, hw]
    rfl

theorem vecReduce_ready {s : State} {ctx : LegCtx} {vop : Byte} {d : VecDesc} {f : Fetched} (h : VecReady s ctx vop d f)
    (g : List Word → List (Word × Bool)) :
    vecReduce s ctx vop d g = vecUnderWay s ctx vop d f
      (emitted d d.fmtOut ((g ((vecIn (atLeg s ctx f.cyc) (legPhys s ctx f) d).map Prod.fst)).map fun r =>
        ((r.1, (vecIn (atLeg s ctx f.cyc) (legPhys s ctx f) d).any Prod.snd), r.2))) :=
  vecLeg_ready s ctx vop d f _ h

/-- A row operation reads `tabs` tables at SRC1, or none where SRC1 names none. -/
theorem vecRow_ready {s : State} {ctx : LegCtx} {vop : Byte} {d : VecDesc} {f : Fetched} (h : VecReady s ctx vop d f)
    (g : List Word → List Word → List (Word × Bool)) {n : Nat} (hn : tableElems vop.toNat d = n) :
    vecRow s ctx vop d g = vecUnderWay s ctx vop d f
      (emitted d d.fmtOut ((g ((vecIn (atLeg s ctx f.cyc) (legPhys s ctx f) d).map Prod.fst)
        ((readVec (atLeg s ctx f.cyc) (legPhys s ctx f) d.src1.toNat d.fmtIn n).map Prod.fst)).map fun r =>
          ((r.1, (vecIn (atLeg s ctx f.cyc) (legPhys s ctx f) d).any Prod.snd ||
            (readVec (atLeg s ctx f.cyc) (legPhys s ctx f) d.src1.toNat d.fmtIn n).any Prod.snd), r.2))) :=
  hn ▸ vecLeg_ready s ctx vop d f _ h

/-- The tables that each row operation reads (log 21): the scale, the scale and the shift, or none. -/
theorem tableElems_row (d : VecDesc) :
    tableElems 0x60 d = (if d.src1 = 0xFFFFFFFF then 0 else 1 * d.n) ∧ tableElems 0x61 d = (if d.src1 = 0xFFFFFFFF then 0 else 2 * d.n) ∧
      tableElems 0x62 d = (if d.src1 = 0xFFFFFFFF then 0 else 0 * d.n) := by
  simp [tableElems]

/-- Settles O37. -/
theorem tensorVectorLegs : Obligations.TensorVectorLegs := by
  intro s ctx d f
  obtain ⟨hscale, hshift, hnone⟩ := tableElems_row d
  exact ⟨fun h => next_congr (vecReduce_ready h _), fun h => next_congr (vecReduce_ready h _), fun h => next_congr (vecReduce_ready h _),
    fun h => next_congr (vecReduce_ready h _), fun h => next_congr (vecReduce_ready h _), fun h => next_congr (vecRow_ready h _ hscale),
    fun h => next_congr (vecRow_ready h _ hshift), fun h => next_congr (vecRow_ready h _ hnone), fun h => next_congr (vecLeg_ready s ctx _ d f _ h),
    fun h => next_congr (vecLeg_ready s ctx _ d f _ h), fun h => next_congr (vecLeg_ready s ctx _ d f _ h),
    fun h => next_congr (vecLeg_ready s ctx _ d f _ h), fun tag h => next_congr (vecLeg_ready s ctx _ d f _ h)⟩

/-! ## MATRIX and ATTEND (R206–R223) -/

/-- The matrix engine begins its first output tile at issue. -/
theorem matrixRun_issued {s : State} {ctx : LegCtx} {d : MatrixDesc} {f : Fetched} (hi : Issued s ctx (.matrix d) f) (ho : matrixOk d = true)
    (hfree : (getCore (atLeg s ctx f.cyc) (legPhys s ctx f)).meFree ≤ f.cyc)
    (hbanks : banksFree (getCore (atLeg s ctx f.cyc) (legPhys s ctx f)) (matrixUse d f.cyc) = true)
    (hown : foreignRange (atLeg s ctx f.cyc) (legPhys s ctx f) ctx.eng (matrixRanges d) = none) :
    matrixRun s ctx d = landDue (launch (takeEngine (atLeg s ctx f.cyc) (legPhys s ctx f) (f.cyc + 64 * d.kt * d.t) (matrixUse d f.cyc))
      ctx f.cyc (.matrix d 0)) f.cyc := by
  rw [matrixRun, onLeg_issued s ctx _ f _ hi]
  simp only [legPhys] at *
  simp [ho, Nat.not_lt.mpr hfree, hbanks, hown]

/-- Attention has the matrix engine and the vector unit to itself, and its first block's deadline comes at issue. -/
theorem attendRun_issued {s : State} {ctx : LegCtx} {d : AttnDesc} {f : Fetched} (hi : Issued s ctx (.attend d) f) (ho : attnOk d = true)
    (hme : (getCore (atLeg s ctx f.cyc) (legPhys s ctx f)).meFree ≤ f.cyc) (hvec : (getCore (atLeg s ctx f.cyc) (legPhys s ctx f)).vecFree ≤ f.cyc)
    (hbanks : banksFree (getCore (atLeg s ctx f.cyc) (legPhys s ctx f)) (attnUse d f.cyc) = true)
    (hown : foreignRange (atLeg s ctx f.cyc) (legPhys s ctx f) ctx.eng (attnRanges d) = none) :
    attendRun s ctx d = landDue (launch (modCore (takeEngine (atLeg s ctx f.cyc) (legPhys s ctx f) (f.cyc + attnLatency d) (attnUse d f.cyc))
      (legPhys s ctx f) fun c => { c with vecFree := f.cyc + attnLatency d }) ctx f.cyc (.attend d f.cyc 0 (attnStart d))) f.cyc := by
  rw [attendRun, onLeg_issued s ctx _ f _ hi]
  simp only [legPhys] at *
  simp [ho, Nat.not_lt.mpr hme, Nat.not_lt.mpr hvec, hbanks, hown]

theorem tileLatency_gt (d : MatrixDesc) : 64 * d.kt < tileLatency d := by
  unfold tileLatency
  omega

/-- An output tile that alone is under way streams through the array; its results and the next tile are due later. -/
theorem landDue_matrix {s : State} {f : Flight} {d : MatrixDesc} {k cc : Nat} (hs : s.flights = [f]) (hw : f.what = .matrix d k) (hd : f.due ≤ cc)
    (hc : cc < f.due + 64 * d.kt) : landDue s cc = landTile { s with flights := [] } f d k := by
  have hl := tileLatency_gt d
  refine landDue_then s _ f cc hs hd (by rw [hw]; exact Nat.succ_ne_zero _) (by rw [landOne, hw]) ?_
  unfold landTile
  dsimp only
  split <;> simp [follow] <;> omega

/-- A block as it stands leaves the state, but for what follows it. -/
theorem landBlock_resident {s : State} {f : Flight} {d : AttnDesc} {j : Nat} {b : KvBlock} (hb : takeBlock s f.core f.ctx d j = (some b, .resident))
    (cyc : Nat) (run : AttnRun) :
    landBlock s f d cyc j run =
      if j + 1 < d.nblk then follow s f (max f.due (attnDeadline d cyc (j + 1))) (.attend d cyc (j + 1) (useBlock s f.core d run b))
      else follow s f (cyc + attnLatency d) (.write [(f.core, d.oAddr.toNat, (attnEnd s f.core d (useBlock s f.core d run b)).1)]
        (attnEnd s f.core d (useBlock s f.core d run b)).2 []) := by
  unfold landBlock
  simp only [hb, ↓reduceIte]

theorem landDue_attend {s : State} {f : Flight} {d : AttnDesc} {cyc j cc : Nat} {run : AttnRun} {b : KvBlock} (hs : s.flights = [f])
    (hw : f.what = .attend d cyc j run) (hd : f.due ≤ cc) (hnext : j + 1 < d.nblk → cc < attnDeadline d cyc (j + 1))
    (hlast : d.nblk ≤ j + 1 → cc < cyc + attnLatency d) (hb : takeBlock { s with flights := [] } f.core f.ctx d j = (some b, .resident)) :
    landDue s cc = landBlock { s with flights := [] } f d cyc j run := by
  refine landDue_then s _ f cc hs hd (by rw [hw]; exact Nat.succ_ne_zero _) (by rw [landOne, hw]) ?_
  rw [landBlock_resident hb]
  split
  · have hlt : cc < max f.due (attnDeadline d cyc (j + 1)) := Nat.lt_of_lt_of_le (hnext ‹_›) (Nat.le_max_right ..)
    simp only [follow, List.nil_append, List.mem_singleton, forall_eq, hlt]
  · simp only [follow, List.nil_append, List.mem_singleton, forall_eq, hlast (by omega)]

/-! ## Results (R197, R296) -/

/-- A byte of a run without its marks is the marked byte's own. -/
theorem getElem?_getD_map_fst (bs : List MByte) (n : Nat) : (bs.map Prod.fst)[n]?.getD 0 = (bs.getD n (0, false)).1 := by
  rw [List.getElem?_map, List.getD_eq_getElem?_getD]
  cases bs[n]? <;> rfl

/-- A leg's bytes for a Waystation of its own core are written. -/
theorem landBytes_own (s : State) (p a : Nat) (bs : List MByte) :
    landBytes p s (p, a, bs) =
      wsWrite (modCore s p fun c => { c with quant := c.quant.filter fun k => !(decide (a ≤ k.1) && decide (k.1 < a + bs.length)) }) p a bs := by
  unfold landBytes
  exact if_neg fun h => h.1 rfl

theorem flightCons_mailboxOnly (s : State) (f : Flight) (g : QEntry → QEntry) : MailboxOnly s (flightCons s f g) := by
  unfold flightCons
  split
  · exact modQ_mailboxOnly ..
  · exact .refl s

theorem flightCons_flights (s : State) (f : Flight) (g : QEntry → QEntry) : (flightCons s f g).flights = s.flights :=
  (flightCons_mailboxOnly s f g).field State.flights

/-- What a Waystation write changes: the bytes and their marks. -/
theorem wsWrite_keeps {β : Type} (g : State → β) (hg : ∀ s c, g (wsPutChunk s c) = g s) (s : State) (p a : Nat) (bs : List MByte) :
    g (wsWrite s p a bs) = g s :=
  forEach_keeps g wsPutChunk hg _ s

/-- What a leg's own result changes, outside the mailboxes and the counters of its core: one run of bytes of its Waystation. -/
theorem landResult_keeps {β : Type} (g : State → β) (hws : ∀ s c, g (wsPutChunk s c) = g s) (hcore : ∀ s p k, g (modCore s p k) = g s)
    (hcons : ∀ s f k, g (flightCons s f k) = g s) (s : State) (f : Flight) (a : Nat) (bs : List MByte) (k : Tally) (qs : Quants) :
    g (landResult s f [(f.core, a, bs)] k qs) = g s := by
  have hone : g (landBytes f.core s (f.core, a, bs)) = g s := by rw [landBytes_own, wsWrite_keeps g hws, hcore]
  unfold landResult
  dsimp only
  rw [hcons, forEach_keeps g _ (fun s q => hcore ..), hcore, forEach_cons, forEach_nil, hone]

theorem landResult_ws (s : State) (f : Flight) (a : Nat) (bs : List MByte) (k : Tally) (qs : Quants) :
    (landResult s f [(f.core, a, bs)] k qs).mem.ws = ssetRun 0 s.mem.ws (wsKey f.core a) (plainOf bs) := by
  unfold landResult
  dsimp only
  rw [flightCons_mem, forEach_keeps (fun s => s.mem) _ (fun s q => modCore_mem ..), modCore_mem, forEach_cons, forEach_nil, landBytes_own, wsWrite_ws,
    modCore_mem]

/-- Settles O35. -/
theorem engineLegsWriteTheirResult : Obligations.EngineLegsWriteTheirResult := by
  refine ⟨fun s ctx d f hi ho hfree hbanks hown => next_congr (matrixRun_issued hi ho hfree hbanks hown),
    fun s ctx d f hi ho hme hvec hbanks hown => next_congr (attendRun_issued hi ho hme hvec hbanks hown),
    fun s f d k cc hs hw hd hc => landDue_matrix hs hw hd hc,
    fun s f d cyc j cc run hs hw hd hnext hlast b hb => (landDue_attend hs hw hd hnext hlast hb).trans (landBlock_resident hb cyc run),
    fun s f a bs k qs cc hs hw hd => ?_⟩
  have hland : landDue s cc = landResult { s with flights := [] } f [(f.core, a, bs)] k qs := by
    rw [landDue_one s f cc hs (by rw [hw]; rfl) hd, landOne, hw]
  have hmem {β : Type} (g : Memory → β) (hg : ∀ s c, g (wsPutChunk s c).mem = g s.mem) : g (landDue s cc).mem = g s.mem := by
    rw [hland]
    exact landResult_keeps (fun s => g s.mem) hg (fun _ _ _ => rfl) (fun s f k => congrArg g (flightCons_mem s f k)) ..
  refine ⟨fun i => ?_, hmem Memory.sm fun _ _ => rfl, hmem Memory.boot fun _ _ => rfl, hmem Memory.host fun _ _ => rfl, hmem Memory.stop fun _ _ => rfl,
    ?_, ?_, ?_⟩
  · rw [hland, landResult_ws, sget_ssetRun_getD, plainOf, List.length_map]
    rw [getElem?_getD_map_fst]
  · rw [hland]
    exact landResult_keeps State.decks (fun _ _ => rfl) (fun _ _ _ => rfl) (fun s f k => (flightCons_mailboxOnly s f k).decks) ..
  · rw [hland]
    exact landResult_keeps State.tiles (fun _ _ => rfl) (fun _ _ _ => rfl) (fun s f k => (flightCons_mailboxOnly s f k).tiles) ..
  · rw [hland]
    exact landResult_keeps State.flights (fun _ _ => rfl) (fun _ _ _ => rfl) flightCons_flights ..

end Sys2Proof.Machine
end

section
/-! PROOFS. The legs that move bytes, and the legs that do not run. -/

namespace Sys2Proof.Machine

/-! ## Porters and convoys (R282, R299–R312) -/

/-- A leg whose ranges are the engagement's acts. -/
theorem guarded_none (s : State) (ctx : LegCtx) (act : State) : guarded s ctx none act = act := rfl

theorem porterLeg_ready {s : State} {ctx : LegCtx} {l : PorterLeg} {op : Nat} {f : Fetched} (h : PorterReady s ctx l op f) (busy : Nat)
    (act : State → Nat → Nat → State) :
    porterLeg s ctx l op busy act = act (porterTaken s ctx l busy f) (legPhys s ctx f) f.cyc := by
  obtain ⟨hi, hok, hchan, hbanks⟩ := h
  rw [porterLeg, onLeg_issued s ctx _ f _ hi]
  simp only [legPhys, legCore] at *
  simp [hok, Nat.not_lt.mpr hchan, hbanks, porterTaken, legPhys]

theorem convoyLeg_ready {s : State} {ctx : LegCtx} {l : ConvoyLeg} {net : Nat} {f : Fetched} (h : ConvoyReady s ctx l net f)
    (act : State → Nat → State) : convoyLeg s ctx l net act = act (convoyTaken s ctx l f) (legPhys s ctx f) := by
  obtain ⟨hi, hok, hlane, hbanks, hown⟩ := h
  rw [convoyLeg, onLeg_issued s ctx _ f _ hi]
  simp only [legPhys, legCore] at *
  simp [hok, hlane, hbanks, hown, guarded, convoyTaken, legPhys]

theorem multicast_ready {s : State} {ctx : LegCtx} {l : PorterLeg} {f : Fetched} (h : PorterReady s ctx l 1 f)
    (hown : foreignRange (porterTaken s ctx l (moveBeats l.desc) f) (legPhys s ctx f) ctx.eng
      (rowRanges l.desc.src l.desc.sstride l.desc.len l.desc.rows false) = none) :
    multicast s ctx l = launch
      (forEach ((maskTiles l.desc.tmask).map fun k => tileNum (legPhys s ctx f) l.desc.string.toNat k) (porterTaken s ctx l (moveBeats l.desc) f)
        fun v k => modTile v k (setBuffer l.desc.buf none))
      ctx (f.cyc + 8 * moveBeats l.desc)
      (.bundle ((maskTiles l.desc.tmask).map fun k => tileNum (legPhys s ctx f) l.desc.string.toNat k) l.desc.buf
        (bundleOf (wsGather (porterTaken s ctx l (moveBeats l.desc) f) (legPhys s ctx f) l.desc))) := by
  rw [multicast, porterLeg_ready h]
  dsimp only
  rw [hown, guarded_none]

theorem wsCopy_ready {s : State} {ctx : LegCtx} {l : PorterLeg} {f : Fetched} (h : PorterReady s ctx l 2 f)
    (hown : foreignRange (porterTaken s ctx l (moveBeats l.desc) f) (legPhys s ctx f) ctx.eng
      (rowRanges l.desc.src l.desc.sstride l.desc.len l.desc.rows false ++ rowRanges l.desc.dst l.desc.dstride l.desc.len l.desc.rows true) = none) :
    wsCopy s ctx l = launchMove (porterTaken s ctx l (moveBeats l.desc) f) ctx (legPhys s ctx f) (cdiv f.cyc 8 + 2) 1024 l.desc
      (wsGather (porterTaken s ctx l (moveBeats l.desc) f) (legPhys s ctx f) l.desc)
      (movedQuants (porterTaken s ctx l (moveBeats l.desc) f) (legPhys s ctx f) (legPhys s ctx f) l.desc) := by
  rw [wsCopy, porterLeg_ready h]
  dsimp only
  rw [hown, guarded_none]

/-- A convoy's bytes are on their way where its stop is dead, and where the landing meets no other access and lies in the engagement's pages. -/
theorem roadsRun_ready {s : State} {ctx : LegCtx} {l : ConvoyLeg} {f : Fetched} (h : ConvoyReady s ctx l 0 f) {u : State} (hu : convoyTaken s ctx l f = u)
    (hland : stopDead u l.desc.tcore.toNat = true ∨
      (banksFree (getCore u (physOf u l.desc.tcore.toNat)) (landingUse l.desc u.alm.beat.toNat (roadsLag ctx.core l.desc.tcore.toNat)) = true ∧
        foreignRange u (physOf u l.desc.tcore.toNat) ctx.eng (rowRanges l.desc.dst l.desc.dstride l.desc.len l.desc.rows true) = none)) :
    roadsRun s ctx l = launchMove (takeBanks u (physOf u l.desc.tcore.toNat) (landingUse l.desc u.alm.beat.toNat (roadsLag ctx.core l.desc.tcore.toNat))) ctx
      (physOf u l.desc.tcore.toNat) (u.alm.beat.toNat + roadsLag ctx.core l.desc.tcore.toNat) 512 l.desc (wsGather u (legPhys s ctx f) l.desc)
      (movedQuants u (legPhys s ctx f) (physOf u l.desc.tcore.toNat) l.desc) := by
  rw [roadsRun, convoyLeg_ready h, hu]
  dsimp only
  rcases hland with hdead | ⟨hbanks, hown⟩
  · rw [hdead, if_neg (by simp), if_pos rfl, guarded_none]
  · rw [hbanks, hown, if_neg (by simp), ite_self, guarded_none]

theorem linkRun_ready {s : State} {ctx : LegCtx} {l : ConvoyLeg} {f : Fetched} (h : ConvoyReady s ctx l 1 f) :
    linkRun s ctx l = forEach (slotPieces l.nslot (wsGather (convoyTaken s ctx l f) (legPhys s ctx f) l.desc)).zipIdx (convoyTaken s ctx l f) fun v x =>
      launch v ctx (8 * (v.alm.beat.toNat + 3 + x.2)) (.send (Fin.ofNat 8 l.way.toNat) x.1) := by
  rw [linkRun, convoyLeg_ready h]

/-- The fetch that a read leg leaves with its core. -/
def issuedRead (u : State) (ctx : LegCtx) (l : PorterLeg) (cyc : Nat) : PendRead :=
  { id := u.free, eng := ctx.eng, circuit := ctx.circuit, leg := ctx.leg, desc := l.desc, issue := BitVec.ofNat 64 (cyc / 8)
    dl := BitVec.ofNat 64 (readDl u ctx l), late := l.late }

theorem readRun_ready {s : State} {ctx : LegCtx} {l : PorterLeg} {f : Fetched} (h : PorterReady s ctx l 5 f) {u : State}
    (hu : porterTaken s ctx l 1 f = u) (hreg : l.desc.packed = true → (ownRegion u ctx.eng l.desc.region).isSome = true)
    (hdst : foreignRange u (legPhys s ctx f) ctx.eng (rowRanges l.desc.dst l.desc.dstride l.desc.len l.desc.rows true) = none)
    (hsrc : foreignOffset u ctx.eng ((fetchParts u ctx.eng l.desc).map fun x => (x.1, x.2, false)) = none) :
    readRun s ctx l = holdStaging (modCore (freshen u) (legPhys s ctx f) fun c => { c with reads := c.reads ++ [issuedRead u ctx l f.cyc] }) u.free
      (fetchBytes u ctx.eng l.desc) ((issuedRead u ctx l f.cyc).dl - 2) := by
  rw [readRun, porterLeg_ready h, hu]
  dsimp only
  have hnone : (l.desc.packed && (ownRegion u ctx.eng l.desc.region).isNone) = false := by
    cases hp : l.desc.packed
    · rfl
    · simpa using hreg hp
  rw [hnone, if_neg Bool.false_ne_true, hdst, guarded_none, hsrc, guarded_none]
  rfl

theorem writeRun_ready {s : State} {ctx : LegCtx} {l : PorterLeg} {f : Fetched} (h : PorterReady s ctx l 6 f) {u : State}
    (hu : porterTaken s ctx l (1 + postBeats s ctx.eng l.desc) f = u)
    (hreg : l.desc.packed = true → (ownRegion u ctx.eng l.desc.region).isSome = true ∧ packerKept u ctx.eng l.desc.region = false)
    (hsrc : foreignRange u (legPhys s ctx f) ctx.eng (rowRanges l.desc.src l.desc.sstride l.desc.len l.desc.rows false) = none)
    (hdst : foreignOffset u ctx.eng (writeRanges u ctx.eng l.desc) = none) (replay : Bool) :
    writeRun s ctx l replay = launch u ctx (postDue u ctx.eng l.desc f.cyc)
      (.post { movePost u (legPhys s ctx f) ctx.eng l.desc with replay := if replay then replayRec u ctx else none }) := by
  rw [writeRun, porterLeg_ready h, hu]
  dsimp only
  have hnone : (l.desc.packed && (ownRegion u ctx.eng l.desc.region).isNone) = false ∧ (l.desc.packed && packerKept u ctx.eng l.desc.region) = false := by
    cases hp : l.desc.packed
    · exact ⟨rfl, rfl⟩
    · simpa using hreg hp
  rw [hnone.1, hnone.2, if_neg Bool.false_ne_true, if_neg Bool.false_ne_true, hsrc, guarded_none, hdst, guarded_none]

/-- The stacked-memory ranges of a KV block: its region, or its place among raw blocks (R312). -/
def kvRanges (u : State) (e : Nat) (d : PorterDesc) : List (Nat × Nat × Bool) :=
  match descRegion u e d with
  | some r => [(r.base, regionBytes r, true)]
  | none => [(d.dst + d.blk * moveBytes d, moveBytes d, true)]

/-- The region of a packed KV write: a KV region of the engagement, on which the packer may work unless it is protected. -/
def KvRegion (u : State) (e : Nat) (d : PorterDesc) : Prop :=
  d.packed = true → ∃ r, ownRegion u e d.region = some r ∧ r.kv = true ∧ (r.prot = false → packerKept u e d.region = false)

theorem KvRegion.tests {u : State} {e : Nat} {d : PorterDesc} (h : KvRegion u e d) :
    (d.packed && (ownRegion u e d.region).isNone) = false ∧ notKv u e d = false ∧
      (d.packed && packerKept u e d.region && (descRegion u e d).isSome) = false := by
  cases hp : d.packed with
  | false => simp [notKv, hp]
  | true =>
    obtain ⟨r, hr, hkv, hkept⟩ := h hp
    refine ⟨by simp [hr], by simp [notKv, hp, hr, hkv], ?_⟩
    cases hprot : r.prot with
    | false => simp [hkept hprot]
    | true => simp [descRegion, hp, hr, hprot]

theorem kvRun_ready {s : State} {ctx : LegCtx} {l : PorterLeg} {f : Fetched} (h : PorterReady s ctx l 7 f) {u : State}
    (hu : porterTaken s ctx l (1 + postBeats s ctx.eng l.desc) f = u) (hreg : KvRegion u ctx.eng l.desc)
    (hsrc : foreignRange u (legPhys s ctx f) ctx.eng (rowRanges l.desc.src l.desc.sstride l.desc.len l.desc.rows false ++
      if l.desc.summary then [(l.desc.sumAddr, 68 * l.desc.d * l.desc.sumb, true)] else []) = none)
    (hdst : foreignOffset u ctx.eng (kvRanges u ctx.eng l.desc) = none) :
    kvRun s ctx l =
      if l.desc.summary then
        launch (launch u ctx (postDue u ctx.eng l.desc f.cyc) (.post (kvBlockPost u ctx.eng l.desc (wsGather u (legPhys s ctx f) l.desc)))) ctx
          (f.cyc + 8 * moveBeats l.desc) (.write [(legPhys s ctx f, kvSummary u ctx.eng l.desc (wsGather u (legPhys s ctx f) l.desc))] {} [])
      else launch u ctx (postDue u ctx.eng l.desc f.cyc) (.post (kvBlockPost u ctx.eng l.desc (wsGather u (legPhys s ctx f) l.desc))) := by
  obtain ⟨hnone, hkv, hkept⟩ := hreg.tests
  rw [kvRun, porterLeg_ready h, hu]
  dsimp only
  rw [hnone, hkv, hkept, if_neg Bool.false_ne_true, if_neg Bool.false_ne_true, if_neg Bool.false_ne_true, hsrc, guarded_none]
  exact congrArg (fun r => guarded u ctx r _) hdst

/-- A post without packed blocks or a new table stands among the posted writes, with its replay record. -/
theorem landPost_plain (s : State) (f : Flight) {w : PostRec} (hb : w.blocks = []) (ht : w.table = none) :
    landPost s f w = landPost s f { ws := w.ws, replay := w.replay } := by
  cases w
  simp only at hb ht
  subst hb ht
  rfl

/-- Settles O38. -/
theorem porterLegsMove : Obligations.PorterLegsMove := by
  refine ⟨fun s ctx f => ⟨fun l h hown => next_congr (multicast_ready h hown), fun l h hown => next_congr (wsCopy_ready h hown),
      fun l h hland => next_congr (roadsRun_ready h rfl hland), fun l h => next_congr (linkRun_ready h),
      fun l h hreg hdst hsrc => next_congr (readRun_ready h rfl hreg hdst hsrc),
      fun l replay h hreg hsrc hdst => next_congr (writeRun_ready h rfl hreg hsrc hdst replay),
      fun l h hreg hsrc hdst => next_congr (kvRun_ready h rfl hreg hsrc hdst)⟩,
    fun ts buf b => comesAbout_of_step _ _ rfl fun s f hw => by rw [landOne, hw],
    fun port payload => comesAbout_of_step _ _ rfl fun s f hw => by rw [landOne, hw]; rfl,
    fun w hb ht hr => comesAbout_of_step _ _ rfl fun s f hw => ?_,
    fun w b hb ht hr => comesAbout_of_step _ _ rfl fun s f hw => ?_⟩
  · rw [landOne, hw]
    dsimp only
    rw [landPost_plain s f hb ht, hr]
    rfl
  · rw [landOne, hw]
    dsimp only
    rw [landPost_plain s f hb ht, hr]
    rfl

end Sys2Proof.Machine
end

section
/-! PROOFS. The legs that do not run (R273, R274, R282, R297). -/

namespace Sys2Proof.Machine

/-! ## Every leg command is one leg that its Drover may issue -/

/-- A command issues a leg: what it does is what `onLeg` makes of an action. -/
def IssuesLeg (ctx : LegCtx) (i : Instr) (b : LegBody) : Prop := ∀ s, ∃ act, exec i s = .next (onLeg s ctx b act)

theorem vecForms_exec (ctx : LegCtx) (d : VecDesc) (tag : BitVec 16) (s : State) :
    ∀ c ∈ vecForms ctx d tag, ∃ act, exec c.1 s = .next (vecLeg s ctx c.2 d act) := by
  unfold vecForms
  repeat refine List.forall_mem_cons.mpr ⟨⟨_, rfl⟩, ?_⟩
  exact fun _ h => absurd h List.not_mem_nil

theorem porterForms_exec (ctx : LegCtx) (l : PorterLeg) (replay : Bool) (s : State) :
    ∀ c ∈ porterForms ctx l replay, ∃ busy act, exec c.1 s = .next (porterLeg s ctx l c.2 busy act) := by
  unfold porterForms
  repeat refine List.forall_mem_cons.mpr ⟨⟨_, _, rfl⟩, ?_⟩
  exact fun _ h => absurd h List.not_mem_nil

theorem convoyForms_exec (ctx : LegCtx) (l : ConvoyLeg) (s : State) :
    ∀ c ∈ convoyForms ctx l, ∃ act, exec c.1 s = .next (convoyLeg s ctx l c.2 act) := by
  unfold convoyForms
  repeat refine List.forall_mem_cons.mpr ⟨⟨_, rfl⟩, ?_⟩
  exact fun _ h => absurd h List.not_mem_nil

theorem legForms_issue (ctx : LegCtx) (x : LegOperands) : ∀ c ∈ legForms ctx x, IssuesLeg ctx c.1 c.2 := by
  intro c hc s
  rw [legForms, List.mem_append, List.mem_append, List.mem_append, List.mem_map, List.mem_map, List.mem_map] at hc
  rcases hc with ((hc | ⟨v, hv, rfl⟩) | ⟨v, hv, rfl⟩) | ⟨v, hv, rfl⟩
  · revert c
    repeat refine List.forall_mem_cons.mpr ⟨⟨_, rfl⟩, ?_⟩
    exact fun _ h => absurd h List.not_mem_nil
  · obtain ⟨act, hact⟩ := vecForms_exec _ _ _ s v hv
    exact ⟨_, hact⟩
  · obtain ⟨busy, act, hact⟩ := porterForms_exec _ _ _ s v hv
    exact ⟨_, hact⟩
  · obtain ⟨act, hact⟩ := convoyForms_exec _ _ s v hv
    exact ⟨_, hact⟩

/-! ## Legs that are issued and not acted on -/

section
variable {s : State} {ctx : LegCtx} {f : Fetched}

theorem strikeRun_illFormed {l : StrikeLeg} (hi : Issued s ctx (.strike l) f) (ho : strikeLegOk l = false) :
    strikeRun s ctx l = legFault (atLeg s ctx f.cyc) ctx 2 := by
  rw [strikeRun, onLeg_issued s ctx _ f _ hi, ho, if_pos (by decide)]

theorem selectRun_illFormed {l : SelectLeg} (hi : Issued s ctx (.select l) f) (ho : 12 ≤ l.string.toNat) :
    selectRun s ctx l = legFault (atLeg s ctx f.cyc) ctx 2 := by
  rw [selectRun, onLeg_issued s ctx _ f _ hi, if_pos ho]

theorem reduceRun_illFormed {l : ReduceLeg} (hi : Issued s ctx (.reduce l) f) (ho : reduceLegOk l = false) :
    reduceRun s ctx l = legFault (atLeg s ctx f.cyc) ctx 2 := by
  rw [reduceRun, onLeg_issued s ctx _ f _ hi]
  dsimp only
  rw [ho, if_pos (by decide)]

theorem reduceRun_meets {l : ReduceLeg} (hi : Issued s ctx (.reduce l) f) (ho : reduceLegOk l = true)
    (hb : banksFree (getCore (atLeg s ctx f.cyc) (physOf (atLeg s ctx f.cyc) ctx.core)) (reduceUse l (atLeg s ctx f.cyc).alm.beat.toNat) = false) :
    reduceRun s ctx l = legFault (atLeg s ctx f.cyc) ctx 1 := by
  rw [reduceRun, onLeg_issued s ctx _ f _ hi]
  dsimp only
  rw [ho, hb, if_neg (by decide), if_pos (by simp)]

theorem matrixRun_illFormed {d : MatrixDesc} (hi : Issued s ctx (.matrix d) f) (ho : matrixOk d = false) :
    matrixRun s ctx d = legFault (atLeg s ctx f.cyc) ctx 2 := by
  rw [matrixRun, onLeg_issued s ctx _ f _ hi]
  dsimp only
  rw [ho, if_pos (by decide)]

theorem matrixRun_busy {d : MatrixDesc} (hi : Issued s ctx (.matrix d) f) (ho : matrixOk d = true)
    (hb : f.cyc < (getCore (atLeg s ctx f.cyc) (physOf (atLeg s ctx f.cyc) ctx.core)).meFree ∨
      banksFree (getCore (atLeg s ctx f.cyc) (physOf (atLeg s ctx f.cyc) ctx.core)) (matrixUse d f.cyc) = false) :
    matrixRun s ctx d = legFault (atLeg s ctx f.cyc) ctx 1 := by
  rw [matrixRun, onLeg_issued s ctx _ f _ hi]
  dsimp only
  rw [ho, if_neg (by decide), if_pos hb]

theorem attendRun_illFormed {d : AttnDesc} (hi : Issued s ctx (.attend d) f) (ho : attnOk d = false) :
    attendRun s ctx d = legFault (atLeg s ctx f.cyc) ctx 2 := by
  rw [attendRun, onLeg_issued s ctx _ f _ hi]
  dsimp only
  rw [ho, if_pos (by decide)]

theorem attendRun_busy {d : AttnDesc} (hi : Issued s ctx (.attend d) f) (ho : attnOk d = true)
    (hb : f.cyc < (getCore (atLeg s ctx f.cyc) (physOf (atLeg s ctx f.cyc) ctx.core)).meFree ∨
      f.cyc < (getCore (atLeg s ctx f.cyc) (physOf (atLeg s ctx f.cyc) ctx.core)).vecFree ∨
      banksFree (getCore (atLeg s ctx f.cyc) (physOf (atLeg s ctx f.cyc) ctx.core)) (attnUse d f.cyc) = false) :
    attendRun s ctx d = legFault (atLeg s ctx f.cyc) ctx 1 := by
  rw [attendRun, onLeg_issued s ctx _ f _ hi]
  dsimp only
  rw [ho, if_neg (by decide), if_pos hb]

theorem vecLeg_illFormed {vop : Byte} {d : VecDesc} (hi : Issued s ctx (.vector vop d) f) (ho : vecOk vop.toNat d = false)
    (act : State → Nat → VecOut) : vecLeg s ctx vop d act = legFault (atLeg s ctx f.cyc) ctx 2 := by
  rw [vecLeg, onLeg_issued s ctx _ f _ hi]
  dsimp only
  rw [ho, if_pos (by decide)]

theorem vecLeg_busy {vop : Byte} {d : VecDesc} (hi : Issued s ctx (.vector vop d) f) (ho : vecOk vop.toNat d = true)
    (hb : f.cyc < (getCore (atLeg s ctx f.cyc) (physOf (atLeg s ctx f.cyc) ctx.core)).vecFree ∨
      banksFree (getCore (atLeg s ctx f.cyc) (physOf (atLeg s ctx f.cyc) ctx.core)) (vecUse vop.toNat d f.cyc) = false)
    (act : State → Nat → VecOut) : vecLeg s ctx vop d act = legFault (atLeg s ctx f.cyc) ctx 1 := by
  rw [vecLeg, onLeg_issued s ctx _ f _ hi]
  dsimp only
  rw [ho, if_neg (by decide), if_pos hb]

theorem vecLeg_foreign {vop : Byte} {d : VecDesc} (hi : Issued s ctx (.vector vop d) f) (ho : vecOk vop.toNat d = true)
    (hfree : (getCore (atLeg s ctx f.cyc) (physOf (atLeg s ctx f.cyc) ctx.core)).vecFree ≤ f.cyc)
    (hb : banksFree (getCore (atLeg s ctx f.cyc) (physOf (atLeg s ctx f.cyc) ctx.core)) (vecUse vop.toNat d f.cyc) = true) {r : Nat × Bool}
    (hr : foreignRange (atLeg s ctx f.cyc) (physOf (atLeg s ctx f.cyc) ctx.core) ctx.eng (vecRanges vop.toNat d) = some r)
    (act : State → Nat → VecOut) : vecLeg s ctx vop d act = foreignPage (atLeg s ctx f.cyc) ctx r.1 r.2 := by
  rw [vecLeg, onLeg_issued s ctx _ f _ hi]
  dsimp only
  rw [ho, hb, hr, if_neg (by decide), if_neg (by simp [hfree])]

theorem porterLeg_illFormed {l : PorterLeg} {op : Nat} (hi : Issued s ctx (.porter l) f) (ho : porterOk l op = false) (busy : Nat)
    (act : State → Nat → Nat → State) : porterLeg s ctx l op busy act = legFault (atLeg s ctx f.cyc) ctx 2 := by
  rw [porterLeg, onLeg_issued s ctx _ f _ hi]
  dsimp only
  rw [ho, if_pos (by decide)]

theorem porterLeg_busy {l : PorterLeg} {op : Nat} (hi : Issued s ctx (.porter l) f) (ho : porterOk l op = true)
    (hb : f.cyc < vget 0 (getCore (atLeg s ctx f.cyc) (physOf (atLeg s ctx f.cyc) ctx.core)).chanFree l.chan ∨
      banksFree (getCore (atLeg s ctx f.cyc) (physOf (atLeg s ctx f.cyc) ctx.core)) (porterUse l.desc f.cyc (readDl (atLeg s ctx f.cyc) ctx l - 2)) =
        false) (busy : Nat) (act : State → Nat → Nat → State) : porterLeg s ctx l op busy act = legFault (atLeg s ctx f.cyc) ctx 1 := by
  rw [porterLeg, onLeg_issued s ctx _ f _ hi]
  dsimp only
  rw [ho, if_neg (by decide), if_pos hb]

theorem convoyLeg_illFormed {l : ConvoyLeg} {net : Nat} (hi : Issued s ctx (.convoy l) f) (ho : convoyOk l net = false)
    (act : State → Nat → State) : convoyLeg s ctx l net act = legFault (atLeg s ctx f.cyc) ctx 2 := by
  rw [convoyLeg, onLeg_issued s ctx _ f _ hi]
  dsimp only
  rw [ho, if_pos (by decide)]

theorem convoyLeg_busy {l : ConvoyLeg} {net : Nat} (hi : Issued s ctx (.convoy l) f) (ho : convoyOk l net = true)
    (hb : laneIdle (atLeg s ctx f.cyc) (physOf (atLeg s ctx f.cyc) ctx.core) l.desc.lane = false ∨
      banksFree (getCore (atLeg s ctx f.cyc) (physOf (atLeg s ctx f.cyc) ctx.core)) (convoyUse l.desc (atLeg s ctx f.cyc).alm.beat.toNat) = false)
    (act : State → Nat → State) : convoyLeg s ctx l net act = legFault (atLeg s ctx f.cyc) ctx 1 := by
  rw [convoyLeg, onLeg_issued s ctx _ f _ hi]
  dsimp only
  rw [ho, if_neg (by decide), if_pos (by rcases hb with h | h <;> simp [h])]

end

/-- Settles O32. -/
theorem legsThatDoNotRun : Obligations.LegsThatDoNotRun := by
  refine ⟨fun s ctx x c hc => ?_, fun s ctx f => ⟨fun l hi ho => next_congr (strikeRun_illFormed hi ho),
    fun l hi ho => next_congr (selectRun_illFormed hi ho),
    fun l hi => ⟨fun ho => next_congr (reduceRun_illFormed hi ho), fun ho hb => next_congr (reduceRun_meets hi ho hb)⟩,
    fun d hi => ⟨fun ho => next_congr (matrixRun_illFormed hi ho), fun ho hb => next_congr (matrixRun_busy hi ho hb)⟩,
    fun d hi => ⟨fun ho => next_congr (attendRun_illFormed hi ho), fun ho hb => next_congr (attendRun_busy hi ho hb)⟩,
    fun d tag c hc hi => ?_, fun l replay c hc hi => ?_, fun l c hc hi => ?_⟩⟩
  · obtain ⟨act, hact⟩ := legForms_issue ctx x c hc s
    rw [hact]
    exact ⟨fun h => next_congr (onLeg_idle s ctx _ act h), fun f hf =>
      ⟨fun hm => next_congr (onLeg_malformed s ctx _ f act hf hm), fun hm ho => next_congr (onLeg_other s ctx _ f act hf hm ho)⟩⟩
  · obtain ⟨act, hact⟩ := vecForms_exec _ _ _ s c hc
    rw [hact]
    exact ⟨fun ho => next_congr (vecLeg_illFormed hi ho act), fun ho hb => next_congr (vecLeg_busy hi ho hb act),
      fun addr write ho hfree hb hr => next_congr (vecLeg_foreign hi ho hfree hb hr act)⟩
  · obtain ⟨busy, act, hact⟩ := porterForms_exec _ _ _ s c hc
    rw [hact]
    exact ⟨fun ho => next_congr (porterLeg_illFormed hi ho busy act), fun ho hb => next_congr (porterLeg_busy hi ho hb busy act)⟩
  · obtain ⟨act, hact⟩ := convoyForms_exec _ _ s c hc
    rw [hact]
    exact ⟨fun ho => next_congr (convoyLeg_illFormed hi ho act), fun ho hb => next_congr (convoyLeg_busy hi ho hb act)⟩

end Sys2Proof.Machine
end

section
/-! PROOFS. Strikes, selects and reductions (R47–R71, R82–R88, R135, R136, R585). -/

namespace Sys2Proof.Machine

/-! ## STRIKE (R59, R62, R82, R83) -/

/-- What every step of a fold over a state with an accumulator keeps, the fold keeps. -/
theorem foldl_fst_keeps {α β γ : Type} (g : State → γ) (f : State × β → α → State × β) (h : ∀ a x, g (f a x).1 = g a.1) (l : List α)
    (a : State × β) : g (l.foldl f a).1 = g a.1 := by
  induction l generalizing a with
  | nil => rfl
  | cons x l ih => rw [List.foldl_cons, ih, h]

/-- A tile that takes a strike drives the bundle of its buffer in the slot beats two beats later. -/
theorem takeStrike_takes {ctx : LegCtx} {l : StrikeLeg} {a : State × List (Nat × Nat × Bundle)} {t : Nat} {b : Bundle}
    (hfault : inputFault a.1 (getTile a.1 (legTile a.1 ctx l.string.toNat t))
      (getDeck a.1 (legTile a.1 ctx l.string.toNat t * 4 + l.deck.val)) l = none)
    (hb : (if l.buf = 0 then (getTile a.1 (legTile a.1 ctx l.string.toNat t)).buf0 else (getTile a.1 (legTile a.1 ctx l.string.toNat t)).buf1) = some b) :
    takeStrike ctx l a t =
      (modTile a.1 (legTile a.1 ctx l.string.toNat t) fun y =>
        { y with strikes := y.strikes.filter (fun z => decide (a.1.alm.beat.toNat < z.2)) ++
            [(a.1.alm.beat.toNat + 2, a.1.alm.beat.toNat + 2 + awPlanes l.aw * l.slot.toNat)] },
        a.2 ++ [(t, legTile a.1 ctx l.string.toNat t, b)]) := by
  unfold takeStrike
  dsimp only
  rw [hfault, hb]

/-- A tile that meets a fault is left as it is. -/
theorem takeStrike_faults {ctx : LegCtx} {l : StrikeLeg} {a : State × List (Nat × Nat × Bundle)} {t c : Nat}
    (hfault : inputFault a.1 (getTile a.1 (legTile a.1 ctx l.string.toNat t))
      (getDeck a.1 (legTile a.1 ctx l.string.toNat t * 4 + l.deck.val)) l = some c) :
    takeStrike ctx l a t = (legFault a.1 ctx c, a.2) := by
  unfold takeStrike
  dsimp only
  rw [hfault]

theorem takeStrike_alm (ctx : LegCtx) (l : StrikeLeg) (a : State × List (Nat × Nat × Bundle)) (t : Nat) : (takeStrike ctx l a t).1.alm = a.1.alm := by
  unfold takeStrike
  dsimp only
  split <;> rfl

theorem strikeRun_issued {s : State} {ctx : LegCtx} {l : StrikeLeg} {f : Fetched} (hi : Issued s ctx (.strike l) f) (ho : strikeLegOk l = true)
    (hown : l.part = false →
      wsOwned (atLeg s ctx f.cyc) (legPhys s ctx f) ctx.eng (l.oaddr.toNat * 64) (drainLen (atLeg s ctx f.cyc) ctx l) = true)
    {r : State × List (Nat × Nat × Bundle)} (hr : (maskTiles l.tmask).foldl (takeStrike ctx l) (atLeg s ctx f.cyc, []) = r) :
    strikeRun s ctx l = if r.2.isEmpty then r.1 else launch r.1 ctx (8 * (r.1.alm.beat.toNat + 2)) (.strike l r.2) := by
  have halm : r.1.alm = (atLeg s ctx f.cyc).alm := hr ▸ foldl_fst_keeps State.alm _ (takeStrike_alm ctx l) ..
  have hpages : (!l.part && !wsOwned (atLeg s ctx f.cyc) (physOf (atLeg s ctx f.cyc) ctx.core) ctx.eng (l.oaddr.toNat * 64)
      (drainLen (atLeg s ctx f.cyc) ctx l)) = false := by
    cases hp : l.part
    · simpa [legPhys] using hown hp
    · rfl
  rw [strikeRun, onLeg_issued s ctx _ f _ hi, ho, hpages, if_neg (by decide), if_neg Bool.false_ne_true]
  dsimp only
  rw [hr, halm]

theorem logViolation_flights (s : State) (v : Viol) : (logViolation s v).flights = s.flights := by
  unfold logViolation
  split
  · exact (fireVector_mailboxOnly ..).field State.flights
  · rfl

theorem beginTile_flights (f : Flight) (l : StrikeLeg) (b : Nat) (a : State × List TileOuts) (x : Nat × Nat × Bundle) :
    (beginTile f l b a x).1.flights = a.1.flights := by
  unfold beginTile
  dsimp only
  split
  · rfl
  · split
    · exact logViolation_flights ..
    · rfl

theorem le_foldl_max (ms : List Nat) (a : Nat) : a ≤ ms.foldl max a := by
  induction ms generalizing a with
  | nil => exact Nat.le_refl a
  | cons m ms ih => exact Nat.le_trans (Nat.le_max_left a m) (ih (max a m))

/-- A strike's outputs come n × S + m + 3 beats after its first slot beat, where m is at least 1. -/
theorem strikeSpan_ge (s : State) (l : StrikeLeg) (outs : List TileOuts) : 4 ≤ strikeSpan s l outs := by
  have hm := le_foldl_max (outs.map fun o => fmtFloor (getDeck s o.key).reg.fmt) 1
  unfold strikeSpan
  omega

/-- A strike that alone is under way begins on its tiles; its outputs are due later. -/
theorem landDue_strike {s : State} {f : Flight} {l : StrikeLeg} {tiles : List (Nat × Nat × Bundle)} {cc : Nat} (hs : s.flights = [f])
    (hw : f.what = .strike l tiles) (hd : f.due ≤ cc) (hc : cc < f.due + 32) : landDue s cc = beginStrike { s with flights := [] } f l tiles := by
  refine landDue_then s _ f cc hs hd (by rw [hw]; exact Nat.succ_ne_zero _) (by rw [landOne, hw]) ?_
  have hnone : (tiles.foldl (beginTile f l (f.due / 8)) ({ s with flights := [] }, [])).1.flights = [] :=
    foldl_fst_keeps State.flights _ (beginTile_flights f l (f.due / 8)) ..
  unfold beginStrike
  dsimp only
  generalize tiles.foldl (beginTile f l (f.due / 8)) ({ s with flights := [] }, []) = r at hnone ⊢
  have hspan := strikeSpan_ge r.1 l r.2
  split
  · simp [hnone]
  · simp only [follow, hnone, List.nil_append, List.forall_mem_singleton]
    omega

/-- Outputs that join a reduction group lead to nothing that is due. -/
theorem landDue_outputs_part {s : State} {f : Flight} {l : StrikeLeg} {rs : List TileOuts} {cc : Nat} (hs : s.flights = [f])
    (hw : f.what = .outputs l rs) (hd : f.due ≤ cc) (hp : l.part = true) : landDue s cc = landOutputs { s with flights := [] } f l rs := by
  refine landDue_then s _ f cc hs hd (by rw [hw]; exact Nat.succ_ne_zero _) (by rw [landOne, hw]) ?_
  have hnone : (landOutputs { s with flights := [] } f l rs).flights = [] := by
    rw [landOutputs, if_pos hp]
    exact flightCons_flights ..
  simp [hnone]

/-- Converted outputs leave the state with their drain under way, where the string bus and the banks are free. -/
theorem landOutputs_drained {s : State} {f : Flight} {l : StrikeLeg} {rs : List TileOuts} (hp : l.part = false) {c : State × List PVal}
    (hc : convOuts s f.core l.ofmt (rs.flatMap TileOuts.outs) = c) {bs : List MByte} (hbs : c.2.flatMap (outBytes l.ofmt) = bs)
    (hbus : vget 0 (getCore s f.core).busFree l.string.toNat ≤ f.due / 8)
    (hbanks : banksFree (getCore s f.core) (drainUse (l.oaddr.toNat * 64) bs.length (f.due / 8)) = true) :
    landOutputs s f l rs =
      follow (flightCons (takeBus (takeBanks c.1 f.core (drainUse (l.oaddr.toNat * 64) bs.length (f.due / 8))) f.core l.string.toNat
          (f.due / 8 + 2 + cdiv bs.length 1024)) f (flagOuts c.2))
        f (8 * (f.due / 8 + 2 + cdiv bs.length 1024)) (.write [(f.core, l.oaddr.toNat * 64, bs)] {} []) := by
  unfold landOutputs
  dsimp only
  rw [hp, hc, hbs, busIdle, decide_eq_true hbus, hbanks, if_neg Bool.false_ne_true, if_neg (by decide)]

theorem landDue_outputs_drained {s : State} {f : Flight} {l : StrikeLeg} {rs : List TileOuts} {cc : Nat} (hs : s.flights = [f])
    (hw : f.what = .outputs l rs) (hd : f.due ≤ cc) (hcc : cc < f.due + 8) (hp : l.part = false) {c : State × List PVal}
    (hc : convOuts { s with flights := [] } f.core l.ofmt (rs.flatMap TileOuts.outs) = c) {bs : List MByte} (hbs : c.2.flatMap (outBytes l.ofmt) = bs)
    (hbus : vget 0 (getCore s f.core).busFree l.string.toNat ≤ f.due / 8)
    (hbanks : banksFree (getCore s f.core) (drainUse (l.oaddr.toNat * 64) bs.length (f.due / 8)) = true) :
    landDue s cc =
      follow (flightCons (takeBus (takeBanks c.1 f.core (drainUse (l.oaddr.toNat * 64) bs.length (f.due / 8))) f.core l.string.toNat
          (f.due / 8 + 2 + cdiv bs.length 1024)) f (flagOuts c.2))
        f (8 * (f.due / 8 + 2 + cdiv bs.length 1024)) (.write [(f.core, l.oaddr.toNat * 64, bs)] {} []) := by
  refine landDue_then s _ f cc hs hd (by rw [hw]; exact Nat.succ_ne_zero _)
    (by rw [landOne, hw]; exact landOutputs_drained hp hc hbs hbus hbanks) ?_
  have hnone : c.1.flights = [] := by rw [← hc]; rfl
  have hdue : cc < 8 * (f.due / 8 + 2 + cdiv bs.length 1024) := by omega
  simpa [follow, flightCons_flights, takeBus, takeBanks, modCore, hnone] using hdue

/-! ## SELECT (R48–R51) -/

theorem selectTile_switching {s : State} {ctx : LegCtx} {l : SelectLeg} {t : Nat}
    (h : switchingAt (getTile s (legTile s ctx l.string.toNat t)) s.alm.beat.toNat = true) : selectTile ctx l s t = legFault s ctx 5 := by
  simp only [selectTile, h, ↓reduceIte]

/-- A tile that is not switching and whose active deck is another one. -/
theorem selectTile_other {s : State} {ctx : LegCtx} {l : SelectLeg} {t : Nat}
    (h : switchingAt (getTile s (legTile s ctx l.string.toNat t)) s.alm.beat.toNat = false)
    (ha : activeDeck s (getTile s (legTile s ctx l.string.toNat t)) ≠ some l.deck) :
    selectTile ctx l s t =
      if slotBeat (getTile s (legTile s ctx l.string.toNat t)) s.alm.beat.toNat then legFault s ctx 5
      else if s.alm.beat.toNat < (getTile s (legTile s ctx l.string.toNat t)).workEnd then legFault s ctx 1
      else modTile s (legTile s ctx l.string.toNat t) fun x =>
        { x with active := none, switchTo := some l.deck, switchBeat := s.alm.beat, lastSel := some l.deck } := by
  simp only [selectTile, h, ha, Bool.false_eq_true, ↓reduceIte]

/-! ## REDUCE (R135, R136, R585) -/

theorem reduceRun_issued {s : State} {ctx : LegCtx} {l : ReduceLeg} {f : Fetched} (hi : Issued s ctx (.reduce l) f) (ho : reduceLegOk l = true)
    {t : State} {p : Nat} (ht : atLeg s ctx f.cyc = t) (hphys : physOf t ctx.core = p) {sets : List PartialSet} (hsets : reduceSets (getCore t p) ctx l = sets)
    {string n : Nat} (hstring : (sets.map PartialSet.string).headD 0 = string)
    (hn : min l.nout.toNat ((sets.map fun x => x.outs.length).foldl max 0) = n) (hidle : reduceIdle t p l string = true)
    (hbanks : banksFree (getCore t p) (reduceUse l t.alm.beat.toNat) = true)
    (hdst : l.dest = false → wsOwned t p ctx.eng (l.oaddr.toNat * 64) (n * (fmtBits l.ofmt / 8)) = true)
    (hacc : l.acc = true → wsOwned t p ctx.eng (l.iaddr.toNat * 64) (4 * n) = true) {rs : List (PVal × Bool)}
    (hrs : (List.range n).map (reduceOne sets l (wsRead t p (l.iaddr.toNat * 64) (4 * n))) = rs) {fin : Nat}
    (hfin : t.alm.beat.toNat + reduceBeats l = fin) :
    reduceRun s ctx l = launch (modCore (takeBanks t p (reduceUse l t.alm.beat.toNat)) p fun c =>
      { c with cvtSat := satAdd c.cvtSat (rs.filter Prod.snd).length, groups := dropSets c.groups sets
               stageFree := if l.level then fin else c.stageFree
               busFree := if l.level then c.busFree else vmod c.busFree string fun _ => fin }) ctx (8 * fin) (.reduced l string (rs.map Prod.fst)) := by
  have hd : (!l.dest && !wsOwned t p ctx.eng (l.oaddr.toNat * 64) (n * (fmtBits l.ofmt / 8))) = false := by
    cases hv : l.dest
    · simpa using hdst hv
    · rfl
  have ha : (l.acc && !wsOwned t p ctx.eng (l.iaddr.toNat * 64) (4 * n)) = false := by
    cases hv : l.acc
    · rfl
    · simpa using hacc hv
  rw [reduceRun, onLeg_issued s ctx _ f _ hi]
  dsimp only
  rw [ht, hphys, hsets, hstring, hn, hrs, hfin, ho, hidle, hbanks, hd, ha, if_neg (by decide), if_neg (by decide), if_neg Bool.false_ne_true,
    if_neg Bool.false_ne_true]

/-- Settles O33. -/
theorem strikesSelectsAndReductions : Obligations.StrikesSelectsAndReductions := by
  refine ⟨⟨fun s ctx l f hi ho hown => ⟨fun hr => next_congr ?_, fun hr => next_congr ?_⟩,
      fun ctx l a t => ⟨fun b hfault hb => takeStrike_takes hfault hb, fun c hfault => takeStrike_faults hfault⟩,
      fun s f l tiles cc hs hw hd hc => landDue_strike hs hw hd hc,
      fun s f l rs cc hs hw hd hc => ⟨fun hp => ?_, fun hp hbus hbanks => landDue_outputs_drained hs hw hd hc hp rfl rfl hbus hbanks⟩,
      fun s ctx l f hi hl => next_congr (selectRun_issued hi hl),
      fun s ctx l t => ⟨selectTile_switching, fun h ha => ⟨fun hslot => ?_, fun hslot hwork => ?_, fun hslot hwork => ?_⟩⟩⟩,
    fun s ctx l f hi ho hidle hbanks hdst hacc => next_congr (reduceRun_issued hi ho rfl rfl rfl rfl rfl hidle hbanks hdst hacc rfl (Nat.add_assoc ..).symm),
    fun l string outs => comesAbout_of_step _ _ rfl fun s f hw => by rw [landOne, hw]; rfl⟩
  · rw [strikeRun_issued hi ho hown rfl, if_neg (by simpa using hr)]
  · rw [strikeRun_issued hi ho hown rfl, if_pos (by simpa using hr)]
  · rw [landDue_outputs_part hs hw hd hp, landOutputs, if_pos hp]
  · exact (selectTile_other h ha).trans (if_pos hslot)
  · exact (selectTile_other h ha).trans ((if_neg (ne_true_of_eq_false hslot)).trans (if_pos hwork))
  · exact (selectTile_other h ha).trans ((if_neg (ne_true_of_eq_false hslot)).trans (if_neg (Nat.not_lt.mpr hwork)))

end Sys2Proof.Machine
end

section
/-! PROOFS. Device channels, fetches and deadlines (R221, R228, R244, R283, R284, R306–R311). -/

namespace Sys2Proof.Machine

/-! ## Device channels (R244, R306, R308) -/

theorem channelMove_owned {s : State} {e op : Nat} {d : PorterDesc} {rs : List (Nat × Nat × Bool)} (ho : descOk d = true) (hop : d.op.toNat = op)
    (hr : foreignOffset s e rs = none) (act : State) : channelMove s e op d rs act = act := by
  rw [channelMove, ho, hop, bne_self_eq_false, if_neg (by decide), hr]

theorem windowMove_out {s : State} {e : Nat} {d : PorterDesc} (ho : descOk d = true) (hop : d.op = 9)
    (hr : foreignOffset s e (rowRanges d.src d.sstride d.len d.rows false) = none)
    (hw : ∀ i < d.rows, windowDevice s (d.dst + i * d.dstride) d.len = true) :
    windowMove s e d true = scatter winPost d.dst d.dstride d.len s (engGather s e d) := by
  rw [windowMove, if_pos rfl, channelMove_owned (op := 9) ho (congrArg BitVec.toNat hop) hr,
    if_pos (List.all_eq_true.mpr fun i hi => hw i (List.mem_range.mp hi))]

theorem windowMove_in {s : State} {e : Nat} {d : PorterDesc} (ho : descOk d = true) (hop : d.op = 9)
    (hr : foreignOffset s e (rowRanges d.dst d.dstride d.len d.rows true) = none)
    (hw : ∀ i < d.rows, windowDevice s (d.src + i * d.sstride) d.len = true) :
    windowMove s e d false = scatter (fun v a b => engPost v e a b) d.dst d.dstride d.len s
      ((List.range d.rows).flatMap fun i => winRead s (d.src + i * d.sstride) d.len) := by
  rw [windowMove, if_neg Bool.false_ne_true, channelMove_owned (op := 9) ho (congrArg BitVec.toNat hop) hr,
    if_pos (List.all_eq_true.mpr fun i hi => hw i (List.mem_range.mp hi))]

theorem regionPack_owned {s : State} {e : Nat} {d : PorterDesc} {r : Region} (ho : descOk d = true) (hop : d.op = 10)
    (hreg : ownRegion s e d.region = some r) (hkept : packerKept s e d.region = false) (hkv : r.kv = false)
    (hr : foreignOffset s e (rowRanges d.src d.sstride d.len d.rows false ++ [(r.base, regionBytes r, true)]) = none) {bs : List MByte}
    (hbs : engGather s e d = bs) {t : State}
    (ht : (if d.blk = 0 then writeTable (fun v e off b => engPost v e off b) e d.region r bs s else s) = t) :
    regionPack s e d = packRun (fun v e off b => engPost v e off b) e d.region r (tableOf (plainOf (regionTable t e r))) t d.blk
      (cutBlocks (bs.length + 1) (rawBytes r.fmt) bs) := by
  unfold regionPack
  simp only [hreg, hkept, hkv, Bool.false_eq_true, ↓reduceIte, channelMove_owned (op := 10) ho (congrArg BitVec.toNat hop) hr, hbs, ht]

/-! ## Data that arrives (R252, R310) -/

section
variable {s : State} {core i n : Nat} {errs : List (Nat × CwErr)} {p : Nat} {r : PendRead} {k : Nat}

theorem dataArrives_lands (hp : physOf s core = p) (hr : (getCore s p).reads[i]? = some r) (hk : min n (fetchTotal s r.eng r.desc - r.arrived) = k) (h0 : 0 < k)
    (hend : readEnded s (getCore s p) r = false) {s2 s3 : State}
    (h2 : (if inTail s r k && !r.usedTail then modCore s p fun c => { c with prtTail := satAdd c.prtTail 1 } else s) = s2)
    (h3 : modRead s2 p r.id (fun x => { x with arrived := x.arrived + k, usedTail := x.usedTail || inTail s r k }) = s3) :
    dataArrives s core i n errs = { s3 with flights := s3.flights ++
      [{ due := 8 * (s.alm.beat.toNat + 2), core := p, ctx := { core := Fin.ofNat 32 core, eng := r.eng, circuit := r.circuit, leg := r.leg }
         cons := none, what := .arrive r.id k errs }] } := by
  unfold dataArrives
  simp only [hp, hr, hk, Nat.ne_of_gt h0, hend, Bool.false_eq_true, ↓reduceIte, h2, h3]

theorem dataArrives_ended (hp : physOf s core = p) (hr : (getCore s p).reads[i]? = some r) (hk : min n (fetchTotal s r.eng r.desc - r.arrived) = k) (h0 : 0 < k)
    (hend : readEnded s (getCore s p) r = true) : dataArrives s core i n errs = dropRead s p r.id := by
  unfold dataArrives
  simp only [hp, hr, hk, Nat.ne_of_gt h0, hend, ↓reduceIte]

theorem dataArrives_none (hp : physOf s core = p) (hr : (getCore s p).reads[i]? = some r) (hk : min n (fetchTotal s r.eng r.desc - r.arrived) = 0) :
    dataArrives s core i n errs = s := by
  unfold dataArrives
  simp only [hp, hr, hk, ↓reduceIte]

end

/-- A whole codeword drains without a read of what it replaces. -/
theorem drainWrite_whole {s : State} {w : Posted} {r : List Posted} (hw : s.prt.writes = w :: r) (hwhole : wholeCw w = true) (err : CwErr) :
    drainWrite s err = noteStaging (landWrite { s with prt := { s.prt with writes := r } } w) := by
  unfold drainWrite
  simp only [hw, hwhole, Bool.not_true, Bool.false_and, Bool.false_eq_true, ↓reduceIte]

/-- A consignment whose tokens are done ends with what was written of its output. -/
theorem consignmentComplete_done {s t : State} {c q n k : Nat} {e0 e : QEntry} (h0 : getQ s c q = some e0) (ht : retireCircuits s e0.eng = t)
    (he : getQ t c q = some e) (hst : e.st = .started) (hc : e.cancelled = false) (hdone : e.tokens ≤ e.done) (hk : min n e.outBytes.toNat = k) :
    consignmentComplete s c q n =
      endCons (modQ t c q fun e => { e with outWritten := k }) c q (if winPoisoned t e.outAddr.toNat k then stIntegrity else stOk) := by
  unfold consignmentComplete
  simp only [h0, ht, he, hk]
  exact if_pos ⟨hst, hc, hdone⟩

/-! ## Deadlines (R221, R226, R228, R283, R284) -/

theorem countLate_eq (s : State) (p : Nat) (r : PendRead) :
    countLate s p r = if r.judged = none then modCore s p fun k => { k with prtLate := satAdd k.prtLate 1 } else s := by
  unfold countLate
  cases r.judged <;> rfl

/-- The late fetches of a circuit whose deadline is the same: one hold counts for all of them. -/
def lateMates (s : State) (p : Nat) (r : PendRead) : List PendRead :=
  (getCore s p).reads.filter fun x => x.eng == r.eng && x.circuit == r.circuit && x.late == 2 && !x.sampled && x.dl == r.dl && !readComplete s x

theorem lateWeights_holds {s : State} {core p : Nat} {r : PendRead} (h : r.holds < 16) {u : State}
    (hu : forEach (lateMates s p r) (forEach (lateMates s p r) s fun s x => countLate s p x) (fun v x =>
      modRead v p x.id fun y => { y with holds := y.holds + 1, judged := some r.dl.toNat }) = u) :
    lateWeights s core p r = holdNotice
      (if (getEng u r.eng).holds.contains (BitVec.ofNat 64 (r.dl.toNat + 64)) then u else modCore u p fun k => { k with stallHolds := satAdd k.stallHolds 1 })
      none (packNat [(r.eng.val, 0, 6), ((r.dl.toNat + 64) % 2 ^ 24, 6, 24)]) := by
  unfold lateMates at hu
  unfold lateWeights
  dsimp only
  rw [if_pos h, hu]
  cases (getEng u r.eng).holds.contains (BitVec.ofNat 64 (r.dl.toNat + 64)) <;> rfl

theorem lateWeights_gives_up {s : State} {core p : Nat} {r : PendRead} (h : 16 ≤ r.holds) {u : State}
    (hu : forEach (lateMates s p r) (forEach (lateMates s p r) s fun s x => countLate s p x) (fun v x =>
      modRead (poisonRest v p x) p x.id fun y => { y with sampled := true }) = u) :
    lateWeights s core p r = consPoison (modCore u p fun k => { k with stallGiveup := satAdd k.stallGiveup 1 }) (readCtx core r) := by
  unfold lateMates at hu
  unfold lateWeights
  dsimp only
  rw [if_neg (Nat.not_lt.mpr h), hu]

/-- The state a fetch leaves at its deadline. -/
def judgedRead (s : State) (core p : Nat) (r : PendRead) : State :=
  if readComplete s r then dropRead (if r.late = 1 then modCore s p (judgeKv r false) else s) p r.id
  else if r.late = 1 then modCore (modRead (countLate s p r) p r.id fun x => { x with sampled := true }) p (judgeKv r true)
  else lateWeights s core p r

theorem sampleDeadline_open {s t : State} {core i p : Nat} {r0 r : PendRead} (hp : physOf s core = p) (h0 : (getCore s p).reads[i]? = some r0)
    (hs : r0.sampled = false) (hj : r0.judged ≠ some r0.dl.toNat) (ht : advanceTo s r0.dl.toNat = t)
    (hr : ((getCore t p).reads.find? fun x => x.id == r0.id) = some r) : sampleDeadline s core i = judgedRead t core p r := by
  unfold sampleDeadline
  simp only [hp, h0, hs, hj, Bool.false_eq_true, or_self, ↓reduceIte, ht, hr]
  rfl

/-- Settles O39. -/
theorem fetchesAndDeadlines : Obligations.FetchesAndDeadlines := by
  refine ⟨⟨fun s e ch d ho hop hr => next_congr (channelMove_owned ho (congrArg BitVec.toNat hop) hr _),
      fun s e ch d ho hop => ⟨fun hr hw => next_congr (windowMove_out ho hop hr hw), fun hr hw => next_congr (windowMove_in ho hop hr hw)⟩,
      fun s e ch d r ho hop hreg hkept hkv hr => next_congr (regionPack_owned ho hop hreg hkept hkv hr rfl rfl),
      fun s c i n errs r hr => ⟨fun h0 hend => next_congr (dataArrives_lands rfl hr rfl h0 hend rfl rfl),
        fun h0 hend => next_congr (dataArrives_ended rfl hr rfl h0 hend), fun h0 => next_congr (dataArrives_none rfl hr h0)⟩,
      fun id n errs => comesAbout_of_step _ _ rfl fun s f hw => by rw [landOne, hw]; rfl,
      fun s w r err hw hwhole => next_congr (drainWrite_whole hw hwhole err),
      fun s c q n e0 e h0 he hst hc hdone => next_congr (consignmentComplete_done h0 rfl he hst hc hdone rfl)⟩,
    fun s c i r0 r h0 hs hj hr => ?_⟩
  have hrun := sampleDeadline_open (core := c) rfl h0 hs hj rfl hr
  have hcount : (fun v x => countLate v (physOf s c) x) = fun v (x : PendRead) =>
      if x.judged = none then modCore v (physOf s c) fun k => { k with prtLate := satAdd k.prtLate 1 } else v :=
    funext fun v => funext fun x => countLate_eq v (physOf s c) x
  unfold judgedRead at hrun
  refine ⟨fun hc hl => next_congr ?_, fun hc hl => next_congr ?_, fun hc hl => next_congr ?_, fun hc hl hh => next_congr ?_,
    fun hc hl hh => next_congr ?_⟩
  · rw [hc, if_pos rfl, if_pos hl] at hrun
    refine hrun.trans (congrArg (dropRead · _ _) (congrArg (modCore _ _) (funext fun k => ?_)))
    exact congrArg (fun v => { k with kvLate := v }) (List.append_nil _)
  · rw [hc, if_pos rfl, if_neg hl] at hrun
    exact hrun
  · rw [hc, if_neg Bool.false_ne_true, if_pos hl, countLate_eq] at hrun
    exact hrun
  · rw [hc, if_neg Bool.false_ne_true, if_neg hl, lateWeights_holds hh rfl, hcount] at hrun
    exact hrun
  · rw [hc, if_neg Bool.false_ne_true, if_neg hl, lateWeights_gives_up hh rfl, hcount] at hrun
    exact hrun

end Sys2Proof.Machine
end

section
/-! PROOFS. The boot store: its operations, its read path, its images and their refresh (R465–R488). -/

namespace Sys2Proof.Machine

/-! ## Operations (R469–R475) -/

theorem bstStartProgram_outOfOrder {s : State} {l : List (Nat × Word)} (h : bstProgramSeq l = none) : bstStartProgram s l = bstCmdErr s := by
  simp only [bstStartProgram, h]

/-- A PROGRAM of a locked sector, of one without its mark or of cells that are not erased sets OPERR. -/
theorem bstStartProgram_opErr {s : State} {l data : List (Nat × Word)} {page : Nat} (h : bstProgramSeq l = some (page, data))
    (hidle : s.bst.busy = false)
    (hno : page / 65536 < 4 ∨ bstMarked s.bst (page / 65536) = false ∨ ∃ w ∈ bstPageWords page data, bstErased s w.1 = false) :
    bstStartProgram s l = bstMod s fun b => { b with opErr := true, opErase := false, sector := BitVec.ofNat 10 (page / 65536) } := by
  have hno : page / 65536 < 4 ∨ bstMarked s.bst (page / 65536) = false ∨ ((bstPageWords page data).all fun w => bstErased s w.1) = false := by
    simpa [List.all_eq_false] using hno
  simp only [bstStartProgram, h, hidle, Bool.false_eq_true, ↓reduceIte]
  exact if_pos hno

theorem bstStartErase_outOfOrder {s : State} {l : List (Nat × Word)} (h : bstEraseSeq l = none) : bstStartErase s l = bstCmdErr s := by
  simp only [bstStartErase, h]

theorem dropImage_eq (b : Bst) (sec : Nat) : dropImage b sec = { b with images := (dropImage b sec).images } := by
  unfold dropImage
  split <;> rfl

theorem dropImage_unmarked (b : Bst) (sec : Nat) : (dropImage b sec).unmarked = b.unmarked := by rw [dropImage_eq]

theorem bstStartErase_accepted {s : State} {l : List (Nat × Word)} {sec : Nat} (h : bstEraseSeq l = some sec) (hidle : s.bst.busy = false)
    (hsec : 4 ≤ sec) :
    bstStartErase s l = bstMod s fun b =>
      { b with busy := true, susp := false, opErase := true, sector := BitVec.ofNat 10 sec, suspCnt := 0, seg := 0
               unmarked := sec :: b.unmarked.erase sec, images := (dropImage b sec).images } := by
  simp only [bstStartErase, h, hidle, Nat.not_lt.mpr hsec, Bool.false_eq_true, ↓reduceIte, bstMod, dropImage_unmarked]

theorem bstStartErase_locked {s : State} {l : List (Nat × Word)} {sec : Nat} (h : bstEraseSeq l = some sec) (hidle : s.bst.busy = false)
    (hsec : sec < 4) : bstStartErase s l = bstMod s fun b => { b with opErr := true, opErase := true, sector := BitVec.ofNat 10 sec } := by
  simp only [bstStartErase, h, hidle, hsec, Bool.false_eq_true, ↓reduceIte]

theorem bstDoSuspend_running {s : State} {l : List (Nat × Word)} (h : bstShort 3 l = true) (hb : s.bst.busy = true) (he : s.bst.opErase = true)
    (hs : s.bst.susp = false) : bstDoSuspend s l = bstMod s fun b => { b with susp := true, suspCnt := satAdd b.suspCnt 1 } := by
  simp only [bstDoSuspend, h, hb, he, hs, Bool.and_self, Bool.not_false, ↓reduceIte]

theorem bstDoSuspend_refused {s : State} {l : List (Nat × Word)}
    (h : bstShort 3 l = false ∨ s.bst.busy = false ∨ s.bst.opErase = false ∨ s.bst.susp = true) : bstDoSuspend s l = bstCmdErr s := by
  rw [bstDoSuspend, if_neg]
  rcases h with h | h | h | h <;> simp [h]

theorem bstDoResume_refused {s : State} {l : List (Nat × Word)} (h : bstShort 4 l = false ∨ s.bst.busy = false ∨ s.bst.susp = false) :
    bstDoResume s l = bstCmdErr s := by
  rw [bstDoResume, if_neg]
  rcases h with h | h | h <;> simp [h]

theorem bstDoAbort_refused {s : State} {l : List (Nat × Word)} (h : bstShort 5 l = false ∨ s.bst.busy = false) : bstDoAbort s l = bstCmdErr s := by
  rw [bstDoAbort, if_neg]
  rcases h with h | h <;> simp [h]

/-- Where cells are indeterminate every byte of the range is a free one. -/
theorem bstScramble_eq (s : State) (off n : Nat) :
    bstScramble s off n =
      { s with free := s.free + n
               mem := { s.mem with boot := ssetRun 0xFF s.mem.boot off ((List.range n).map fun i => Config.indeterminateByte (s.free + i)) } } := rfl

/-- The boot store after the operation under way was cut short. -/
def cutShortBst (b : Bst) : Bst :=
  { b with busy := false, susp := false, page := none, prefetch := [], branch := [], images := (dropImage b b.sector.toNat).images }

theorem bstFlush_dropImage (b : Bst) :
    bstFlush { (dropImage b b.sector.toNat) with busy := false, susp := false, page := none } = cutShortBst b := by
  rw [dropImage_eq]
  rfl

theorem bstDoAbort_running {s : State} {l : List (Nat × Word)} (h : bstShort 5 l = true) (hb : s.bst.busy = true) : bstDoAbort s l = bstCutShort s := by
  rw [bstDoAbort, h, hb, if_pos (by decide)]

theorem bstCutShort_erase {s : State} (hb : s.bst.busy = true) (he : s.bst.opErase = true) :
    bstCutShort s = bstMod (bstScramble s (s.bst.sector.toNat * 65536) 65536) cutShortBst := by
  rw [bstCutShort, if_pos hb, if_pos he]
  exact congrArg (bstMod _) (funext bstFlush_dropImage)

theorem bstCutShort_program {s : State} {page : Nat} {ws : List (Nat × List Word)} (hb : s.bst.busy = true) (he : s.bst.opErase = false)
    (hp : s.bst.page = some (page, ws)) : bstCutShort s = bstMod (bstScramble s page 256) cutShortBst := by
  rw [bstCutShort, if_pos hb, if_neg (ne_true_of_eq_false he), hp]
  exact congrArg (bstMod _) (funext bstFlush_dropImage)

section
variable {s : State} (hb : s.bst.busy = true) (he : s.bst.opErase = true) (hs : s.bst.susp = false)
include hb he hs

theorem bstSegment_more (ok : Bool) : bstSegment s false ok = bstMod s fun b => { b with seg := satAdd b.seg 1 } := by
  rw [bstSegment, hb, he, hs, if_pos (by decide)]
  exact if_neg Bool.false_ne_true

theorem bstSegment_verified :
    bstSegment s true true =
      { s with mem := { s.mem with boot := sclear s.mem.boot (s.bst.sector.toNat * 65536) 65536 }
               bst := { s.bst with seg := satAdd s.bst.seg 1, busy := false, unmarked := s.bst.unmarked.erase s.bst.sector.toNat
                                   prefetch := [], branch := [] } } := by
  rw [bstSegment, hb, he, hs, if_pos (by decide)]
  rfl

theorem bstSegment_failed :
    bstSegment s true false =
      bstScramble (bstMod s fun b => { b with seg := satAdd b.seg 1, busy := false, opErr := true, prefetch := [], branch := [] })
        (s.bst.sector.toNat * 65536) 65536 := by
  rw [bstSegment, hb, he, hs, if_pos (by decide)]
  exact (if_pos rfl).trans (if_neg Bool.false_ne_true)

end

theorem sget_sclear {V : Type} (d : V) (m : Sparse V) (lo n a : Nat) :
    sget d (sclear m lo n) a = if lo ≤ a ∧ a < lo + n then d else sget d m a := by
  induction m with
  | nil => simp [sclear, sget]
  | cons e m ih =>
    unfold sclear at ih ⊢
    rw [List.filter_cons]
    by_cases hout : e.1 < lo ∨ lo + n ≤ e.1
    · rw [if_pos (by simpa using hout), sget, sget, ih]
      by_cases ha : a = e.1
      · have hin : ¬(lo ≤ a ∧ a < lo + n) := by omega
        rw [if_pos ha, if_pos ha, if_neg hin]
      · rw [if_neg ha, if_neg ha]
    · rw [if_neg (by simpa using hout), sget, ih]
      by_cases ha : a = e.1
      · have hin : lo ≤ a ∧ a < lo + n := by omega
        rw [if_pos hin, if_pos hin]
      · rw [if_neg ha]

/-- Settles O25. -/
theorem bootStoreCommands : Obligations.BootStoreCommands := by
  refine ⟨⟨fun s l page data h hidle hsec hmark herased => next_congr ?_,
      fun s l page data h hidle hno => next_congr (bstStartProgram_opErr h hidle hno),
      fun s l => ⟨fun h => next_congr (h.elim bstStartProgram_outOfOrder (bstStartProgram_busy · l)),
        fun h => next_congr (h.elim bstStartErase_outOfOrder (bstStartErase_busy · l)), fun h => next_congr (bstDoSuspend_refused h),
        fun h => next_congr (bstDoResume_refused h), fun h => next_congr (bstDoAbort_refused h)⟩,
      fun s l sec h hidle hsec => next_congr (bstStartErase_accepted h hidle hsec), fun s l sec h hidle hsec => next_congr (bstStartErase_locked h hidle hsec),
      fun s l h hb he hs => next_congr (bstDoSuspend_running h hb he hs), fun s l h hb hs => next_congr (bstDoResume_suspended h hb hs),
      fun s l h hb he => next_congr ?_, fun s l page ws h hb he hp => next_congr ?_⟩,
    fun s page ws hb he hp => next_congr (bstFinishProgram_page hb he hp), fun s ok hb he hs => next_congr (bstSegment_more hb he hs ok),
    fun s hb he hs => ?_, fun s hb he hs => next_congr ?_⟩
  · exact bstStartProgram_accepted h hidle hsec hmark ((pageWords_erased h s).mp (List.all_eq_true.mpr herased))
  · rw [bstDoAbort_running h hb, bstCutShort_erase hb he, bstScramble_eq]
    rfl
  · rw [bstDoAbort_running h hb, bstCutShort_program hb he hp, bstScramble_eq]
    rfl
  · refine ⟨_, next_congr (bstSegment_verified hb he hs), rfl, fun k => ?_⟩
    exact sget_sclear ..
  · rw [bstSegment_failed hb he hs, bstScramble_eq]
    rfl

/-! ## Reads of the array (R465–R467) -/

theorem bstRead_prefetched {s : State} {off : Nat} (hrun : s.bst.busy = false ∨ s.bst.susp = true) (hp : off / 32 * 32 ∈ s.bst.prefetch) (n : Nat)
    (fetch taken : Bool) :
    bstRead s off n fetch taken = bstMod s fun b => { b with readData := bstBytes s (off / 32 * 32) 32, fetchFault := false, loadAbort := false } := by
  have hrun : (s.bst.busy && !s.bst.susp) = false := by rcases hrun with h | h <;> simp [h]
  simp only [bstRead, hrun, List.contains_eq_mem, hp, decide_true, Bool.false_eq_true, ↓reduceIte]

/-- What the count of an array word is where it is not erased and has at most the errors the code detects. -/
theorem readCount_le {s : State} {base n : Nat} (h : bstErased s base = false) (hn : n ≤ 4) : readCount s base n = n := by
  rw [readCount, if_neg (ne_true_of_eq_false h), bstCount, if_pos hn]

theorem readCount_five {s : State} {base : Nat} (h : bstErased s base = false) : readCount s base 5 = 7 := by
  rw [readCount, if_neg (ne_true_of_eq_false h), bstCount, if_neg (by decide), if_pos (.inl rfl)]

/-- A load of a word that is corrected: its data, its count, and WARN with its address at THR. -/
theorem arrayRead_corrected (s : State) (base : Nat) {n : Nat} (hn : n ≤ 4) :
    arrayRead s base n n false false = bstMod s fun b =>
      { b with readData := bstBytes s base 32, fetchFault := false, loadAbort := false, lastCbc := BitVec.ofNat 3 n
               warn := b.warn || decide (b.thr.toNat ≤ n)
               eccWord := if decide (b.thr.toNat ≤ n) && !b.warn then BitVec.ofNat 21 (base / 32) else b.eccWord } := by
  have h5 : ¬5 < n := by omega
  have h7 : ¬n = 7 := by omega
  simp only [arrayRead, bstNote, bstMod, h5, h7, decide_false, Bool.or_false, Bool.false_eq_true, ↓reduceIte]

theorem arrayRead_uncorrectable (s : State) (base : Nat) (fetch taken : Bool) :
    arrayRead s base 5 7 fetch taken = bstMod (bstNote s base 7) fun b => { b with readData := [], fetchFault := fetch, loadAbort := !fetch } := by
  rw [arrayRead, if_pos rfl]
  exact congrArg (bstMod · _) (congrArg (bstNote · base 7) (if_neg (by decide)))

/-! ## Refresh, images and the fuse (R468, R480–R482) -/

theorem bstRefresh_runs {s : State} {src dst n : Nat} (hw : s.bst.warn = true) (hup : s.fac.up = true) (hidle : s.bst.busy = false)
    (hr : refreshRun s.bst (s.bst.eccWord.toNat * 32 / 65536) = some (src, dst, n)) :
    bstRefresh s = memMod (bstMod s fun b =>
      bstFlush { b with warn := false, eccWord := 0, unmarked := b.unmarked.erase (s.bst.eccWord.toNat * 32 / 65536) }) fun m =>
        { m with boot := scopyRun m.boot src dst n } := by
  simp only [bstRefresh, hw, hup, hidle, Bool.not_false, Bool.and_self, ↓reduceIte, hr]

theorem updateImage_received {s : State} {client : BitVec 384} {h : ImageHdr} {i : Fin 2} (hslot : s.fac.slot = some i)
    (hadmin : mgmtHas s client .admin = true) (hup : s.fac.up = true) (hidle : s.bst.busy = false) (hlen : h.len ≤ 25165440) :
    updateImage s client h = fireVector { s with
      bst := bstFlush { s.bst with images := vmod s.bst.images (1 - i.val) fun _ => { hdr := some h, written := true, pendingSt := true } }
      fac := { s.fac with pendingImg := true } } 22 := by
  simp only [updateImage, hslot, hadmin, hup, hidle, decide_eq_true hlen, Bool.not_false, Bool.and_self, ↓reduceIte]

theorem raiseSvn_raises {s : State} {client : BitVec 384} {h : ImageHdr} {i : Fin 2} (hslot : s.fac.slot = some i)
    (hhdr : (vget {} s.bst.images i.val).hdr = some h) (hadmin : mgmtHas s client .admin = true)
    (hactive : (vget {} s.bst.images i.val).active = true) (hsvn : s.bst.svnFuse.toNat < h.svn.toNat) :
    raiseSvn s client = bstMod s fun b => { b with svnFuse := h.svn } := by
  simp only [raiseSvn, hslot, hhdr, hadmin, hactive, decide_eq_true hsvn, Bool.and_self, ↓reduceIte]

/-- Settles O26. -/
theorem bootStoreReadsAndImages : Obligations.BootStoreReadsAndImages := by
  refine ⟨fun s off taken hrun => ⟨fun n hp => next_congr (bstRead_prefetched hrun hp n true taken), fun hp hb hin herased =>
      ⟨fun n hn => next_congr ?_, fun fetch _ => ?_⟩⟩,
    fun s src dst n hw hup hidle hr => next_congr (bstRefresh_runs hw hup hidle hr), fun s => rfl,
    fun s client h i hslot hadmin hup hidle hlen => next_congr (updateImage_received hslot hadmin hup hidle hlen),
    fun s client h i hslot hhdr hadmin hactive hsvn => next_congr (raiseSvn_raises hslot hhdr hadmin hactive hsvn)⟩
  all_goals
    have hout : s.bst.susp = false ∨ off.toNat / 65536 ≠ s.bst.sector.toNat := by
      rw [wordBase_div_sector] at hin
      exact (Bool.eq_false_or_eq_true s.bst.susp).symm.imp_right fun hs hsec => hin ⟨hs, hsec⟩
  · rw [bstRead_array hrun hp hb hout, readCount_le herased hn, arrayRead_corrected s _ hn]
    rfl
  · refine ⟨_, exec_bstArrayRead s off 5 fetch taken, ?_⟩
    rw [bstRead_array hrun hp hb hout, readCount_five herased, arrayRead_uncorrectable]
    exact ⟨rfl, Bool.or_true _, rfl, rfl, rfl, rfl, rfl⟩

end Sys2Proof.Machine
end

section
/-! PROOFS. Power states and wakes (R510–R519), supplies, regulators and the Toll (R520–R530). -/

namespace Sys2Proof.Machine

/-! ## WAITS and the entry into a power state (R510–R515) -/

theorem waits_free {s : State} (h : factorFree s = true) : waits s = waitsNow s := by rw [waits, if_pos h]

theorem waitsNow_enters {s : State} (ht : s.pwr.target ≠ s.pwr.st) (h0 : s.pwr.target ≠ 0) (hr : refusingUnit s s.pwr.target.toNat = none) :
    waitsNow s = freshen (beginEntry s) := by
  rw [waitsNow, if_neg ht, if_neg h0, hr]

theorem waitsNow_refuses {s : State} {u : Nat} (ht : s.pwr.target ≠ s.pwr.st) (h0 : s.pwr.target ≠ 0)
    (hr : refusingUnit s s.pwr.target.toNat = some u) : waitsNow s = freshen (refuseEntry s u) := by
  rw [waitsNow, if_neg ht, if_neg h0, hr]

theorem waitsNow_trek {s : State} (ht : s.pwr.target ≠ s.pwr.st) (h0 : s.pwr.target = 0) : waitsNow s = pwrMod s fun p => { p with st := 0 } := by
  rw [waitsNow, if_neg ht, if_pos h0]

theorem waitsNow_there {s : State} (ht : s.pwr.target = s.pwr.st) : waitsNow s = { s with fac := { s.fac with atWaits := true } } := by
  rw [waitsNow, if_pos ht]

theorem sleepPort_gpio (s : State) (p : Nat) : (sleepPort s p).gpio = s.gpio := by
  unfold sleepPort
  split
  · exact (fireVector_mailboxOnly ..).field State.gpio
  · rfl

theorem enterCamp_gpio (s : State) : (enterCamp s).gpio = s.gpio := by
  unfold enterCamp mapDecks
  dsimp only
  exact forEach_keeps State.gpio sleepPort sleepPort_gpio _ s

theorem enterDeepCamp_gpio (s : State) : (enterDeepCamp s).gpio = s.gpio := by
  unfold enterDeepCamp
  dsimp only
  rw [enterCamp_gpio]
  rfl

theorem enterDeepCamp_mem (s : State) :
    (enterDeepCamp s).mem = { s.mem with ws := [], wsPoison := [], sm := [], smValid := [], smPoison := [] } := by
  unfold enterDeepCamp
  dsimp only
  rw [enterCamp_mem]
  rfl

/-- What a power state's entry switches off, before PWR_STAT names the state. -/
def entered (s : State) : State := if s.pwr.target = 2 then enterCamp s else if s.pwr.target = 3 then enterDeepCamp s else s

theorem entered_gpio (s : State) : (entered s).gpio = s.gpio := by
  unfold entered
  split
  · exact enterCamp_gpio s
  · split
    · exact enterDeepCamp_gpio s
    · rfl

theorem sleepPort_pwr (s : State) (p : Nat) : (sleepPort s p).pwr = s.pwr := by
  unfold sleepPort
  split
  · exact (fireVector_mailboxOnly ..).pwr
  · rfl

theorem enterCamp_target (s : State) : (enterCamp s).pwr.target = s.pwr.target := by
  unfold enterCamp mapDecks
  dsimp only
  rw [forEach_keeps State.pwr sleepPort sleepPort_pwr]

theorem enterDeepCamp_target (s : State) : (enterDeepCamp s).pwr.target = s.pwr.target := by
  unfold enterDeepCamp
  dsimp only
  rw [enterCamp_target]
  rfl

theorem entered_target (s : State) : (entered s).pwr.target = s.pwr.target := by
  unfold entered
  split
  · exact enterCamp_target s
  · split
    · exact enterDeepCamp_target s
    · rfl

theorem entered_mem_kept {s : State} (h : s.pwr.target ≠ 3) : (entered s).mem = s.mem := by
  unfold entered
  split
  · exact enterCamp_mem s
  · rfl

theorem entered_mem_lost {s : State} (h : s.pwr.target = 3) :
    (entered s).mem = { s.mem with ws := [], wsPoison := [], sm := [], smValid := [], smPoison := [] } := by
  rw [entered, if_neg (by rw [h]; decide), if_pos h, enterDeepCamp_mem]

theorem entryComplete_entering {s : State} (h : s.pwr.entering = true) :
    entryComplete s =
      { pwrMod (entered s) fun p => { p with entering := false, st := p.target, epochsPassed := 0 } with
        gpio := { on := (entered s).gpio.on && s.pwr.target != 3
                  held := gpioLevels (pwrMod (entered s) fun p => { p with entering := false, st := p.target, epochsPassed := 0 }) s.pwr.target } } := by
  rw [entryComplete, if_pos h]
  rfl

theorem haltIdle_runs {s : State} (hf : factorFree s = true) (hst : s.pwr.st = 0) (hh : s.pwr.hint ≠ 2) (hc : chooseTarget s = 0)
    (hq : queuedEng s = none) : haltIdle s = waitsNow (pwrMod s fun p => { p with target := 1 }) := by
  rw [haltIdle, hf, hst, hc, hq, if_pos (by simpa using hh)]

/-! ## Wakes (R511, R514, R516, R517) -/

section
variable {s : State} (he : s.pwr.entering = false)

theorem wake_entering (h : s.pwr.entering = true) (code port : Nat) : wake s code port = abortEntry s := by rw [wake, if_pos h]

include he

theorem wake_halt (hst : s.pwr.st = 1) (code port : Nat) : wake s code port = { s with fac := { s.fac with atWaits := false } } := by
  rw [wake, he, if_neg Bool.false_ne_true, if_pos hst]

theorem wake_camp (hst : s.pwr.st = 2) (hx : s.pwr.exiting = false) (code port : Nat) :
    wake s code port = { s with pwr := { s.pwr with exiting := true, wake := BitVec.ofNat 3 code, wakePort := BitVec.ofNat 3 port } } := by
  rw [wake, he, if_neg Bool.false_ne_true, if_neg (by rw [hst]; decide), if_pos hst, hx, if_neg Bool.false_ne_true]

theorem wake_trek (hst : s.pwr.st = 0) (code port : Nat) : wake s code port = s := by
  rw [wake, he, if_neg Bool.false_ne_true, if_neg (by rw [hst]; decide), if_neg (by rw [hst]; decide), if_neg (by rw [hst]; decide)]

theorem wake_deep (hst : s.pwr.st = 3) (code port : Nat) :
    wake s code port = { beginReset s 1 true false false with
      pwr := { (beginReset s 1 true false false).pwr with wake := BitVec.ofNat 3 code, wakePort := BitVec.ofNat 3 port } } := by
  rw [wake, he, if_neg Bool.false_ne_true, if_neg (by rw [hst]; decide), if_neg (by rw [hst]; decide), if_pos hst]

end

theorem epochTimer_due {s : State} (h0 : s.pwr.epochs ≠ 0) (hp : s.pwr.epochs.toNat ≤ s.pwr.epochsPassed) : epochTimer s = wake s 4 0 := by
  rw [epochTimer, if_pos ⟨h0, hp⟩]

theorem targetTrek_awake {s : State} (hr : s.fac.running = true) (hst : s.pwr.st.toNat < 2) :
    targetTrek s = leaveHalt (pwrMod s fun p => { p with target := 0 }) 6 := by
  rw [targetTrek, hr, decide_eq_true hst, if_pos (by decide)]

/-- The state in Trek at the end of the exit from Camp, before held completions go out. -/
def backInTrek (s : State) : State :=
  let s0 := forEach [0, 1] s fun s i => modStack s i fun k => { k with lapEpoch := k.lapEpoch + s.pwr.epochsPassed }
  let s1 := retarget (pwrMod s0 fun p => { p with st := 0, exiting := false, adminTarget := 0 })
  { s1 with fac := { s1.fac with up := s1.fac.running && !s1.fac.resumePending && !inReset s1, atWaits := false } }

theorem campExit_done {s : State} (hst : s.pwr.st = 2) (hx : s.pwr.exiting = true) (hd : exitDone s = true) :
    campExit s = forEach (List.range 17) (backInTrek s) flushCompletions := by
  rw [campExit, hx, hd, decide_eq_true hst, if_pos (by decide)]
  rfl

theorem campExit_mailboxOnly {s : State} (hst : s.pwr.st = 2) (hx : s.pwr.exiting = true) (hd : exitDone s = true) :
    MailboxOnly (backInTrek s) (campExit s) := by
  rw [campExit_done hst hx hd]
  exact forEach_mailboxOnly flushCompletions_mailboxOnly ..

theorem backInTrek_lapEpoch (s : State) (k : Fin 2) : (getStack (backInTrek s) k).lapEpoch = (getStack s k).lapEpoch + s.pwr.epochsPassed := by
  have hstacks : getStack (backInTrek s) k = getStack (modStack (modStack s 0 fun k => { k with lapEpoch := k.lapEpoch + s.pwr.epochsPassed }) 1
    fun k => { k with lapEpoch := k.lapEpoch + s.pwr.epochsPassed }) k := rfl
  rw [hstacks]
  match k with
  | 0 => simp [getStack_modStack]
  | 1 => simp [getStack_modStack]

/-- Settles O53. -/
theorem powerStatesAndWakes : Obligations.PowerStatesAndWakes := by
  refine ⟨⟨fun s hf ht h0 => ⟨fun hr => next_congr ((waits_free hf).trans (waitsNow_enters ht h0 hr)), fun u hr =>
        ⟨_, next_congr ((waits_free hf).trans (waitsNow_refuses ht h0 hr)), rfl, rfl, rfl, rfl, rfl, rfl⟩⟩,
      fun s hf ht h0 => next_congr ((waits_free hf).trans (waitsNow_trek ht h0)), fun s hf ht => next_congr ((waits_free hf).trans (waitsNow_there ht)),
      fun s he => ⟨_, next_congr (entryComplete_entering he), entered_target s, rfl, ?_, rfl, ?_⟩,
      fun s hf hst hh hc hq => next_congr (haltIdle_runs hf hst hh hc hq), fun s => rfl⟩,
    fun s he => next_congr (wake_entering he 1 0), fun s he hst => next_congr (wake_halt he hst 1 0),
    fun s he hst hx => ⟨next_congr (wake_camp he hst hx 1 0), fun h0 hp => next_congr ((epochTimer_due h0 hp).trans (wake_camp he hst hx 4 0))⟩,
    fun s he hst => next_congr (wake_trek he hst 1 0),
    fun s he hst => ⟨next_congr (wake_deep he hst 1 0), fun h0 hp => next_congr ((epochTimer_due h0 hp).trans (wake_deep he hst 4 0))⟩,
    fun s hr hst => next_congr (targetTrek_awake hr hst), fun s hst hx hd => ?_⟩
  · exact congrArg (fun g => g.on && s.pwr.target != 3) (entered_gpio s)
  · change (entered s).mem.host = s.mem.host ∧ (entered s).mem.boot = s.mem.boot ∧ (s.pwr.target ≠ 3 → (entered s).mem = s.mem) ∧
      (s.pwr.target = 3 → (entered s).mem.ws = [] ∧ (entered s).mem.sm = [])
    by_cases h3 : s.pwr.target = 3
    · rw [entered_mem_lost h3]
      exact ⟨rfl, rfl, fun h => absurd h3 h, fun _ => ⟨rfl, rfl⟩⟩
    · rw [entered_mem_kept h3]
      exact ⟨rfl, rfl, fun _ => rfl, fun h => absurd h h3⟩
  · have hm := campExit_mailboxOnly hst hx hd
    refine ⟨campExit s, rfl, ?_⟩
    rw [hm.pwr, hm.decks, hm.ws, hm.sm, hm.fac]
    refine ⟨rfl, rfl, rfl, rfl, rfl, rfl, rfl, fun k => ?_⟩
    exact (congrArg Stack.lapEpoch (hm.field fun s => getStack s k)).trans (backInTrek_lapEpoch s k)

/-! ## Regulators (R520–R522) -/

section
variable {s : State} {p : Nat} (hrun : regulatorsRun s = true)
include hrun

/-- A regulator that may start and is neither on nor locked out, of a core that is no spare. -/
theorem ivrStart_runs (hon : (getCore s p).ivrOn = false) (hlock : (getCore s p).ivrLock = false) (hspare : s.ldg.spares.contains p = false) (short : Bool) :
    ivrStart s p short =
      if !short then modCore s p fun c => { c with ivrOn := true, ivrRetries := 0, varr := 1200 }
      else if (getCore s p).ivrRetries < 3 then modCore s p fun c => { c with ivrRetries := c.ivrRetries + 1 }
      else lockIvr s p := by
  unfold ivrStart
  dsimp only
  rw [hrun, hon, hlock, hspare, if_neg (by decide)]
  rfl

theorem pumpStart_runs {k : Nat} (hon : (vget {} (getCore s p).pumps k).on = false) (hlock : (vget {} (getCore s p).pumps k).lockout = false) (short : Bool) :
    pumpStart s p k short =
      if !short then modCore s p fun c => { c with pumps := vmod c.pumps k fun y => { y with on := true, retries := 0 } }
      else if (vget {} (getCore s p).pumps k).retries < 3 then
        modCore s p fun c => { c with pumps := vmod c.pumps k fun y => { y with retries := y.retries + 1 } }
      else lockPump s p k := by
  unfold pumpStart
  dsimp only
  rw [hrun, hon, hlock, if_neg (by decide)]
  rfl

end

theorem regulatorTrip_ivr {s : State} {p : Nat} (h : (getCore s p).ivrLock = false) : regulatorTrip s p none = lockIvr s p := by
  simp only [regulatorTrip, h, Bool.false_eq_true, ↓reduceIte]

theorem regulatorTrip_pump {s : State} {p k : Nat} (h : (vget {} (getCore s p).pumps k).lockout = false) :
    regulatorTrip s p (some k) = lockPump s p k := by
  simp only [regulatorTrip, h, Bool.false_eq_true, ↓reduceIte]

theorem varrStep_up {s : State} {p : Nat} (hon : (getCore s p).ivrOn = true) (hv : (getCore s p).varr = 900) :
    varrStep s p true = modCore s p fun c => { c with varr := 1200 } := by
  simp only [varrStep, hon, hv, Bool.not_true, Bool.false_eq_true, ↓reduceIte]

theorem varrStep_down {s : State} {p : Nat} (hon : (getCore s p).ivrOn = true) (hv : (getCore s p).varr = 1200) (hs : inStandby s p = true) :
    varrStep s p false = modCore s p fun c => { c with varr := 900 } := by
  simp only [varrStep, hon, hv, hs, Bool.not_true, Bool.false_eq_true, and_self, ↓reduceIte]

theorem laneStep_sleep {s : State} {p : Nat} (hst : (getPort s p).st = .sleep) (hv : (getPort s p).laneMv = 900) (hx : s.pwr.exiting = false) :
    laneStep s p true = modPort s p fun x => { x with laneMv := 700 } := by
  simp [laneStep, hst, hv, hx]

theorem laneStep_wake {s : State} {p : Nat} (hst : (getPort s p).st ≠ .lost) (hv : (getPort s p).laneMv = 700)
    (hx : s.pwr.exiting = true ∨ (getPort s p).st ≠ .sleep) : laneStep s p false = modPort s p fun x => { x with laneMv := 900 } := by
  rw [laneStep, if_neg hst, if_neg Bool.false_ne_true, if_pos ⟨hv, hx⟩]

/-! ## The Toll (R528–R530) -/

theorem tollSample_counts {s : State} (hr : inReset s = false) (hst : s.pwr.st ≠ 3) (q : Nat) :
    tollSample s q = { s with tol := { s.tol with sum1 := s.tol.sum1 + q, n1 := s.tol.n1 + 1, sum100 := s.tol.sum100 + q, n100 := s.tol.n100 + 1 } } := by
  rw [tollSample, hr, beq_eq_false_iff_ne.mpr hst, if_neg (by decide)]

theorem windowEnd_short {s : State} (h : 0 < s.tol.n1) :
    windowEnd s false = { s with tol := { s.tol with avg1 := windowAvg s.tol.sum1 s.tol.n1, sum1 := 0, n1 := 0 } } := by
  rw [windowEnd, if_neg Bool.false_ne_true, if_neg (Nat.ne_of_gt h)]

theorem windowEnd_long {s : State} (h : 0 < s.tol.n100) :
    windowEnd s true =
      if decide (4 * s.tol.limit.toNat * s.tol.n100 < s.tol.sum100) then
        fireVector { s with tol := { s.tol with
          avg100 := windowAvg s.tol.sum100 s.tol.n100, sum100 := 0, n100 := 0
          overLimit := s.tol.overLimit || decide (4 * s.tol.limit.toNat * s.tol.n100 < s.tol.sum100) } } 19
      else { s with tol := { s.tol with
        avg100 := windowAvg s.tol.sum100 s.tol.n100, sum100 := 0, n100 := 0
        overLimit := s.tol.overLimit || decide (4 * s.tol.limit.toNat * s.tol.n100 < s.tol.sum100) } } := by
  rw [windowEnd, if_pos rfl, if_neg (Nat.ne_of_gt h)]

/-- Settles O54. -/
theorem suppliesRegulatorsAndToll : Obligations.SuppliesRegulatorsAndToll := by
  refine ⟨⟨fun s => ⟨rfl, rfl, rfl, rfl, rfl, rfl⟩,
      fun s p hrun => ⟨fun hon hlock hspare => ⟨?_, fun hr => ?_, fun hr => ?_⟩, fun k hon hlock => ⟨?_, fun hr => ?_, fun hr => ?_⟩⟩,
      fun s p => ⟨fun h => next_congr (regulatorTrip_ivr h), fun k h => next_congr (regulatorTrip_pump h)⟩,
      fun s p hon => ⟨fun hv => next_congr (varrStep_up hon hv), fun hv hs => next_congr (varrStep_down hon hv hs)⟩,
      fun s p => ⟨fun hst hv hx => next_congr (laneStep_sleep hst hv hx), fun hst hv hx => next_congr (laneStep_wake hst hv hx)⟩⟩,
    fun s q hr hst => next_congr (tollSample_counts hr hst q), fun s h => next_congr (windowEnd_short h), fun s h => next_congr (windowEnd_long h)⟩
  · exact next_congr ((ivrStart_runs hrun hon hlock hspare false).trans (if_pos rfl))
  · exact next_congr ((ivrStart_runs hrun hon hlock hspare true).trans ((if_neg (by decide)).trans (if_pos hr)))
  · exact next_congr ((ivrStart_runs hrun hon hlock hspare true).trans ((if_neg (by decide)).trans (if_neg (Nat.not_lt.mpr hr))))
  · exact next_congr ((pumpStart_runs hrun hon hlock false).trans (if_pos rfl))
  · exact next_congr ((pumpStart_runs hrun hon hlock true).trans ((if_neg (by decide)).trans (if_pos hr)))
  · exact next_congr ((pumpStart_runs hrun hon hlock true).trans ((if_neg (by decide)).trans (if_neg (Nat.not_lt.mpr hr))))

end Sys2Proof.Machine
end

section
/-! PROOFS. Huazan Links: frames, retry words, the loss of a port, training and Route formation (R419–R431). -/

namespace Sys2Proof.Machine

theorem modPort_congr {s : State} {p : Nat} {f g : Port → Port} (h : f (getPort s p) = g (getPort s p)) : modPort s p f = modPort s p g :=
  congrArg (fun v => { s with hzl := { s.hzl with ports := v } }) (vmod_congr {} s.hzl.ports p h)

theorem getPort_modPort_same (s : State) (p : Fin 8) (f : Port → Port) : getPort (modPort s p f) p = f (getPort s p) := by
  rw [getPort_modPort, if_pos ⟨rfl, p.isLt⟩]

/-! ## Frames and their groups (R420, R423, R424) -/

/-- The state in which a frame has joined its port's group. -/
def joinedFrame (s : State) (p : Nat) (ft : BitVec 4) (f : Frame) (bad : Bool) (slot : Option (Fin 64 × Nat × Nat)) : State :=
  modPort s p fun x =>
    { x with group := x.group ++ [{ ftype := ft, ctrl := f.ctrl, payload := (f.payload ++ List.replicate 500 0).take 500, bad := bad, slot := slot }]
             tagBits := x.tagBits ++ [f.tagp] }

theorem joinedFrame_group (s : State) (p : Fin 8) (ft : BitVec 4) (f : Frame) (bad : Bool) (slot : Option (Fin 64 × Nat × Nat)) :
    (getPort (joinedFrame s p ft f bad slot) p).group.length = (getPort s p).group.length + 1 := by
  unfold joinedFrame
  rw [getPort_modPort_same, List.length_append, List.length_singleton]

/-- A frame joins its group, and the fourth closes it. -/
theorem takeFrame_joins {s u : State} {p : Fin 8} {f : Frame} (hup : (getPort s p).st = .up) (hu : (if 7 < f.symErrs then countUe s p else s) = u)
    (hst : (getPort u p).st = .up) (ft : BitVec 4) (slot : Option (Fin 64 × Nat × Nat)) :
    takeFrame s p ft f slot =
      if (getPort u p).group.length = 3 then closeGroup (joinedFrame u p ft f (decide (7 < f.symErrs)) slot) p
      else joinedFrame u p ft f (decide (7 < f.symErrs)) slot := by
  have hlen := joinedFrame_group u p ft f (decide (7 < f.symErrs)) slot
  unfold joinedFrame at hlen ⊢
  unfold takeFrame symLimit
  simp only [hup, decide_eq_true_eq, hu, hst, ↓reduceIte, hlen, Nat.reduceEqDiff]

/-- A frame whose errors make its port LOST joins no group. -/
theorem takeFrame_lost {s : State} {p : Fin 8} {f : Frame} (hup : (getPort s p).st = .up) (hbad : 7 < f.symErrs)
    (hst : (getPort (countUe s p) p).st ≠ .up) (ft : BitVec 4) (slot : Option (Fin 64 × Nat × Nat)) : takeFrame s p ft f slot = countUe s p := by
  unfold takeFrame symLimit
  simp only [hup, decide_eq_true hbad, hst, ↓reduceIte]

/-- What a frame does on a port that is UP, by its symbol errors and the frames its group holds. -/
def TakesFrame (s : State) (p : Fin 8) (f : Frame) (ft : BitVec 4) (slot : Option (Fin 64 × Nat × Nat)) (t : State) : Prop :=
  (f.symErrs ≤ 7 → (getPort s p).group.length < 3 → t = joinedFrame s p ft f false slot) ∧
  (f.symErrs ≤ 7 → (getPort s p).group.length = 3 → t = closeGroup (joinedFrame s p ft f false slot) p) ∧
  (7 < f.symErrs →
    ((getPort (countUe s p) p).st ≠ .up → t = countUe s p) ∧
    ((getPort (countUe s p) p).st = .up → (getPort (countUe s p) p).group.length < 3 → t = joinedFrame (countUe s p) p ft f true slot) ∧
    ((getPort (countUe s p) p).st = .up → (getPort (countUe s p) p).group.length = 3 →
      t = closeGroup (joinedFrame (countUe s p) p ft f true slot) p))

theorem takeFrame_takes {s : State} {p : Fin 8} (hup : (getPort s p).st = .up) (f : Frame) (ft : BitVec 4) (slot : Option (Fin 64 × Nat × Nat)) :
    TakesFrame s p f ft slot (takeFrame s p ft f slot) := by
  have hgood (hf : f.symErrs ≤ 7) := takeFrame_joins (f := f) hup (if_neg (Nat.not_lt.mpr hf)) hup ft slot
  have hbad (hf : 7 < f.symErrs) (hst : (getPort (countUe s p) p).st = .up) := takeFrame_joins hup (if_pos hf) hst ft slot
  refine ⟨fun hf hg => ?_, fun hf hg => ?_, fun hf => ⟨fun hst => takeFrame_lost hup hf hst ft slot, fun hst hg => ?_, fun hst hg => ?_⟩⟩
  · rw [hgood hf, if_neg (Nat.ne_of_lt hg), decide_eq_false (Nat.not_lt.mpr hf)]
  · rw [hgood hf, if_pos hg, decide_eq_false (Nat.not_lt.mpr hf)]
  · rw [hbad hf hst, if_neg (Nat.ne_of_lt hg), decide_eq_true hf]
  · rw [hbad hf hst, if_pos hg, decide_eq_true hf]

theorem ofNat_val_eng (e : Fin 64) : Fin.ofNat 64 e.val = e := Fin.ext (Nat.mod_eq_of_lt e.isLt)

/-- A frame in a slot that no plan owns is taken at once. -/
theorem ownedFrame_unowned {s : State} {p : Fin 8} {e : Fin 64} {x : Nat} (hup : (getPort s p).st = .up) (h : slotOwner (getEng s e) p x = none)
    (k : Nat) (f : Frame) : ownedFrame s p e k x f = takeFrame s p 1 f (if s.alm.aligned then some (e, k, x) else none) := by
  simp only [ownedFrame, hup, h, ofNat_val_eng, Option.isSome_none, Bool.false_eq_true, reduceCtorEq, ↓reduceIte]

/-- A frame in an owned slot is taken in the beat in which it is decoded (R426). -/
theorem ownedFrame_owned {s v : State} {p : Fin 8} {e : Fin 64} {k x : Nat} (hup : (getPort s p).st = .up) (h : slotOwner (getEng s e) p x ≠ none)
    (hv : advanceTo s (circuitBeat (getEng s e) k + x + (getPort s p).d.toNat) = v) (f : Frame) :
    ownedFrame s p e k x f = takeFrame v p 1 f (if v.alm.aligned then some (e, k, x) else none) := by
  have hs : (slotOwner (getEng s e) p x).isSome = true := Option.isSome_iff_ne_none.mpr h
  simp only [ownedFrame, hup, hs, hv, ofNat_val_eng, reduceCtorEq, ↓reduceIte]

theorem ownedFrame_lost {s : State} {p : Fin 8} (h : (getPort s p).st = .lost) (e : Fin 64) (k x : Nat) (f : Frame) :
    ownedFrame s p e k x f = ownedArrives s p (e, k, x) (List.replicate 500 0) true := by
  simp only [ownedFrame, h, ofNat_val_eng, ↓reduceIte]

/-- The group before the one that closes is opened under the link's key and delivered. -/
theorem closeGroup_opens {s : State} {p : Nat} (h : (getPort s p).prevGroup ≠ []) :
    closeGroup s p = noteTag (forEach (getPort s p).prevGroup.zipIdx
        (modPort s p fun y => { y with prevGroup := y.group, prevGen := y.rxGen, prevCtr := y.rxCtr, rxCtr := y.rxCtr + 1, group := [], tagBits := [] })
        (frameDelivers p (openGroup (getPort s p) (getPort s p).prevGroup (groupTag (getPort s p).tagBits)))) p
      (openGroup (getPort s p) (getPort s p).prevGroup (groupTag (getPort s p).tagBits)).isSome := by
  unfold closeGroup
  exact if_neg (by simpa using h)

/-! ## Unowned data and the retry (R425) -/

section
variable {s : State} {p : Nat} {bs : List Byte} (resent : Bool)

theorem unownedArrives_expected (h : BitVec.ofNat 32 (leNat (bs.take 4)) = (getPort s p).rxSeq) :
    unownedArrives s p resent bs false =
      modPort s p fun x => { x with rxSeq := x.rxSeq + 1, rxData := (bs.drop 4).take 496, nakSent := false, naksFor := 0 } := by
  simp only [unownedArrives, h, Bool.false_eq_true, ↓reduceIte]

theorem unownedArrives_old (h : BitVec.ofNat 32 (leNat (bs.take 4)) ≠ (getPort s p).rxSeq)
    (ho : (getPort s p).nakSent = true ∨ 2 ^ 31 ≤ (BitVec.ofNat 32 (leNat (bs.take 4)) - (getPort s p).rxSeq).toNat) :
    unownedArrives s p resent bs false = s := by
  unfold unownedArrives
  dsimp only
  rw [if_neg Bool.false_ne_true, if_neg h, if_pos ho]

theorem unownedArrives_gap (h : BitVec.ofNat 32 (leNat (bs.take 4)) ≠ (getPort s p).rxSeq) (hn : (getPort s p).nakSent = false)
    (hg : (BitVec.ofNat 32 (leNat (bs.take 4)) - (getPort s p).rxSeq).toNat < 2 ^ 31) : unownedArrives s p resent bs false = sendNak s p := by
  unfold unownedArrives
  dsimp only
  rw [if_neg Bool.false_ne_true, if_neg h, if_neg (not_or.mpr ⟨ne_true_of_eq_false hn, Nat.not_le.mpr hg⟩)]

end

theorem ackSend_up {s : State} {p : Nat} (h : (getPort s p).st = .up) : ackSend s p = sendCtrl s p 1 (ctrlWord 3 (getPort s p).rxSeq.toNat) := by
  rw [ackSend, if_pos h]

theorem rekeyWord_up {s : State} {p : Nat} (h : (getPort s p).st = .up) (body : Nat) :
    rekeyWord s p body = modPort s p fun x => { x with rxGen := BitVec.ofNat 11 body, rxCtr := 0 } := by
  rw [rekeyWord, if_pos h]

theorem nakWord_resends {s : State} {p body : Nat} (h : (getPort s p).st = .up)
    (hq : ((getPort s p).unacked.any fun f => f.1 == BitVec.ofNat 32 body) = true) {t : State}
    (ht : modPort s p (fun x =>
      { dropAcked x (BitVec.ofNat 32 body) with
        resend := (dropAcked x (BitVec.ofNat 32 body)).unacked
        replay := satAdd (dropAcked x (BitVec.ofNat 32 body)).replay (dropAcked x (BitVec.ofNat 32 body)).unacked.length
        naksGot := (dropAcked x (BitVec.ofNat 32 body)).naksGot + 1 }) = t) :
    nakWord s p body = if 8 ≤ (getPort t p).naksGot then losePort t p else t := by
  unfold nakWord
  dsimp only
  rw [if_pos ⟨h, hq⟩, ht]

/-! ## The loss of a port (R408, R430) -/

theorem losePort_up {s : State} {p : Nat} (h : (getPort s p).st = .up) {s1 s2 s3 : State}
    (h1 : fireVector (modPort s p fun x => { clearLink x with st := .lost, lostCnt := satAdd x.lostCnt 1, lostHeld := true, waitRetry := true }) 21 = s1)
    (h2 : cutWaybills { s1 with hzl := { s1.hzl with seenLost := (s.hzl.devnum.toNat, p) :: s1.hzl.seenLost } } s.hzl.devnum.toNat p = s2)
    (h3 : (forEach (upPorts s2) s2 fun v q => sendCtrl v q 1 (ctrlWord 6 (packNat [(p, 0, 3), (s.hzl.devnum.toNat, 3, 6)]))) = s3) :
    losePort s p = forEach (portEngs s3 p) s3 suspendForPort := by
  unfold losePort
  dsimp only
  rw [if_neg (by rw [h]; decide), h1, h2, h3]

theorem lostNotice_seen {s : State} {body : Nat} (h : (bitsOf body 3 6, bitsOf body 0 3) ∈ s.hzl.seenLost) (p : Nat) : lostNotice s p body = s := by
  unfold lostNotice
  exact if_pos (by simpa using h)

theorem lostNotice_new {s : State} {body : Nat} (h : (bitsOf body 3 6, bitsOf body 0 3) ∉ s.hzl.seenLost) (p : Nat) {t : State}
    (ht : cutWaybills { s with hzl := { s.hzl with seenLost := (bitsOf body 3 6, bitsOf body 0 3) :: s.hzl.seenLost } } (bitsOf body 3 6) (bitsOf body 0 3) = t) :
    lostNotice s p body = forEach ((upPorts t).filter (· ≠ p)) t fun v q => sendCtrl v q 1 (ctrlWord 6 (bitsOf body 0 9)) := by
  unfold lostNotice
  dsimp only
  rw [if_neg (by simpa using h), ht]

theorem portRetry_waits {s : State} {p : Nat} (hw : (getPort s p).waitRetry = true) (hst : (getPort s p).st = .down ∨ (getPort s p).st = .lost)
    (hl : s.alm.pllLock = true) :
    portRetry s p = fireVector (modPort s p fun x => { x with st := .training, phase := 1, fails := 0, waitRetry := false, coeffs := false }) 21 := by
  unfold portRetry
  exact if_pos (by rcases hst with h | h <;> simp [hw, h, hl])

theorem wakePattern_wakes {s : State} {p : Nat}
    (h : s.pwr.st = 1 ∨ (s.pwr.hzlWake = true ∧ (s.pwr.st = 3 ∨ (getPort s p).st = .sleep))) : wakePattern s p = wake s 2 p := by
  unfold wakePattern
  by_cases h1 : s.pwr.st = 1
  · rw [if_pos h1]
  · obtain ⟨hw, hst⟩ := h.resolve_left h1
    rw [if_neg h1, if_pos (by rcases hst with h | h <;> simp [hw, h])]

/-- Settles O46. -/
theorem framesAndRetryWords : Obligations.FramesAndRetryWords := by
  refine ⟨fun s p f hup => ⟨⟨_, rfl, takeFrame_takes hup f 2 none⟩, ⟨_, rfl, takeFrame_takes hup f 3 none⟩, ⟨_, rfl, takeFrame_takes hup f 0 none⟩,
      fun e k x h => ⟨_, next_congr (ownedFrame_unowned hup h k f), takeFrame_takes hup f 1 _⟩,
      fun e k x h hv => ⟨_, next_congr (ownedFrame_owned hup h rfl f), takeFrame_takes hv f 1 _⟩⟩,
    fun s p h => closeGroup_opens h,
    fun s p resent bs => ⟨unownedArrives_expected resent, unownedArrives_old resent, unownedArrives_gap resent⟩,
    fun s p e k x f h => next_congr (ownedFrame_lost h e k x f),
    ⟨fun s p h => next_congr (if_pos h), fun s p h => losePort_up h rfl rfl rfl,
      fun s p body => ⟨fun h => next_congr (lostNotice_seen h p), fun h => next_congr (lostNotice_new h p rfl)⟩,
      fun s p hw hst hl => next_congr (portRetry_waits hw hst hl), fun s p h => next_congr (wakePattern_wakes h)⟩,
    fun s p body => rfl,
    fun s p h => ⟨next_congr (ackSend_up h), fun body => next_congr (rekeyWord_up h _), fun body hq => next_congr (nakWord_resends h hq rfl)⟩⟩

/-! ## Training (R427, R431) -/

theorem trainPasses_early {n : Nat} (hn : n < 6) (s : State) (p peer pp : Nat) (v : Word) (rt : Nat) :
    trainPasses s p n peer pp v rt = modPort s p fun x => { x with st := .training, phase := nextPhase x n } := by
  have h7 : ¬n = 7 := by omega
  have h6 : ¬n = 6 := by omega
  rw [trainPasses, if_neg h7, if_neg h6]

theorem trainPasses_flight {rt : Nat} (h : flightTime rt ≤ 8) (s : State) (p peer pp : Nat) (v : Word) :
    trainPasses s p 6 peer pp v rt = modPort s p fun x =>
      { x with phase := 7, peer := BitVec.ofNat 6 peer, peerPort := BitVec.ofNat 3 pp, peerVer := v, f := BitVec.ofNat 4 (flightTime rt)
               d := BitVec.ofNat 5 (flightTime rt + 5) } := by
  rw [trainPasses, if_neg (by decide : ¬6 = 7), if_pos rfl]
  exact if_neg (Nat.not_lt.mpr h)

theorem trainPasses_tooLong {rt : Nat} (h : 8 < flightTime rt) (s : State) (p peer pp : Nat) (v : Word) :
    trainPasses s p 6 peer pp v rt = modPort s p trainFails := by
  rw [trainPasses, if_neg (by decide : ¬6 = 7), if_pos rfl]
  exact if_pos h

theorem trainPasses_last (s : State) (p peer pp : Nat) (v : Word) (rt : Nat) :
    trainPasses s p 7 peer pp v rt = freshen (modPort s p (trainedPort s.free s.alm.beat)) := by
  rw [trainPasses, if_pos rfl]

section
variable {s : State} {p : Fin 8} {n : Nat} (hc : canTrain s p n = true)
include hc

/-- A phase of a port in training: vector 21 fires where the port's state changes. -/
theorem portTrain_training (hst : (getPort s p).st = .training) (ok : Bool) (peer : Fin 64) (pp : Fin 8) (v : Word) (rt : Nat) {t : State}
    (ht : (if ok then trainPasses s p n peer pp v rt else modPort s p trainFails) = t) :
    portTrain s p n ok peer pp v rt = if (getPort t p).st = .training then t else fireVector t 21 := by
  unfold portTrain
  simp only [hc, hst, reduceCtorEq, ↓reduceIte, ht]

/-- A port that begins training keeps its coefficients unless it was DOWN. -/
theorem portTrain_begins (hst : (getPort s p).st ≠ .training) (peer : Fin 64) (pp : Fin 8) (v : Word) (rt : Nat) {t : State}
    (ht : (if (getPort s p).st = .down then modPort s p fun x => { x with coeffs := false } else s) = t) (hn : n < 6) :
    portTrain s p n true peer pp v rt = fireVector (modPort t p fun x => { x with st := .training, phase := nextPhase x n }) 21 := by
  unfold portTrain
  simp only [hc, ht, trainPasses_early hn, getPort_modPort_same, ↓reduceIte]
  exact if_neg (Ne.symm hst)

end

theorem portTrain_refused {s : State} {p n : Nat} (hc : canTrain s p n = false) (ok : Bool) (peer pp : Nat) (v : Word) (rt : Nat) :
    portTrain s p n ok peer pp v rt = s := by
  rw [portTrain, hc, if_neg Bool.false_ne_true]

theorem trainFails_again {x : Port} (h : x.fails < 2) : (trainFails x).st = .training := by
  rw [trainFails, if_pos (by omega)]

theorem trainFails_last {x : Port} (h : 2 ≤ x.fails) : (trainFails x).st ≠ .training := by
  rw [trainFails, if_neg (by omega)]
  cases x.lostHeld <;> simp

/-! ## Route formation (R18, R285, R429) -/

theorem forEach_modPort_devnum (l : List Nat) (s : State) (f : Nat → Port → Port) :
    (forEach l s fun s p => modPort s p (f p)).hzl.devnum = s.hzl.devnum := 
  forEach_keeps (fun s => s.hzl.devnum) (fun s p => modPort s p (f p)) (fun _ _ => rfl) l s

theorem placeInTree_devnum (s : State) (ns : List Node) : (placeInTree s ns).hzl.devnum = s.hzl.devnum := by
  unfold placeInTree
  dsimp only
  rw [forEach_modPort_devnum]

theorem joinRoute_hzl (s : State) (ns : List Node) :
    (joinRoute s ns).hzl = { (placeInTree s ns).hzl with formed := true, root := s.hzl.devnum == 0, seenLost := [] } := by
  unfold joinRoute
  dsimp only
  rw [placeInTree_devnum]

theorem joinRoute_master (s : State) (ns : List Node) : (joinRoute s ns).alm.master = (s.hzl.devnum == 0) := by
  unfold joinRoute
  dsimp only
  rw [placeInTree_devnum]

theorem formRoute_formed {s : State} (hl : s.alm.pllLock = true) (hr : inReset s = false) (hp : (s.hzl.ports.all fun p => p.st != .training) = true)
    (ns : List Node) :
    formRoute s ns = if routeOk s ns && ns.any fun n => n.1.val == s.hzl.devnum.toNat then joinRoute s ns else runAlone s := by
  rw [formRoute, hl, hr, hp, if_pos (by decide)]

/-- Settles O47. -/
theorem trainingAndRouteFormation : Obligations.TrainingAndRouteFormation := by
  refine ⟨fun s p n peer pp v rt hc hst => ⟨fun hn => next_congr ?_, fun hn hf => next_congr ?_, fun hn hf hfails => next_congr ?_,
      fun hn => next_congr ?_, fun hfails => next_congr ?_, fun hfails => next_congr ?_⟩,
    fun s p peer pp v rt hc hst => next_congr ?_, fun s p peer pp v rt hc hst => next_congr ?_,
    fun s p n ok peer pp v rt hc => next_congr (portTrain_refused hc ok peer pp v rt), fun s ns h => ?_, fun s ns => ?_,
    fun s ns hl hr hp => next_congr (formRoute_formed hl hr hp ns)⟩
  · rw [portTrain_training hc hst true peer pp v rt rfl, if_pos rfl, trainPasses_early hn, getPort_modPort_same, if_pos rfl]
  · subst hn
    rw [portTrain_training hc hst true peer pp v rt rfl, if_pos rfl, trainPasses_flight hf, getPort_modPort_same, if_pos hst]
  · subst hn
    rw [portTrain_training hc hst true peer pp v rt rfl, if_pos rfl, trainPasses_tooLong hf, getPort_modPort_same, if_pos (trainFails_again hfails)]
  · subst hn
    have hup : (getPort (freshen (modPort s p (trainedPort s.free s.alm.beat))) p).st = .up := congrArg Port.st (getPort_modPort_same ..)
    rw [portTrain_training hc hst true peer pp v rt rfl, if_pos rfl, trainPasses_last, if_neg (by rw [hup]; decide)]
  · rw [portTrain_training hc hst false peer pp v rt rfl, if_neg Bool.false_ne_true, getPort_modPort_same, if_pos (trainFails_again hfails)]
  · rw [portTrain_training hc hst false peer pp v rt rfl, if_neg Bool.false_ne_true, getPort_modPort_same, if_neg (trainFails_last hfails)]
  · exact portTrain_begins hc (by rw [hst]; decide) peer pp v rt (if_neg (by rw [hst]; decide)) (by decide)
  · refine (portTrain_begins hc (by rw [hst]; decide) peer pp v rt (if_pos hst) (by decide)).trans (congrArg (fireVector · 21) (modPort_congr ?_))
    rw [getPort_modPort_same]
    rfl
  · simp only [routeOk, sameVersion, Bool.and_eq_true, decide_eq_true_eq, List.all_eq_true, List.any_eq_true, beq_iff_eq, List.mem_range] at h
    obtain ⟨⟨⟨⟨⟨⟨⟨hnodup, -⟩, hreach⟩, hnum⟩, hver⟩, hpeer⟩, hflight⟩, hhops⟩ := h
    exact ⟨hnodup, fun n hn => ⟨hnum n hn, hver n hn⟩, hpeer, fun d hd => ⟨hreach d hd, fun l hl => by simpa [hl] using hflight d hd⟩, hhops⟩
  · refine ⟨?_, ?_, ?_, ?_, ?_, joinRoute_master s ns, rfl, rfl, rfl, rfl⟩ <;> rw [joinRoute_hzl]
    · rfl
    · rfl
    · rfl

end Sys2Proof.Machine
end

section
/-! PROOFS. Customs: SPDM requests, the tunnel and the keys, management and the debug port (R438–R464). -/

namespace Sys2Proof.Machine

/-! ## SPDM requests (R441–R443) -/

/-- A request that a transport takes while Customs is ready is served, and its response recorded. -/
theorem spdmRequest_served {s0 s t : State} {p : SpdmPort} {act : Serve} {r : SpdmResp} (hs : (if p = .doe then hostTouch s0 else s0) = s)
    (hsilent : spdmSilent s p = false) (hready : notReady s = none) (hact : act s p = (t, r)) : spdmRequest s0 p act = recordResp t p r := by
  unfold spdmRequest
  simp only [hs, hsilent, serveReady, hready, hact, Bool.false_eq_true, ↓reduceIte]

theorem negotiated_algs {s : State} {p : SpdmPort} (h : (getConn s p).algs = true) (act : Serve) : negotiated act s p = act s p := if_pos h

theorem inSession_open {s : State} {p : SpdmPort} {n : Word} (h : hasSession s p n = true) (act : Serve) : inSession n act s p = act s p := if_pos h

section
variable {s : State} {p : SpdmPort}

theorem serveCapabilities_ready (h : (getConn s p).version = true) :
    serveCapabilities s p = (modConn s p fun c => { c with caps := true }, { code := 0x61, body := leBytes 4 capFlags }) := if_pos h

theorem serveAlgorithms_ready (h : (getConn s p).caps = true) :
    serveAlgorithms true s p = (modConn s p fun c => { c with algs := true }, { code := 0x63, body := [0x80, 0x02, 0x10, 0x02, 0x01] }) := by
  rw [serveAlgorithms, h, if_neg (by decide), if_pos rfl]

section
variable (ha : (getConn s p).algs = true)
include ha

theorem serveCertificate_ready {sl off n : Nat} (hsl : sl ∈ certSlots s) (hoff : off < (chainOf s sl).length) :
    serveCertificate sl off n s p = (s, { code := 0x02, body := BitVec.ofNat 8 sl ::
      (leBytes 2 (((chainOf s sl).drop off).take n).length ++ leBytes 2 ((chainOf s sl).length - off - (((chainOf s sl).drop off).take n).length) ++
        ((chainOf s sl).drop off).take n) }) := by
  rw [serveCertificate, negotiated_algs ha]
  exact if_neg (by simp [hsl, hoff])

theorem serveChallenge_ready {sl : Nat} (hsl : sl ∈ certSlots s) (nonce : BitVec 256) :
    serveChallenge sl nonce s p =
      (drew2 s, { code := 0x03, body := signed384 (BitVec.ofNat 8 sl :: (chainDigest s sl ++ drbg32 s)) (leBytes 32 nonce.toNat) }) := by
  rw [serveChallenge, negotiated_algs ha]
  exact if_neg (by simp [hsl])

theorem serveMeasurements_ready {i : Byte} {ks : List Nat} (hks : blocksAsked i.toNat = some ks) (sign : Bool) (nonce : BitVec 256) {head : List Byte}
    (hhead : leBytes 1 (if i = 0 then blockNumbers.length else ks.length) ++ leBytes 3 (ks.flatMap (measureBytes s)).length ++ ks.flatMap (measureBytes s) = head) :
    serveMeasurements i sign nonce s p =
      if sign then (drew2 s, { code := 0x60, body := signed384 (head ++ drbg32 s) (leBytes 32 nonce.toNat) }) else (s, { code := 0x60, body := head }) := by
  rw [serveMeasurements, negotiated_algs ha]
  simp only [hks, hhead]

theorem serveKeyExchange_ready {sl : Nat} (hsl : sl ∈ certSlots s) (hroom : connSessions (getConn s p) < sessionLimit p) (m : Bool) (pub : BitVec 768) :
    serveKeyExchange sl m pub s p =
      (freshen (modConn s p fun c => { c with handshake := c.handshake ++ [(freeSession s, m)] }),
       { code := 0x64, body := signed384 (leBytes 4 (freeSession s).toNat ++ [if m then 1 else 0] ++ leBytes 96 (Config.dhPublic s.free).toNat)
                                 (leBytes 96 pub.toNat) }) := by
  rw [serveKeyExchange, negotiated_algs ha]
  exact (if_neg (by simp [hsl])).trans (if_neg (Nat.not_le.mpr hroom))

theorem serveFinish_verified {n : Word} {m : Bool} (hn : ((getConn s p).handshake.find? fun x => x.1 == n) = some (n, m)) (leaf : List Byte) :
    serveFinish n leaf true s p =
      (modConn (modConn s p fun c => { c with handshake := c.handshake.filter fun x => x.1 != n }) p fun c =>
        { c with sessions := c.sessions ++ [(n, if m then some (Config.sha384 leaf) else none)] }, { code := 0x65, body := [] }) := by
  rw [serveFinish, negotiated_algs ha]
  simp only [hn, Bool.not_true, Bool.false_eq_true, ↓reduceIte]

theorem serveSetCertificate_ready {sl : Nat} (hp : p = .mctp) (ht : s.cus.tenancy = .none) (hsl : sl = 2 ∨ sl = 3) (ch : List Byte) :
    serveSetCertificate sl ch s p = (cusMod s fun c => if sl = 2 then { c with cert2 := ch } else { c with cert3 := ch },
      { code := 0x6E, body := [BitVec.ofNat 8 sl] }) := by
  rw [serveSetCertificate, negotiated_algs ha]
  exact if_neg (by rcases hsl with h | h <;> simp [hp, ht, h])

end

section
variable {n : Word} (hn : hasSession s p n = true)
include hn

theorem serveVendor_lock (hp : p = .doe) (ht : s.cus.tdi = .unlocked) :
    serveVendor n .tdispLock s p = vendorOk (cusMod s fun c => { c with tdi := .locked }) := by
  rw [serveVendor, inSession_open hn]
  exact (if_neg (not_not_intro hp)).trans (if_pos ht)

theorem serveVendor_start (hp : p = .doe) (ht : s.cus.tdi = .locked) :
    serveVendor n .tdispStart s p = vendorOk (cusMod s fun c => { c with tdi := .run }) := by
  rw [serveVendor, inSession_open hn]
  exact (if_neg (not_not_intro hp)).trans (if_pos ht)

theorem serveVendor_stop (hp : p = .doe) : serveVendor n .tdispStop s p = vendorOk (cusMod s fun c => { c with tdi := .unlocked }) := by
  rw [serveVendor, inSession_open hn]
  exact if_neg (not_not_intro hp)

theorem serveVendor_ide (hp : p = .doe) (st : Fin 5) :
    serveVendor n (.ideKm st true) s p = vendorOk (cusMod s fun c => { c with ideStreams := c.ideStreams ||| BitVec.ofNat 5 (2 ^ st.val) }) := by
  rw [serveVendor, inSession_open hn]
  exact (if_neg (not_not_intro hp)).trans (if_pos rfl)

theorem serveVendor_enrol (hp : p = .mctp) (hc : s.bst.creds = []) (key : BitVec 384) :
    serveVendor n (.enrolFirst key) s p = vendorOk { s with bst := { s.bst with creds := [(key, .admin)] } } := by
  rw [serveVendor, inSession_open hn]
  exact (if_neg (not_not_intro hp)).trans (if_pos (by rw [hc]; rfl))

end

theorem serveChunkSend_first (h : Nat) (d : List Byte) :
    serveChunkSend h 0 false d s p =
      (modConn s p fun c => { c with chunks := d, chunkHandle := h, chunkSeq := 1 }, { code := 0x05, body := leBytes 1 h ++ leBytes 2 0 }) := by
  unfold serveChunkSend
  exact (if_neg (by simp)).trans (if_neg Bool.false_ne_true)

theorem serveChunkGet_eq (h n : Nat) :
    serveChunkGet h n s p =
      (s, if (chunkPart (getConn s p).large n).isEmpty then spdmError errInvalidRequest []
          else { code := 0x06, body := leBytes 1 h ++ leBytes 2 n ++ chunkPart (getConn s p).large n }) := by
  unfold serveChunkGet
  dsimp only
  split <;> rfl

end

/-- Settles O48. -/
theorem spdmRequestsAreServed : Obligations.SpdmRequestsAreServed := by
  intro s0 p s hsilent hready c gives
  have served {i : Instr} {act : Serve} (hi : exec i s0 = .next (spdmRequest s0 p act)) {t : State} {r : SpdmResp} (hact : act s p = (t, r)) :
      gives i t r := hi.trans (next_congr (spdmRequest_served rfl hsilent hready hact))
  refine ⟨served rfl rfl, fun h => served rfl (serveCapabilities_ready h), fun h => served rfl (serveAlgorithms_ready h),
    fun h sl off n => served rfl (if_neg (ne_true_of_eq_false h)),
    fun ha => ⟨served rfl (negotiated_algs ha _), fun sl off n hsl hoff => served rfl (serveCertificate_ready ha hsl hoff),
      fun sl nonce hsl => served rfl (serveChallenge_ready ha hsl nonce),
      fun i nonce ks hks => ⟨served rfl (serveMeasurements_ready ha hks false nonce rfl), served rfl (serveMeasurements_ready ha hks true nonce rfl)⟩,
      fun sl m pub hsl hroom => served rfl (serveKeyExchange_ready ha hsl hroom m pub), fun n m leaf hn => served rfl (serveFinish_verified ha hn leaf)⟩,
    fun n hn => ⟨served rfl (inSession_open hn _), served rfl (inSession_open hn _), served rfl (inSession_open hn _),
      fun hp ht => served rfl (serveVendor_lock hn hp ht), fun hp ht => served rfl (serveVendor_start hn hp ht),
      fun hp => served rfl (serveVendor_stop hn hp), fun st hp => served rfl (serveVendor_ide hn hp st),
      fun key hp hc => served rfl (serveVendor_enrol hn hp hc key)⟩,
    fun sl ch ha hp ht hsl => (served rfl (serveSetCertificate_ready ha hp ht hsl ch)).trans ?_, fun h d => served rfl (serveChunkSend_first h d),
    fun h n => next_congr (congrArg (fun v => modConn v p fun x => { x with large := (getConn s0 p).large })
      (spdmRequest_served rfl hsilent hready (serveChunkGet_eq h n)))⟩
  rcases hsl with h | h <;> simp only [h, cusMod, Nat.reduceEqDiff, ↓reduceIte]

/-! ## The tunnel and the keys (R441, R444, R445, R454) -/

/-- A key package of a session with a tenant's identity is opened, checked, and installed or taken as the tenancy's end. -/
theorem keyDeliver_tenant {s : State} {mb : Mb} (h : Accepted s mb 0x51) {t : State} (ht : taken s mb = t) {w : List Word} (hw : msgAt s mb = w) {n : Word}
    {tid : BitVec 384}
    (hn : ((getConn t (.tunnel (Fin.ofNat 16 mb))).sessions.find? fun x => x.1 == wordOf (wordAt w 3)) = some (n, some tid)) :
    (Config.openSecured (wordOf (wordAt w 3)) (winBytes t (wordAt w 1) (wordAt w 2)) = none → keyDeliver s mb = finishMsg t mb w stIntegrity []) ∧
    ∀ bs, Config.openSecured (wordOf (wordAt w 3)) (winBytes t (wordAt w 1) (wordAt w 2)) = some bs →
      keyDeliver s mb =
        if pkgOk bs = true ∧ keyStateOk t tid (pkgOf bs) = true then
          (if (pkgOf bs).relinquish then beginSwitch (finishMsg t mb w stOk []) else finishMsg (installKeys t tid (pkgOf bs)) mb w stOk [])
        else finishMsg t mb w stPolicy [] := by
  subst ht hw
  unfold keyDeliver
  refine ⟨fun ho => ?_, fun bs ho => ?_⟩
  · rw [takeMsg_accepted s mb _ _ h]
    simp only [hn, ho]
  · rw [takeMsg_accepted s mb _ _ h]
    simp only [hn, ho]
    cases pkgOk bs <;> cases keyStateOk (taken s mb) tid (pkgOf bs) <;> rfl

/-- A session without a tenant's identity installs nothing. -/
theorem keyDeliver_other {s : State} {mb : Mb} (h : Accepted s mb 0x51)
    (hno : ∀ x ∈ (getConn (taken s mb) (.tunnel (Fin.ofNat 16 mb))).sessions, x.1 = wordOf (wordAt (msgAt s mb) 3) → x.2 = none) :
    keyDeliver s mb = finishMsg (taken s mb) mb (msgAt s mb) stPolicy [] := by
  unfold keyDeliver
  rw [takeMsg_accepted s mb _ _ h]
  dsimp only
  split
  · rename_i n tid hfind
    have hid := hno _ (List.mem_of_find?_eq_some hfind) (by simpa using List.find?_some hfind)
    cases hid
  · rfl

theorem getConn_modConn (s : State) (p q : SpdmPort) (f : SpdmConn → SpdmConn) (hf : ∀ c, (f c).port = c.port) :
    getConn (modConn s p f) q = if q = p then f (getConn s p) else getConn s q := by
  have hport : (getConn s p).port = p := by
    unfold getConn
    cases hc : s.cus.conns.find? fun c => c.port == p with
    | none => rfl
    | some c => simpa using List.find?_some hc
  have hhead : (f (getConn s p)).port = p := (hf _).trans hport
  unfold getConn at hhead ⊢
  unfold modConn cusMod getConn
  dsimp only
  rw [List.find?_cons, hhead]
  by_cases hq : q = p
  · rw [if_pos hq, hq, beq_self_eq_true]
    rfl
  · rw [if_neg hq, beq_eq_false_iff_ne.mpr (Ne.symm hq), List.find?_filter]
    refine congrArg (Option.getD · _) (congrArg (List.find? · _) (funext fun c => ?_))
    by_cases hc : c.port = q
    · simp [hc, hq]
    · simp [hc]

/-- Settles O49. -/
theorem keysAndTunnels : Obligations.KeysAndTunnels := by
  refine ⟨fun s mb h => exec_accepted rfl h rfl, fun s mb n tid h hn => next_congr ?_, fun s mb h hno => next_congr (keyDeliver_other h hno),
    fun s p n => ⟨heartbeatTimeout s p n, rfl, ?_, rfl, fun q hq => ?_, rfl⟩⟩
  · obtain ⟨hnone, hsome⟩ := keyDeliver_tenant h rfl rfl hn
    cases ho : Config.openSecured (wordOf (wordAt (msgAt s mb) 3)) (winBytes (taken s mb) (wordAt (msgAt s mb) 1) (wordAt (msgAt s mb) 2)) with
    | none => exact hnone ho
    | some bs => exact hsome bs ho
  · unfold hasSession heartbeatTimeout
    rw [getConn_modConn _ _ _ _ (by intro; rfl), if_pos rfl]
    simp
  · rw [heartbeatTimeout, getConn_modConn _ _ _ _ (by intro; rfl), if_neg hq]

/-! ## Management (R459) -/

theorem mgmtConnect_stored {s : State} {key : BitVec 384} {r : Role} (hup : mgmtUp s = true) (hc : (s.bst.creds.find? fun c => c.1 == key) = some (key, r)) :
    mgmtConnect s key true = cusMod s fun m => { m with mgmtSessions := (key, r) :: m.mgmtSessions.filter fun x => x.1 != key } := by
  simp only [mgmtConnect, hc, hup, Bool.and_self, ↓reduceIte]

theorem asAdmin_admin {s : State} {cl : BitVec 384} (hup : mgmtUp s = true) (ha : mgmtHas s cl .admin = true) (act : State → State) :
    asAdmin s cl act = act s := by
  rw [asAdmin, hup, ha, if_pos (by decide)]

theorem asAdmin_other {s : State} {cl : BitVec 384} (ha : mgmtHas s cl .admin = false) (act : State → State) : asAdmin s cl act = s := by
  rw [asAdmin, ha, if_neg (by simp)]

theorem beginSwitch_notHeld {s : State} (h : s.cus.tenancy ≠ .held) : beginSwitch s = s := if_neg h

/-- Settles O51. -/
theorem managementActsForAnAdmin : Obligations.ManagementActsForAnAdmin := by
  refine ⟨fun s key r hup hc => next_congr (mgmtConnect_stored hup hc), fun s cl hup ha => ?_, fun s cl ha => ?_⟩
  · have admin (act : State → State) : asAdmin s cl act = act s := asAdmin_admin hup ha act
    exact ⟨fun key r hroom => next_congr ((admin _).trans (if_pos hroom)), fun ht => next_congr ((admin _).trans (beginSwitch_held ht)),
      fun ht => next_congr ((admin _).trans (beginSwitch_notHeld ht)), fun cold => next_congr (admin _), next_congr (admin _), fun t => next_congr (admin _)⟩
  · have other (act : State → State) : asAdmin s cl act = s := asAdmin_other ha act
    exact ⟨fun key r => next_congr (other _), next_congr (other _), fun cold => next_congr (other _), next_congr (other _), fun t => next_congr (other _)⟩

/-! ## The debug port (R457) -/

theorem debugGive_open {s : State} {b : Nat} (hup : debugUp s = true) (ho : scopeOpen s b = true) (bs : List Byte) :
    debugGive s b bs = cusMod s fun c => { c with debugOk := true, debugData := bs } := by
  rw [debugGive, hup, ho, if_pos (by decide)]

theorem debugGive_closed {s : State} {b : Nat} (h : debugUp s = false ∨ scopeOpen s b = false) (bs : List Byte) :
    debugGive s b bs = cusMod s fun c => { c with debugOk := false, debugData := [] } := by
  rw [debugGive, if_neg]
  rcases h with h | h <;> simp [h]

theorem debugHalt_open {s : State} (hup : debugUp s = true) (ho : scopeOpen s 3 = true) (halt : Bool) :
    debugHalt s halt = cusMod s fun c => { c with debugOk := true, debugData := [], factorHalted := halt } := by
  rw [debugHalt, debugGive_open hup ho]
  rfl

theorem debugHalt_closed {s : State} (h : debugUp s = false ∨ scopeOpen s 3 = false) (halt : Bool) :
    debugHalt s halt = cusMod s fun c => { c with debugOk := false, debugData := [] } := by
  rw [debugHalt, debugGive_closed h]
  rfl

/-- An access of memory within its address space gives what its scope allows. -/
theorem debugAccess_exists {s : State} {d : DebugTarget} {bs : List Byte} {limit a : Nat}
    (hd : exec (.debugPortAccess d) s = if debugUp s && scopeOpen s 2 && decide (limit < a + 4) then .fault .noSuchAddress else .next (debugGive s 2 bs)) :
    (debugUp s = true → scopeOpen s 2 = true →
      (a + 4 ≤ limit → exec (.debugPortAccess d) s = .next (cusMod s fun c => { c with debugOk := true, debugData := bs })) ∧
      (limit < a + 4 → exec (.debugPortAccess d) s = .fault .noSuchAddress)) ∧
    (scopeOpen s 2 = false → exec (.debugPortAccess d) s = .next (cusMod s fun c => { c with debugOk := false, debugData := [] })) := by
  refine ⟨fun hup ho => ⟨fun ha => ?_, fun ha => ?_⟩, fun ho => ?_⟩
  · rw [hd, decide_eq_false (Nat.not_lt.mpr ha), Bool.and_false, if_neg Bool.false_ne_true, debugGive_open hup ho]
  · rw [hd, hup, ho, decide_eq_true ha, if_pos (by decide)]
  · rw [hd, ho, if_neg (by simp), debugGive_closed (.inr ho)]

theorem scopeOpen_iff (s : State) (b : Nat) :
    scopeOpen s b = true ↔ s.cus.tenancy = .none ∨ (s.cus.tenancy = .held ∧ bitOf s.cus.scopes.toNat b = true) := by
  simp [scopeOpen]

/-- Settles O52. -/
theorem debugPortKeepsItsScopes : Obligations.DebugPortKeepsItsScopes := by
  refine ⟨fun s c a hup ho => (debugAccess_exists rfl).1 hup ho, fun s pa hup ho => (debugAccess_exists rfl).1 hup ho, fun s t u hup hu => ?_,
    fun s hup ho => ⟨next_congr (debugHalt_open hup ho true), next_congr (debugHalt_open hup ho false), next_congr (debugGive_open hup ho _), ?_⟩,
    fun s c hup ho => ?_, fun s hup => ⟨fun ho c => ?_, fun ho => ⟨fun c a => (debugAccess_exists rfl).2 ho, fun pa => (debugAccess_exists rfl).2 ho⟩,
      fun ho => ⟨next_congr (debugHalt_closed (.inr ho) true), next_congr (debugHalt_closed (.inr ho) false),
        next_congr (debugGive_closed (.inr ho) _), ?_⟩⟩, scopeOpen_iff⟩
  · rcases execDebugPortAccess_cases hu with ⟨n, bs, rfl⟩ | ⟨n, bs, rfl⟩ | ⟨b, rfl⟩
    · rw [debugGive_closed (.inl hup)]
      exact ⟨rfl, rfl, rfl, rfl, rfl⟩
    · rw [debugGive_closed (.inl hup)]
      exact ⟨rfl, rfl, rfl, rfl, rfl⟩
    · rw [debugHalt_closed (.inl hup)]
      exact ⟨rfl, rfl, rfl, rfl, rfl⟩
  · exact ⟨_, next_congr (congrArg freshen (debugGive_open hup ho _)), rfl, rfl, rfl⟩
  · exact ⟨_, next_congr (congrArg freshen (debugGive_open hup ho _)), rfl, rfl, rfl⟩
  · exact next_congr (congrArg freshen (debugGive_closed (.inr ho) _))
  · exact next_congr (congrArg freshen (debugGive_closed (.inr ho) _))

end Sys2Proof.Machine
end

section
/-! PROOFS. The stacked memory's upkeep (R324, R334 to R339): the Patrol, the bucket, a lost die group, and bring-up. -/

namespace Sys2Proof.Machine

/-! ## One visit of the Patrol -/

theorem bucketAdd_inj (s : State) (st n : Nat) :
    (bucketAdd s st n).ptl.injArm = s.ptl.injArm ∧ (bucketAdd s st n).ptl.injStack = s.ptl.injStack ∧ (bucketAdd s st n).ptl.injMask = s.ptl.injMask := by
  have hfire (t : State) : (fireVector t 17).ptl = t.ptl := (fireVector_mailboxOnly t 17).field State.ptl
  unfold bucketAdd
  dsimp only
  split
  · exact ⟨rfl, rfl, rfl⟩
  · split
    · exact ⟨rfl, rfl, rfl⟩
    · rw [hfire]; exact ⟨rfl, rfl, rfl⟩

/-- Counting a corrected codeword leaves the injection that is armed. -/
theorem countCorrected_inj (s : State) (st : Nat) :
    (countCorrected s st).ptl.injArm = s.ptl.injArm ∧ (countCorrected s st).ptl.injStack = s.ptl.injStack ∧
      (countCorrected s st).ptl.injMask = s.ptl.injMask := bucketAdd_inj ..

/-- The visit once its copies have been counted, in `s1`. -/
def patrolRead (s1 : State) (st pa : Nat) (err : CwErr) (copies : BitVec 3) : State :=
  let inj := s1.ptl.injArm && s1.ptl.injStack.val == st
  let s2 := if inj then { s1 with ptl := { s1.ptl with injArm := false } } else s1
  if majority3 copies then (readCw s2 pa 2 (if inj then joinErr err (injectedErr s1.ptl.injMask) else err) inj).1 else s1

theorem patrolRead_plain {s1 : State} {k : Fin 2} {copies : BitVec 3} (hm : majority3 copies = true)
    (hi : ¬(s1.ptl.injArm = true ∧ s1.ptl.injStack = k)) (pa : Nat) (err : CwErr) :
    patrolRead s1 k pa err copies = (readCw s1 pa 2 err false).1 := by
  have h : (s1.ptl.injArm && s1.ptl.injStack.val == k.val) = false :=
    Bool.eq_false_iff.mpr fun hc => hi (by simpa [Fin.ext_iff] using hc)
  simp only [patrolRead, hm, h, Bool.false_eq_true, if_true, if_false]

theorem patrolRead_injected {s1 : State} {k : Fin 2} {copies : BitVec 3} (hm : majority3 copies = true)
    (ha : s1.ptl.injArm = true) (hk : s1.ptl.injStack = k) (pa : Nat) (err : CwErr) :
    patrolRead s1 k pa err copies =
      (readCw { s1 with ptl := { s1.ptl with injArm := false } } pa 2 (joinErr err (injectedErr s1.ptl.injMask)) true).1 := by
  have h : (s1.ptl.injArm && s1.ptl.injStack.val == k.val) = true := by simp only [ha, hk, beq_self_eq_true, Bool.and_self]
  simp only [patrolRead, hm, h, if_true]

theorem patrolRead_invalid {copies : BitVec 3} (hm : majority3 copies = false) (s1 : State) (st pa : Nat) (err : CwErr) :
    patrolRead s1 st pa err copies = s1 := by
  simp only [patrolRead, hm, Bool.false_eq_true, if_false]

/-- While the stacks are in service and awake and the rate is not 0, the Patrol reads at its position and steps on. -/
theorem patrol_visits {s : State} (hs : s.ptl.inservice = true) (hp : s.pwr.st.toNat < 2) (hr : s.ptl.rate ≠ 0) (st : Nat) (err : CwErr)
    (copies : BitVec 3) :
    patrol s st err copies =
      patrolStep (patrolRead (if copies = 0 ∨ copies = 7 then s else countCorrected s st) st (patrolPa st (getStack s st).pos) err copies) st := by
  unfold patrol
  rw [if_neg]
  · rfl
  · simp only [hs, stacksAwake, hp, decide_true, beq_eq_false_iff_ne.mpr hr, Bool.not_true, Bool.or_self, Bool.false_eq_true, not_false_iff]

theorem patrol_waits {s : State} (h : s.ptl.inservice = false ∨ 2 ≤ s.pwr.st.toNat ∨ s.ptl.rate = 0) (st : Nat) (err : CwErr) (copies : BitVec 3) :
    patrol s st err copies = s := by
  unfold patrol
  rw [if_pos]
  obtain h | h | h := h
  · simp only [h, Bool.not_false, Bool.true_or]
  · simp only [stacksAwake, Nat.not_lt.mpr h, decide_false, Bool.not_false, Bool.or_true, Bool.true_or]
  · simp only [h, beq_self_eq_true, Bool.or_true]

theorem leak_awake {s : State} (h : s.pwr.st.toNat < 2) (st : Nat) : leak s st = modStack s st fun x => { x with level := x.level - 1 } := by
  simp only [leak, stacksAwake, h, decide_true, if_true]

theorem leak_asleep {s : State} (h : 2 ≤ s.pwr.st.toNat) (st : Nat) : leak s st = s := by
  simp only [leak, stacksAwake, Nat.not_lt.mpr h, decide_false, Bool.false_eq_true, if_false]

theorem markGroup_first {s : State} {st : Nat} (h : markedGroup (getStack s st) = none) (g : Nat) :
    markGroup s st g =
      bucketAdd (modStack s st fun k => { k with dgfail := k.dgfail ||| BitVec.ofNat 10 (2 ^ g), recent := [] }) st (getStack s st).size.toNat := by
  simp only [markGroup, h, Option.isSome_none, Bool.false_eq_true, if_false]

theorem markGroup_again {s : State} {st : Nat} (h : markedGroup (getStack s st) ≠ none) (g : Nat) : markGroup s st g = s := by
  simp only [markGroup, Option.isSome_iff_ne_none.mpr h, if_true]

/-- Both stacks cleared, with their self-test's result. -/
def stacksUp (s : State) (a b : Bool) : State :=
  modStack (modStack (smClear s) 0 fun k => { k with stFail := a, lapEpoch := epochOf s }) 1 fun k => { k with stFail := b, lapEpoch := epochOf s }

/-- The stacks are tested, and in service if `v` says so. -/
def withService (s : State) (v : Bool) : State := { s with ptl := { s.ptl with stDone := true, inservice := v } }

theorem bringup_runs {s : State} (hr : inReset s = false) (hd : s.ptl.stDone = false) (a b : Bool) :
    ∃ t, bringup s a b = t ∧ t.ptl.stDone = true ∧ t.ptl.inservice = (!a && !b) ∧ t.mem.sm = [] ∧ t.mem.smValid = [] ∧
      (getStack t 0).lapEpoch = epochOf s ∧ (getStack t 1).lapEpoch = epochOf s ∧ (getStack t 0).stFail = a ∧ (getStack t 1).stFail = b ∧
      t.mem.ws = s.mem.ws ∧ t.decks = s.decks := by
  have hb : bringup s a b = withService (stacksUp s a b) (!a && !b) := by
    simp only [bringup, hr, hd, Bool.or_self, Bool.false_eq_true, if_false]
    rfl
  have h0 : getStack (stacksUp s a b) 0 = { getStack (smClear s) 0 with stFail := a, lapEpoch := epochOf s } := by
    rw [stacksUp, getStack_modStack, if_neg (by decide), getStack_modStack, if_pos (by decide)]
  have h1 : getStack (stacksUp s a b) 1 = { getStack (smClear s) 1 with stFail := b, lapEpoch := epochOf s } := by
    rw [stacksUp, getStack_modStack, if_pos (by decide), getStack_modStack, if_neg (by decide)]
  exact ⟨_, hb, rfl, rfl, rfl, rfl, congrArg Stack.lapEpoch h0, congrArg Stack.lapEpoch h1, congrArg Stack.stFail h0, congrArg Stack.stFail h1, rfl, rfl⟩

/-- Settles O44: each clause is one branch of the Patrol's visit, of the leak, of a mark or of bring-up. -/
theorem stackedMemoryUpkeep : Obligations.StackedMemoryUpkeep := by
  refine ⟨fun s k hs hp hr => ?_, fun s k err c h => next_congr (patrol_waits h k err c), fun s k h => next_congr (leak_awake h k),
    fun s k h => next_congr (leak_asleep h k), fun s k g h => next_congr (markGroup_first h g), fun s k g h => next_congr (markGroup_again h g),
    fun s a b hr hd => ?_⟩
  · have hv := patrol_visits hs hp hr k
    refine ⟨fun err hi => ?_, fun err ha hk => ?_, fun err => ?_, fun err c h0 h7 => ?_⟩
    · refine next_congr ((hv err 7).trans ?_)
      rw [if_pos (.inr rfl), patrolRead_plain (by decide) fun ⟨ha, hk⟩ => hi.elim (fun h => absurd (h.symm.trans ha) (by decide)) (absurd hk)]
    · refine next_congr ((hv err 7).trans ?_)
      rw [if_pos (.inr rfl), patrolRead_injected (by decide) ha hk]
    · refine next_congr ((hv err 0).trans ?_)
      rw [if_pos (.inl rfl), patrolRead_invalid (by decide)]
    · have hu : exec (.patrolVisit k err c) s = .next (patrolStep (patrolRead (countCorrected s k) k (patrolPa k (getStack s k).pos) err c) k) :=
        next_congr ((hv err c).trans (by rw [if_neg (not_or.mpr ⟨h0, h7⟩)]))
      obtain ⟨harm, hstack, hmask⟩ := countCorrected_inj s k
      refine ⟨fun hc => ?_, fun hc hi => ?_, fun hc hi => ?_⟩
      · have hm : majority3 c = false := by obtain rfl | rfl | rfl := hc <;> decide
        rw [hu, patrolRead_invalid hm]
      · have hm : majority3 c = true := by obtain rfl | rfl | rfl := hc <;> decide
        rw [hu, patrolRead_plain hm (by rw [harm, hstack]; exact hi)]
      · have hm : majority3 c = true := by obtain rfl | rfl | rfl := hc <;> decide
        rw [hu, patrolRead_injected hm (harm.trans hi.1) (hstack.trans hi.2), hmask]
  · obtain ⟨t, ht, h⟩ := bringup_runs hr hd a b
    exact ⟨t, next_congr ht, h⟩

end Sys2Proof.Machine
end

section
/-! PROOFS. The register map right after reset (R549). -/

namespace Sys2Proof.Machine

theorem regRead_tile {off : Nat} (h0 : 0x1000000 ≤ off) (h1 : off < 0x1C00000) (s : State) :
    regRead s off = tileReg s ((off - 0x1000000) / 0x800) (off % 0x800) := by
  unfold regRead
  repeat rw [if_neg (by omega)]
  rw [if_pos ⟨h0, h1⟩]

/-- Status of a deck whose tile never switched: all fields at rest, whichever deck it is. -/
theorem deckStatWord_reset (d : Nat) : deckStatWord State.reset {} d {} = 0 := by
  have hactive : activeDeck State.reset {} = none := rfl
  have hswitch : switchingTo State.reset {} d = false := rfl
  have hworks : deckWorks State.reset {} d {} = false := by simp [deckWorks]
  simp only [deckStatWord, hactive, hswitch, hworks, reduceBEq]
  rfl

/-- No tile or deck is listed right after reset, so every register of a tile's window reads 0, whichever core serves it. -/
theorem tileReg_reset (t o : Nat) : tileReg State.reset t o = 0 := by
  have htile (n : Nat) : getTile State.reset n = {} := rfl
  have hdeck (k : Nat) : getDeck State.reset k = {} := rfl
  have hsnap (n : Nat) : sget ({} : Tile) State.reset.snap.tiles n = {} := rfl
  have hsnapDeck (k : Nat) : sget ({} : Deck) State.reset.snap.decks k = {} := rfl
  unfold tileReg
  simp only [htile, hdeck, hsnap, hsnapDeck]
  split
  · rfl
  · simp only [deckStatWord_reset]
    repeat' split
    all_goals rfl

/-- Settles O27: the registers outside the tiles' windows are finitely many and are evaluated; a tile's hold nothing yet. -/
theorem registersReadTheirResetValues : Obligations.RegistersReadTheirResetValues := by
  refine ⟨by decide +kernel, by decide +kernel, by decide +kernel, by decide +kernel, by decide +kernel, by decide +kernel, fun c st t o ho => ?_,
    fun c st t d o ho => ?_⟩
  · have hb : o < 0x800 := (by decide : ∀ o ∈ [0x400, 0x404, 0x408], o < 0x800) o ho
    rw [regRead_tile (by omega) (by omega)]
    exact tileReg_reset ..
  · have hb : o < 0x100 := (by decide : ∀ o ∈ [0x00, 0x04, 0x08, 0x80, 0x84, 0x88, 0x8C, 0x90, 0x94, 0x98, 0x9C], o < 0x100) o ho
    rw [regRead_tile (by omega) (by omega)]
    exact tileReg_reset ..

end Sys2Proof.Machine
end

section
/-! PROOFS. Time (R263, R264): what comes about as the count moves on leaves the Almanac but for the count. -/

namespace Sys2Proof.Machine

@[simp] theorem forEach_alm {α : Type} (f : State → α → State) (h : ∀ s a, (f s a).alm = s.alm) (l : List α) (s : State) :
    (forEach l s f).alm = s.alm := forEach_keeps State.alm f h l s

@[simp] theorem wsWrite_alm (s : State) (p addr : Nat) (bs : List MByte) : (wsWrite s p addr bs).alm = s.alm :=
  forEach_alm wsPutChunk (fun _ _ => rfl) _ s

@[simp] theorem stopWrite_alm (s : State) (p addr : Nat) (bs : List MByte) : (stopWrite s p addr bs).alm = s.alm := rfl

@[simp] theorem recordFault_alm (s : State) (p cause e : Nat) (leg : BitVec 16) : (recordFault s p cause e leg).alm = s.alm := rfl

@[simp] theorem flightFault_alm (s : State) (f : Flight) (cause : Nat) : (flightFault s f cause).alm = s.alm := rfl

@[simp] theorem flightCons_alm (s : State) (f : Flight) (g : QEntry → QEntry) : (flightCons s f g).alm = s.alm := (flightCons_mailboxOnly ..).alm

@[simp] theorem follow_alm (s : State) (f : Flight) (due : Nat) (w : Land) : (follow s f due w).alm = s.alm := rfl

@[simp] theorem logViolation_alm (s : State) (v : Viol) : (logViolation s v).alm = s.alm := by
  unfold logViolation
  split
  · exact (fireVector_mailboxOnly ..).alm
  · rfl

/-! ## Reading the stacked memory (R321 to R333) -/

@[simp] theorem bucketAdd_alm (s : State) (st n : Nat) : (bucketAdd s st n).alm = s.alm := by
  unfold bucketAdd
  dsimp only
  (repeat' split)
  · rfl
  · rfl
  · exact (fireVector_mailboxOnly ..).alm

@[simp] theorem countCorrected_alm (s : State) (st : Nat) : (countCorrected s st).alm = s.alm := bucketAdd_alm ..

@[simp] theorem markGroup_alm (s : State) (st g : Nat) : (markGroup s st g).alm = s.alm := by
  simp [markGroup, apply_ite State.alm]

@[simp] theorem noteGroup_alm (s : State) (st g : Nat) : (noteGroup s st g).alm = s.alm := by
  simp [noteGroup, apply_ite State.alm]

@[simp] theorem noteUe_alm (s : State) (pa kind : Nat) : (noteUe s pa kind).alm = s.alm :=
  poisonTarget_keeps State.alm (fun _ _ _ => rfl) (fun _ _ _ => rfl) s pa

@[simp] theorem readCw_alm (s : State) (pa kind : Nat) (err : CwErr) (inj : Bool) : (readCw s pa kind err inj).1.alm = s.alm := by
  unfold readCw
  dsimp only
  (repeat' split) <;> simp

@[simp] theorem readCws_alm (s : State) (e : Nat) (cws : List Nat) (errs : List (Nat × CwErr)) : (readCws s e cws errs).alm = s.alm := by
  refine forEach_alm _ (fun s off => ?_) cws s
  dsimp only
  (repeat' split) <;> simp

/-! ## The bytes of a fetch (R310) -/

@[simp] theorem landMove_alm (s : State) (p : Nat) (d : PorterDesc) (lo : Nat) (bs : List MByte) : (landMove s p d lo bs).alm = s.alm :=
  forEach_alm (fun s (x : Nat × List MByte) => wsWrite s p x.1 x.2) (fun _ _ => wsWrite_alm ..) _ s

/-- `t` has the Almanac of `s`: kept folded, so that the goals of long compositions stay small. -/
def SameAlm (s t : State) : Prop := t.alm = s.alm

theorem SameAlm.trans {s t u : State} (h1 : SameAlm s t) (h2 : SameAlm t u) : SameAlm s u := Eq.trans h2 h1

theorem SameAlm.forEach {α : Type} (f : State → α → State) (h : ∀ s a, SameAlm s (f s a)) (l : List α) (s : State) :
    SameAlm s (Machine.forEach l s f) := forEach_alm f h l s

theorem landMove_sameAlm (s : State) (p : Nat) (d : PorterDesc) (lo : Nat) (bs : List MByte) : SameAlm s (landMove s p d lo bs) := landMove_alm ..

theorem wsWrite_sameAlm (s : State) (p addr : Nat) (bs : List MByte) : SameAlm s (wsWrite s p addr bs) := wsWrite_alm ..

theorem landPacked_sameAlm (s : State) (p e : Nat) (d : PorterDesc) (r : Region) (lo hi : Nat) : SameAlm s (landPacked s p e d r lo hi) := by
  have hmove (s : State) (l : List Nat) (f : Nat → Nat) (g : State → Nat → List MByte) :
      SameAlm s (forEach l s fun s i => landMove s p d (f i) (g s i)) := .forEach _ (fun s _ => landMove_sameAlm s ..) l s
  unfold landPacked
  dsimp only
  split
  · exact (hmove ..).trans (hmove ..)
  · exact ((hmove ..).trans (hmove ..)).trans (.forEach _ (fun s _ => wsWrite_sameAlm s ..) _ _)

@[simp] theorem landPacked_alm (s : State) (p e : Nat) (d : PorterDesc) (r : Region) (lo hi : Nat) : (landPacked s p e d r lo hi).alm = s.alm :=
  landPacked_sameAlm ..

theorem landStrips_sameAlm (s : State) (p e : Nat) (d : PorterDesc) : SameAlm s (landStrips s p e d) := by
  unfold landStrips
  split
  · exact .forEach _ (fun s _ => wsWrite_sameAlm s ..) _ s
  · exact Eq.refl s.alm

@[simp] theorem landStrips_alm (s : State) (p e : Nat) (d : PorterDesc) : (landStrips s p e d).alm = s.alm := landStrips_sameAlm ..

@[simp] theorem landFetched_alm (s : State) (p : Nat) (r : PendRead) (n : Nat) (errs : List (Nat × CwErr)) : (landFetched s p r n errs).alm = s.alm := by
  unfold landFetched
  dsimp only
  (repeat' split) <;> simp

@[simp] theorem landArrival_alm (s : State) (p id n : Nat) (errs : List (Nat × CwErr)) : (landArrival s p id n errs).alm = s.alm := by
  unfold landArrival
  dsimp only
  (repeat' split) <;> simp [dropRead, modRead]

/-! ## Legs under way -/

theorem beginTile_alm (f : Flight) (l : StrikeLeg) (b : Nat) (a : State × List TileOuts) (x : Nat × Nat × Bundle) :
    (beginTile f l b a x).1.alm = a.1.alm := by
  unfold beginTile
  dsimp only
  (repeat' split) <;> simp

@[simp] theorem beginStrike_alm (s : State) (f : Flight) (l : StrikeLeg) (tiles : List (Nat × Nat × Bundle)) : (beginStrike s f l tiles).alm = s.alm := by
  have h := foldl_fst_keeps State.alm _ (beginTile_alm f l (f.due / 8)) tiles (s, [])
  simp only [beginStrike, apply_ite State.alm, follow_alm, h, ite_self]

@[simp] theorem landOutputs_alm (s : State) (f : Flight) (l : StrikeLeg) (rs : List TileOuts) : (landOutputs s f l rs).alm = s.alm := by
  simp [landOutputs, takeBus, takeBanks, convOuts, apply_ite State.alm]

@[simp] theorem landReduced_alm (s : State) (f : Flight) (l : ReduceLeg) (string : Nat) (outs : List PVal) : (landReduced s f l string outs).alm = s.alm := by
  simp [landReduced, convOuts, apply_ite State.alm]

@[simp] theorem landBytes_alm (p : Nat) (s : State) (w : Nat × Nat × List MByte) : (landBytes p s w).alm = s.alm := by
  simp [landBytes, apply_ite State.alm]

@[simp] theorem landResult_alm (s : State) (f : Flight) (ws : List (Nat × Nat × List MByte)) (k : Tally) (qs : Quants) :
    (landResult s f ws k qs).alm = s.alm := by
  unfold landResult
  dsimp only
  rw [flightCons_alm, forEach_alm _ fun _ _ => modCore_alm .., modCore_alm, forEach_alm _ fun _ _ => landBytes_alm ..]

@[simp] theorem landTile_alm (s : State) (f : Flight) (d : MatrixDesc) (t : Nat) : (landTile s f d t).alm = s.alm := by
  simp [landTile, apply_ite State.alm]

@[simp] theorem landBlock_alm (s : State) (f : Flight) (d : AttnDesc) (cyc j : Nat) (run : AttnRun) : (landBlock s f d cyc j run).alm = s.alm := by
  unfold landBlock
  dsimp only
  (repeat' split) <;> simp

@[simp] theorem noteOvf_alm (s : State) (n j : Nat) (ovf : Bool) : (noteOvf s n j ovf).alm = s.alm := by
  unfold noteOvf
  split <;> rfl

@[simp] theorem landPost_alm (s : State) (f : Flight) (w : PostRec) : (landPost s f w).alm = s.alm := by
  have htable (t : State) (n : Nat) : (tableBuilt t n).alm = t.alm := by unfold tableBuilt; split <;> rfl
  unfold landPost
  dsimp only
  (repeat' split) <;> simp [htable, noteStaging]

@[simp] theorem landLinkSlot_alm (s : State) (f : Flight) (addr n off : Nat) (bs : List MByte) : (landLinkSlot s f addr n off bs).alm = s.alm := by
  simp [landLinkSlot, clearUnits, apply_ite State.alm]

@[simp] theorem sendSlot_alm (s : State) (p : Nat) (bs : List MByte) : (sendSlot s p bs).alm = s.alm := by
  simp [sendSlot, apply_ite State.alm]

/-- No effect of a leg touches the Almanac. -/
@[simp] theorem landOne_alm (s : State) (f : Flight) : (landOne s f).alm = s.alm := by
  unfold landOne
  split
  case h_5 => exact forEach_alm _ (fun _ _ => modTile_alm ..) _ s
  all_goals simp

theorem landFuel_alm (n cc : Nat) (s : State) : (landFuel n cc s).alm = s.alm := by
  induction n generalizing s with
  | zero => rfl
  | succ n ih =>
    unfold landFuel
    split
    · rfl
    · rw [ih, landOne_alm]

theorem landDue_alm (s : State) (cc : Nat) : (landDue s cc).alm = s.alm := landFuel_alm ..

/-- Of the Almanac only the count and EPOCH_OUT change as the count moves. -/
theorem setBeat_alm (s : State) (b : Beat) :
    (setBeat s b).alm = { s.alm with beat := b, epochOut := s.alm.epoutEn && decide (b.toNat % epochBeats < 4) } := by
  have h : (if b.toNat / 200 = s.alm.beat.toNat / 200 then s else takeSnap (landDue s (1600 * (b.toNat / 200)))).alm = s.alm := by
    split
    · rfl
    · exact landDue_alm ..
  simp only [setBeat, landDue_alm, h]

theorem advanceTo_epinEn (s : State) (b : Nat) : (advanceTo s b).alm.epinEn = s.alm.epinEn := by
  unfold advanceTo
  split
  · rw [setBeat_alm]
  · rfl

theorem advanceTo_epinDly (s : State) (b : Nat) : (advanceTo s b).alm.epinDly = s.alm.epinDly := by
  unfold advanceTo
  split
  · rw [setBeat_alm]
  · rfl

end Sys2Proof.Machine
end

section
/-! PROOFS. The Almanac (R262 to R270): lock, epochs, ALIGN, alignment and the reference. -/

namespace Sys2Proof.Machine

theorem pllLocks_locks {s : State} (hl : s.alm.pllLock = false) (hr : inReset s = false) (hp : s.pwr.st ≠ 3) {m : Bool}
    (hm : (!s.hzl.formed || s.hzl.root) = m) :
    pllLocks s = { s with alm :=
      { s.alm with pllLock := true, refOk := true, master := m, aligned := s.alm.aligned || m, devnum := s.hzl.devnum
                   epochOut := s.alm.epoutEn && decide (s.alm.beat.toNat % epochBeats < 4) } } := by
  simp only [pllLocks, hl, hr, beq_eq_false_iff_ne.mpr hp, Bool.or_self, Bool.false_eq_true, if_false, hm, almMod]

theorem epochBoundary_counts {s : State} (hl : s.alm.pllLock = true) :
    epochBoundary s = countEpoch (endReplacings (endPortEpochs (rekeyPorts (advanceTo s (nextEpoch s))))) := if_pos hl

theorem epochBoundary_deepCamp {s : State} (hl : s.alm.pllLock = false) (hp : s.pwr.st = 3) :
    epochBoundary s = { s with pwr := { s.pwr with epochsPassed := s.pwr.epochsPassed + 1 } } :=
  (if_neg (ne_true_of_eq_false hl)).trans (if_pos hp)

theorem alignSend_sends {s : State} (hl : s.alm.pllLock = true) (hm : s.alm.master = true) {t : State}
    (ht : advanceTo s (cdiv s.alm.beat.toNat (2 ^ 20) * 2 ^ 20) = t) :
    alignSend s = forEach (treePorts t) t fun s p => sendCtrl s p 3 (ctrlWord 1 (packNat [(t.alm.beat.toNat / 2 ^ 20, 0, 44)])) := by
  subst ht
  simp only [alignSend, hl, hm, Bool.and_self, if_true, alignBeats]

/-! ## EPOCH_IN (R268) -/

theorem epochInEdge_off {s : State} (hl : s.alm.pllLock = true) (he : s.alm.epinEn = false) (edge : Nat) : epochInEdge s edge = advanceTo s edge := by
  simp only [epochInEdge, hl, if_true, advanceTo_epinEn, he, Bool.false_and, Bool.false_eq_true, if_false]

theorem epochInEdge_on {s : State} (hl : s.alm.pllLock = true) (he : s.alm.epinEn = true) (edge : Nat) {x : Nat}
    (hx : (edge + s.alm.epinDly.toNat) % epochBeats = x) :
    epochInEdge s edge = if 1 < x ∧ x < epochBeats - 1 then leaveAlignment (advanceTo s edge) else advanceTo s edge := by
  simp only [epochInEdge, hl, if_true, advanceTo_epinEn, he, Bool.true_and, edgeOff, advanceTo_epinDly, hx, Bool.and_eq_true, decide_eq_true_eq]

/-! ## The reference (R265) -/

theorem referenceLost_locked {s : State} (hl : s.alm.pllLock = true) (v : Bool) :
    referenceLost s v = { s with alm :=
      { s.alm with refOk := s.alm.src == 2 && v, refloss := satAdd s.alm.refloss 1, fallback := s.alm.src == 2 && v
                   holdover := !(s.alm.src == 2 && v) } } := if_pos hl

theorem relockRef_locked {s : State} (hl : s.alm.pllLock = true) :
    relockRef s = { s with alm := { s.alm with refOk := true, holdover := false, fallback := false } } := if_pos hl

theorem holdoverTimeout_leaves {s : State} (hh : s.alm.holdover = true) (hf : s.alm.fallback = false) (hm : s.alm.master = false) :
    holdoverTimeout s = leaveAlignment s := by
  simp only [holdoverTimeout, hh, hf, hm, Bool.not_false, Bool.and_self, if_true]

/-! ## Leaving alignment and coming back to it (R269, R270) -/

theorem leaveAlignment_alm {s : State} (ha : s.alm.aligned = true) :
    (leaveAlignment s).alm = { s.alm with aligned := false, misalign := satAdd s.alm.misalign 1 } := by
  unfold leaveAlignment
  rw [if_pos ha]
  exact forEach_alm _ (fun s x => (modQ_mailboxOnly ..).alm) _ _

theorem moveEng_alm (d : Int) (b : Nat) (s : State) (e : Nat) : (moveEng d b s e).alm = s.alm := by
  have hlose (s : State) (c : Circ) : (loseCirc e s c).alm = s.alm := by
    unfold loseCirc
    dsimp only
    split
    · exact (modQ_mailboxOnly ..).alm
    · rfl
  unfold moveEng
  split
  · rfl
  · exact forEach_alm _ hlose _ _

/-- A step of the count: of the Almanac, the count, EPOCH_OUT and the alignment change. -/
theorem realign_alm (s : State) (b : Nat) :
    (realign s b).alm = { s.alm with beat := BitVec.ofNat 64 b, aligned := true
                                     epochOut := s.alm.epoutEn && decide ((BitVec.ofNat 64 b).toNat % epochBeats < 4) } := by
  have hmove (d : Int) (t : State) : (forEach (List.range 64) t (moveEng d b)).alm = t.alm := forEach_alm _ (moveEng_alm d b) _ t
  simp only [realign, almMod, setBeat_alm, hmove]

/-! ## ALIGN words (R267, R269, R270) -/

/-- The difference that a word from the upstream port records, where the word brings the count `sent` (R293). -/
def skewNoted (s : State) (p sent : Nat) : State :=
  almMod s fun a => { a with skewDiff := BitVec.ofNat 8 (unsign 8 (skewOf s.alm.beat.toNat sent)), skewDelay := BitVec.ofNat 8 (getPort s p).d.toNat }

theorem leaveAlignment_skewNoted {s : State} (ha : s.alm.aligned = true) (p sent : Nat) :
    (leaveAlignment (skewNoted s p sent)).alm =
      { (skewNoted s p sent).alm with aligned := false, misalign := satAdd s.alm.misalign 1 } := leaveAlignment_alm (s := skewNoted s p sent) ha

theorem realign_beat (s : State) (b : Nat) : (realign s b).alm.beat = BitVec.ofNat 64 b := by rw [realign_alm]

theorem realign_aligned (s : State) (b : Nat) : (realign s b).alm.aligned = true := by rw [realign_alm]

/-- A step of the count is no misalignment, whatever difference (`x`, `y`) has been recorded. -/
theorem realign_misalign (s : State) (x y : BitVec 8) (b : Nat) :
    (realign { s with alm := { s.alm with skewDiff := x, skewDelay := y } } b).alm.misalign = s.alm.misalign := by rw [realign_alm]

/-- What the device then does about its own count. -/
def alignActed (s : State) (p sent : Nat) : State :=
  if !s.alm.aligned then realign (skewNoted s p sent) sent
  else if s.alm.beat.toNat ≤ sent + 1 ∧ sent ≤ s.alm.beat.toNat + 1 then skewNoted s p sent
  else leaveAlignment (skewNoted s p sent)

/-- The word goes on down the tree. -/
def alignPassed (p body : Nat) (s : State) : State :=
  forEach ((treePorts s).filter (· ≠ p)) s fun s q => sendCtrl s q 3 (alignOnward s p body)

/-- What a word from the upstream port does, for the count `sent` that it brings. -/
def alignFrom (s : State) (p body sent : Nat) : State :=
  let own := s.alm.beat.toNat
  let s1 := skewNoted s p sent
  let s2 := if !s1.alm.aligned then realign s1 sent else if own ≤ sent + 1 ∧ sent ≤ own + 1 then s1 else leaveAlignment s1
  alignPassed p body s2

theorem alignFrom_eq (s : State) (p body sent : Nat) : alignFrom s p body sent = alignPassed p body (alignActed s p sent) := rfl

theorem alignWord_eq (s : State) (p body : Nat) :
    alignWord s p body = if s.alm.pllLock && !s.alm.master && (getPort s p).upstream then alignFrom s p body (alignCount s p body) else s := rfl

theorem alignCount_eq (s : State) (p body : Nat) :
    alignCount s p body = bitsOf body 0 44 * 2 ^ 20 + bitsOf body 50 10 + (getPort s p).d.toNat := rfl

theorem alignWord_upstream {s : State} {p : Nat} (hl : s.alm.pllLock = true) (hm : s.alm.master = false) (hu : (getPort s p).upstream = true)
    {body sent : Nat} (hs : alignCount s p body = sent) {t : State} (ht : alignActed s p sent = t) : alignWord s p body = alignPassed p body t := by
  rw [alignWord_eq, if_pos (by rw [hl, hm, hu]; rfl), alignFrom_eq, hs, ht]

theorem alignActed_near {s : State} {sent : Nat} (ha : s.alm.aligned = true) (h1 : s.alm.beat.toNat ≤ sent + 1) (h2 : sent ≤ s.alm.beat.toNat + 1)
    (p : Nat) : alignActed s p sent = skewNoted s p sent := by
  unfold alignActed
  rw [if_neg (by rw [ha]; decide), if_pos ⟨h1, h2⟩]

theorem alignActed_far {s : State} {sent : Nat} (ha : s.alm.aligned = true)
    (hn : ¬(s.alm.beat.toNat ≤ sent + 1 ∧ sent ≤ s.alm.beat.toNat + 1)) (p : Nat) : alignActed s p sent = leaveAlignment (skewNoted s p sent) := by
  unfold alignActed
  rw [if_neg (by rw [ha]; decide), if_neg hn]

theorem alignActed_unaligned {s : State} (ha : s.alm.aligned = false) (p sent : Nat) : alignActed s p sent = realign (skewNoted s p sent) sent := by
  unfold alignActed
  rw [if_pos (by rw [ha]; decide)]

/-- Settles O29: each command of the Almanac under the hypotheses of its clause. -/
theorem theBeatIsKept : Obligations.TheBeatIsKept := by
  refine ⟨⟨fun s hl hr hp => next_congr (pllLocks_locks hl hr hp rfl), fun s hl => next_congr (epochBoundary_counts hl),
    fun s hl hp => next_congr (epochBoundary_deepCamp hl hp), fun s hl hm => next_congr (alignSend_sends hl hm rfl),
    fun s edge hl he => next_congr (epochInEdge_off hl he _), fun s edge hl he _ => next_congr (epochInEdge_on hl he _ rfl),
    fun s v hl => next_congr (referenceLost_locked hl v), fun s hl => next_congr (relockRef_locked hl),
    fun s hh hf hm => next_congr (holdoverTimeout_leaves hh hf hm)⟩, fun s p body hl hm hu => ?_⟩
  refine ⟨fun ha h1 h2 => ?_, fun ha hn => ⟨?_, leaveAlignment_skewNoted ha p _⟩,
    fun ha => ⟨?_, realign_beat .., realign_aligned .., fun _ => realign_misalign ..⟩⟩
  · exact next_congr (alignWord_upstream hl hm hu (alignCount_eq ..) (alignActed_near ha h1 h2 p))
  · exact next_congr (alignWord_upstream hl hm hu (alignCount_eq ..) (alignActed_far ha hn p))
  · exact next_congr (alignWord_upstream hl hm hu (alignCount_eq ..) (alignActed_unaligned ha p _))

end Sys2Proof.Machine
end

section
/-! PROOFS. Circuits, the watchdog, holds and bank switches (R226, R276 to R279, R285, R286). -/

namespace Sys2Proof.Machine

/-! ## COMMIT and the start of a circuit (R276, R277) -/

theorem commitCircuit_commits {s : State} {e k b : Nat} (hb : circuitBeat (getEng s e) k = b) (h : canCommit s e k b = true) {s1 s3 : State} {c : Circ}
    (hs1 : retireCircuits (advanceTo s (b - 1024)) e = s1) (hc : formCircuit s1 e k b = c)
    (hs3 : sendWord (modEng (takeToken s1 e c) e fun g => { g with circuits := g.circuits ++ [c], skipNext := false }) e c none = s3) :
    commitCircuit s e k = if c.live then leaveHalt s3 5 else s3 := by
  subst hb hs1 hc hs3
  exact if_pos h

theorem commitCircuit_late {s : State} {e k : Nat} (h : canCommit s e k (circuitBeat (getEng s e) k) = false) : commitCircuit s e k = s :=
  if_neg (ne_true_of_eq_false h)

/-- Whether a core's Drover holds an itinerary of an engagement. -/
def HoldsItin (s : State) (p : Nat) (e : Fin 64) : Prop := ∃ i ∈ (getCore s p).itins, i.eng = e ∧ 0 < i.len

theorem holdsItin_iff (s : State) (p : Nat) (e : Fin 64) :
    ((getCore s p).itins.any fun i => i.eng.val == e.val && decide (0 < i.len)) = true ↔ HoldsItin s p e := by
  simp only [List.any_eq_true, Bool.and_eq_true, beq_iff_eq, decide_eq_true_eq, Fin.val_inj, HoldsItin]

/-- A circuit starts at a Drover that runs and holds an itinerary of its engagement, unless its beat has passed. -/
def StartsHere (s : State) (c : Nat) (e : Fin 64) (b : Nat) : Prop :=
  coreRuns s c = true ∧ HoldsItin s (physOf s c) e ∧ s.alm.beat.toNat ≤ b

theorem startsHere_iff (s : State) (c : Nat) (e : Fin 64) (b : Nat) :
    (coreRuns s c && ((getCore s (physOf s c)).itins.any fun i => i.eng.val == e.val && decide (0 < i.len)) && decide (s.alm.beat.toNat ≤ b)) = true ↔
      StartsHere s c e b := by
  rw [Bool.and_eq_true, Bool.and_eq_true, holdsItin_iff, decide_eq_true_eq, and_assoc, StartsHere]

section
variable {s : State} {c : Nat} {e : Fin 64} {k b : Nat} (hb : circuitBeat (getEng s e) k = b) (hs : StartsHere s c e b) {t : State}
  (ht : endCondemned (retireCircuits (advanceTo s b) e) e = t)
include hb hs ht

theorem circuitStarts_word (w : BitVec 64) {x : Circ} (hx : circOfWord k b (b + 2 * engPeriod (getEng s e)) w.toNat = x) :
    circuitStarts s c e k (some w) =
      if !x.live then t
      else if !epochFits (getEng s e) b w.toNat || (getEng s e).staleStop then condemnCirc t e x stStale else runCircuit t (physOf s c) e x := by
  subst hb ht hx
  exact if_pos ((startsHere_iff ..).mpr hs)

theorem circuitStarts_noWord {x : Circ} (hx : ((getEng s e).circuits.find? fun y => y.k == k) = some x) :
    circuitStarts s c e k none = condemnCirc t e x stFenced := by
  subst hb ht
  refine (if_pos ((startsHere_iff ..).mpr hs)).trans ?_
  rw [hx]

end

theorem circuitStarts_elsewhere {s : State} {c : Nat} {e : Fin 64} {k : Nat} (h : ¬StartsHere s c e (circuitBeat (getEng s e) k))
    (word : Option (BitVec 64)) : circuitStarts s c e k word = s := if_neg fun hc => h ((startsHere_iff ..).mp hc)

/-- Settles O30: a start goes by whether it is this Drover's, then by the word. -/
theorem circuitsAreCommittedAndStart : Obligations.CircuitsAreCommittedAndStart := by
  refine ⟨fun s e k => ⟨fun h => next_congr (commitCircuit_commits rfl h rfl rfl rfl), fun h => next_congr (commitCircuit_late h)⟩,
    fun s c e k word => ⟨fun hc hh hb => ?_, fun h => ?_⟩⟩
  · have hs : StartsHere s c e (circuitBeat (getEng s e) k) := ⟨hc, hh, hb⟩
    refine ⟨fun w hw => ?_, fun hw x hx => ?_⟩
    · subst hw
      refine ⟨fun hl hst => ?_, fun hl hst => ?_, fun hl => ?_⟩
      · refine next_congr ((circuitStarts_word rfl hs rfl w rfl).trans ?_)
        obtain ⟨hfit, hgo⟩ := hst
        rw [if_neg (by simp [circOfWord, hl]), if_neg (by simp [hfit, hgo])]
      · refine next_congr ((circuitStarts_word rfl hs rfl w rfl).trans ?_)
        rw [if_neg (by simp [circOfWord, hl]), if_pos]
        revert hst
        cases epochFits (getEng s e) (circuitBeat (getEng s e) k) w.toNat <;> cases (getEng s e).staleStop <;> decide
      · refine next_congr ((circuitStarts_word rfl hs rfl w rfl).trans ?_)
        rw [if_pos (by simp [circOfWord, hl])]
    · subst hw
      exact next_congr (circuitStarts_noWord rfl hs rfl hx)
  · refine next_congr (circuitStarts_elsewhere (fun ⟨hc, hh, hb⟩ => ?_) word)
    obtain h | h | h := h
    · exact ne_true_of_eq_false h hc
    · exact h hh
    · exact Nat.not_lt.mpr hb h

/-! ## Holds move more than the anchor (R226) -/

/-- An engagement that runs, with a hold due at the present beat. -/
def heldNow : State := modEng State.reset 0 fun g => { g with st := .ready, holds := [0] }

/-- The start of a hold is also kept with the engagement, so that a word formed before it still fits (R276). -/
theorem startHold_heldNow_movedAt : (getEng (startHold heldNow 0) 0).movedAt = [0] := by decide +kernel

theorem heldNow_movedAt : (getEng (advanceTo heldNow 0) 0).movedAt = [] := by decide +kernel

/-- Refutes O31: a hold that starts also notes its beat in the engagement's `movedAt`, which the statement says does not change. -/
theorem not_holdsMoveTheAnchor : ¬Obligations.HoldsMoveTheAnchor := by
  rintro ⟨-, -, hhold, -⟩
  obtain ⟨t, ht, heng, -⟩ := hhold heldNow 0 0 [] (by decide +kernel) (by decide +kernel)
  have hst : startHold heldNow 0 = t := Host.Outcome.next.inj ht
  rw [← hst] at heng
  have hm : ([0] : List Beat) = [] := startHold_heldNow_movedAt.symm.trans ((congrArg Eng.movedAt heng).trans heldNow_movedAt)
  exact List.cons_ne_nil _ _ hm

end Sys2Proof.Machine
end

section
/-! PROOFS. Admission, placement and rebinding (R386 to R397, R439). -/

namespace Sys2Proof.Machine

/-! ## ADMIT (R388) -/

/-- ADMIT's checks in their order, for the manifest `bs` that the message names. -/
def admitChecked (t : State) (mb : Mb) (w : List Word) (bs : List Byte) : State :=
  if !t.ptl.stDone then finishMsg t mb w stBusy []
  else if !manifestOk bs then finishMsg t mb w stBadFormat []
  else if packsProtected bs then finishMsg t mb w stPolicy []
  else if !routeHeld t bs then finishMsg (freshen t) mb w stPolicy []
  else match residentMatch t (Config.sha384 bs) with
    | some e => if sealedToTenant t e then finishMsg (freshen t) mb w stSealed [] else placeOrRefuse (freshen t) mb w bs e
    | none =>
      match freeNumber t with
      | some e => placeOrRefuse (freshen t) mb w bs e
      | none => finishMsg (freshen t) mb w stCapacity (refusedWords 0 0x0A)

theorem exec_admitModel {s : State} {mb : Mb} (h : Accepted s mb 0x02) {t : State} (ht : admitChecked (taken s mb) mb (msgAt s mb)
      (winBytes (taken s mb) (wordAt (msgAt s mb) 1) (wordAt (msgAt s mb) 2)) = t) :
    exec (.admitModel mb) s = .next t := exec_accepted rfl h ht

section
variable {t : State} {bs : List Byte}

theorem admitChecked_untested (hd : t.ptl.stDone = false) (mb : Mb) (w : List Word) : admitChecked t mb w bs = finishMsg t mb w stBusy [] := by
  unfold admitChecked
  rw [hd]
  rfl

variable (hd : t.ptl.stDone = true)
include hd

theorem admitChecked_unsound (ho : manifestOk bs = false) (mb : Mb) (w : List Word) : admitChecked t mb w bs = finishMsg t mb w stBadFormat [] := by
  unfold admitChecked
  rw [hd, ho]
  rfl

variable (ho : manifestOk bs = true)
include ho

theorem admitChecked_packed (hp : packsProtected bs = true) (mb : Mb) (w : List Word) : admitChecked t mb w bs = finishMsg t mb w stPolicy [] := by
  unfold admitChecked
  rw [hd, ho, hp]
  rfl

variable (hp : packsProtected bs = false)
include hp

theorem admitChecked_routeNotHeld (hr : routeHeld t bs = false) (mb : Mb) (w : List Word) :
    admitChecked t mb w bs = finishMsg (freshen t) mb w stPolicy [] := by
  unfold admitChecked
  rw [hd, ho, hp, hr]
  rfl

variable (hr : routeHeld t bs = true)
include hr

theorem admitChecked_sealed {e : Nat} (he : residentMatch t (Config.sha384 bs) = some e) (hs : sealedToTenant t e = true) (mb : Mb) (w : List Word) :
    admitChecked t mb w bs = finishMsg (freshen t) mb w stSealed [] := by
  unfold admitChecked
  rw [hd, ho, hp, hr, he]
  exact if_pos hs

/-- The number that a manifest takes: the RESIDENT engagement it repeats, or the lowest free one. -/
theorem admitChecked_places {e : Nat} (he : (residentMatch t (Config.sha384 bs) = some e ∧ sealedToTenant t e = false) ∨
      (residentMatch t (Config.sha384 bs) = none ∧ freeNumber t = some e)) (mb : Mb) (w : List Word) :
    admitChecked t mb w bs = placeOrRefuse (freshen t) mb w bs e := by
  unfold admitChecked
  rw [hd, ho, hp, hr]
  obtain ⟨he, hs⟩ | ⟨he, hf⟩ := he
  · rw [he]
    exact if_neg (ne_true_of_eq_false hs)
  · rw [he, hf]
    rfl

theorem admitChecked_full (he : residentMatch t (Config.sha384 bs) = none) (hf : freeNumber t = none) (mb : Mb) (w : List Word) :
    admitChecked t mb w bs = finishMsg (freshen t) mb w stCapacity (refusedWords 0 0x0A) := by
  unfold admitChecked
  rw [hd, ho, hp, hr, he, hf]
  rfl

end

theorem placeOrRefuse_inService {s : State} (h : s.ptl.inservice = true) (mb : Mb) (w : List Word) (bs : List Byte) (e : Nat) :
    placeOrRefuse s mb w bs e = beginPlacing s mb w bs e := if_pos h

theorem placeOrRefuse_outOfService {s : State} (h : s.ptl.inservice = false) (mb : Mb) (w : List Word) (bs : List Byte) (e : Nat) :
    placeOrRefuse s mb w bs e = finishMsg s mb w stCapacity (refusedWords 0 0x11) := if_neg (ne_true_of_eq_false h)

/-! ## PLACEMENT_COMMIT (R389, R392, R408) -/

theorem commitCommand_placing {s : State} {e : Fin 64} (h : (getEng s e).st = .placing) (pl : Plan) : commitCommand s e pl =
    if !planOk s e pl then refuseAdmit s e stBadFormat 0
    else if (getEng s e).prev = .resident ∧ strikesSealed s pl then refuseAdmit s e stSealed 0
    else match placeRefusal s e pl with
      | some c => refuseAdmit (freshen s) e stCapacity c
      | none => answerAdmit (tidyPlacing (commitPlacement (freshen s) e pl)) e stOk
          [packWord [(e.val, 0, 6)], packWord [(pl.period, 0, 15)], BitVec.ofNat 32 pl.anchor.toNat, BitVec.ofNat 32 (pl.anchor.toNat / 2 ^ 32)] := by
  have hs : ¬((getEng s e).st = .suspended ∧ (getEng s e).takeover = false ∧ (getEng s e).swapAt = none ∧ s.ldg.takeover = false) := by
    rw [h]
    exact fun hc => EngState.noConfusion hc.1
  exact (if_neg hs).trans (if_pos h)

theorem commitCommand_suspended {s : State} {e : Fin 64} {pl : Plan} (h : (getEng s e).st = .suspended) (ht : (getEng s e).takeover = false)
    (hx : (getEng s e).swapAt = none) (hl : s.ldg.takeover = false) (ho : planOk s e pl = true) (hr : refusing s e [] pl = none)
    (hd : (pl.decks.map fun d => logicalDeck d.addr) = (getEng s e).decks) :
    commitCommand s e pl =
      nameSwap (modEng (loadStandby (writeImages s e pl) e pl) e fun g => { g with nextPlan := some pl, nextSt := some .ready }) e (nextEpoch s) := by
  unfold commitCommand
  dsimp only
  rw [if_pos ⟨h, ht, hx, hl⟩, replaceSuspended]
  dsimp only
  rw [if_pos (by rw [ho, hr, hd, beq_self_eq_true]; rfl)]

/-! ## REBIND (R396, R397) -/

section
variable {s : State} {mb : Mb} {f g : Fin 64} {kind : Nat} {pf pt : Plan}

/-- A REBIND in range, of two engagements that run, with no change in progress, goes by its kind. -/
theorem exec_rebind (h : Accepted s mb 0x04) (hf : Fin.ofNat 64 (engField (msgAt s mb)) = f) (hg : Fin.ofNat 64 (bitsOf (wordAt (msgAt s mb) 1) 8 6) = g)
    (hk : bitsOf (wordAt (msgAt s mb) 1) 16 2 = kind) (hr : rebindRange kind (wordAt (msgAt s mb) 2) (wordAt (msgAt s mb) 3) = true) (hfg : f ≠ g)
    (hbf : unbindable (getEng (taken s mb) f).st = false) (hbg : unbindable (getEng (taken s mb) g).st = false) (hb : rebindBusy (taken s mb) = false)
    (ho : (taken s mb).tol.overLimit = false) :
    exec (.rebind mb pf pt) s = .next
      (if kind = 3 then rebindQueue (taken s mb) mb (msgAt s mb) f g else rebindPlaces (taken s mb) mb (msgAt s mb) f g pf pt) := by
  subst hf hg hk
  refine exec_accepted rfl h ?_
  dsimp only
  rw [hr, hbf, hbg, hb, ho, beq_eq_false_iff_ne.mpr hfg, if_neg (by decide), if_neg (by decide), if_neg (by decide), if_neg (by decide)]

theorem rebindQueue_moves {t : State} {w : List Word} {m : BitVec 16} (hm : BitVec.ofNat 16 ((2 ^ wordAt w 3 - 1) * 2 ^ wordAt w 2) = m) {x : Nat}
    (hx : swapBeat t ((getEng t f).route || (getEng t g).route) = x) (hb : (getEng t f).bound &&& m = m) {t1 : State}
    (ht : nameSwap (modEng t f fun e => { e with nextBound := some (e.bound &&& ~~~m), swapWith := some g }) f x = t1) :
    rebindQueue t mb w f g = finishMsg
      (nameSwap (modEng t1 g fun e => { e with nextBound := some (e.bound ||| m), swapWith := some f }) g x) mb w stOk
      [BitVec.ofNat 32 x, BitVec.ofNat 32 (x / 2 ^ 32)] := by
  subst hm hx ht
  exact if_neg fun hc => hc hb

theorem rebindPlaces_moves {t : State} {w : List Word} (hk : bitsOf (wordAt w 1) 16 2 = kind) (hc : ¬(pf.itins = [] ∧ holdsCons t f = true))
    (hpf : planOk t f pf = true) (hpt : planOk t g pt = true) (hsf : strikesSealed t pf = false) (hst : strikesSealed t pt = false)
    (hm : rebindMoves (getEng t f) (getEng t g) kind (wordAt w 2) (wordAt w 3) pf pt = true) (hres : (getEng t f).st ≠ .resident)
    (hrf : refusing t f [g.val] pf = none) (hrt : refusing (withPlan t f pf) g [] pt = none)
    (ht : (getEng t g).st = .resident → hasTargets t g = true) {x : Nat}
    (hx : swapBeat t (kind == 2 || (getEng t f).route || (getEng t g).route) = x) {t1 : State}
    (ht1 : nameRebind t f g pf (if pf.itins = [] then some .resident else none) x = t1) :
    rebindPlaces t mb w f g pf pt = finishMsg (nameRebind t1 g f pt (if (getEng t g).st = .resident then some .ready else none) x) mb w stOk
      [BitVec.ofNat 32 x, BitVec.ofNat 32 (x / 2 ^ 32)] := by
  subst hk hx ht1
  have htargets : ((getEng t g).st == .resident && !hasTargets t g) = false := by
    rw [Bool.and_eq_false_imp]
    exact fun h => by rw [ht (eq_of_beq h)]; rfl
  unfold rebindPlaces
  dsimp only
  rw [if_neg (by rwa [List.isEmpty_iff]), hpf, hpt, if_neg (by decide), hsf, hst, if_neg (by decide), hm, beq_eq_false_iff_ne.mpr hres, hrf, hrt,
    htargets, if_neg (by decide)]
  simp only [List.isEmpty_iff]

end

/-- Settles O21: each clause is one outcome of the checks of its message. -/
theorem admissionAndRebinding : Obligations.AdmissionAndRebinding := by
  refine ⟨⟨fun s mb h => ?_, fun s e pl hst => ?_, fun s e pl h ht hx hl ho hr hd => next_congr (commitCommand_suspended h ht hx hl ho hr hd)⟩,
    fun s mb pf pt h => ?_⟩
  · have hx := exec_admitModel h rfl
    refine ⟨fun hd => ?_, fun hd ho => ?_, fun hd ho => ⟨fun hp => ?_, fun hp hr => ?_, fun hp hr => ⟨fun e he hs => ?_, fun e he => ⟨fun hv => ?_, fun hv => ?_⟩,
      fun he hf => ?_⟩⟩⟩
    · rw [hx, admitChecked_untested hd, answered]
    · rw [hx, admitChecked_unsound hd ho, answered]
    · rw [hx, admitChecked_packed hd ho hp, answered]
    · rw [hx, admitChecked_routeNotHeld hd ho hp hr, answered]
    · rw [hx, admitChecked_sealed hd ho hp hr he hs, answered]
    · rw [hx, admitChecked_places hd ho hp hr he, placeOrRefuse_inService (s := freshen (taken s mb)) hv]
    · rw [hx, admitChecked_places hd ho hp hr he, placeOrRefuse_outOfService (s := freshen (taken s mb)) hv, answered]
    · rw [hx, admitChecked_full hd ho hp hr he hf, answered]
  · have hc := commitCommand_placing hst pl
    refine ⟨fun ho => next_congr (hc.trans (by rw [ho]; rfl)), fun ho hp hs => next_congr (hc.trans ?_), fun ho hok => ?_⟩
    · rw [ho, if_neg (by decide), if_pos ⟨hp, hs⟩]
    · have hseal : ¬((getEng s e).prev = .resident ∧ strikesSealed s pl = true) := by
        rintro ⟨hp, hs⟩
        exact hok.elim (absurd hp) (ne_true_of_eq_false · hs)
      rw [ho, if_neg (by decide), if_neg hseal] at hc
      exact ⟨fun hr => next_congr (hc.trans (by rw [hr])), fun c hr => next_congr (hc.trans (by rw [hr]))⟩
  · intro t w f g kind hr hfg hbf hbg hb ho
    have hx := exec_rebind (pf := pf) (pt := pt) h rfl rfl rfl hr hfg hbf hbg hb ho
    refine ⟨fun hk => ?_, fun hk hc hpf hpt hsf hst hm hres hrf hrt ht => ?_⟩
    · intro m x hbd t1
      exact hx.trans (next_congr ((if_pos hk).trans (rebindQueue_moves rfl rfl hbd rfl)))
    · exact hx.trans (next_congr ((if_neg hk).trans (rebindPlaces_moves rfl hc hpf hpt hsf hst hm hres hrf hrt ht rfl rfl)))

end Sys2Proof.Machine
end

section
/-! PROOFS. Waybills (R157 to R168): the Lead's checks, segments and reports. -/

namespace Sys2Proof.Machine

/-! ## PROGRAM_WAYBILL (R162, R338) -/

/-- The Lead's checks in their order, for the header and wrap table `front`. -/
def waybillChecked (t : State) (mb : Mb) (w : List Word) (front : List Byte) : State :=
  if !t.ptl.stDone then finishMsg t mb w stBusy []
  else if waybillRuns (getEng t (engField w)) then finishMsg t mb w stBusy []
  else if !waybillFormOk front (wordAt w 3) || (msgGrans w).any fun k => !granNamed t mb k then finishMsg t mb w stBadFormat []
  else if t.fac.ver.toNat < leAt front 16 4 ∨ (getEng t (engField w)).plan = none ∨ leAt front 40 48 ≠ (getEng t (engField w)).manifestHash.toNat then
    finishMsg t mb w stPolicy []
  else
    let s1 := pushRec t mb w { opcode := 0, seq := 0, eng := engField w, grans := ownGrans t mb w }
    sendWay (modEng s1 (engField w) fun g => { g with waybill := some (openWaybill front true s1.hzl.devnum.toNat (wordAt w 2) (wordAt w 3)) })
      s1.hzl.devnum.toNat (front.take (frontLen front))

theorem exec_programWaybill {s : State} {mb : Mb} (h : Accepted s mb 0x10) {t : State} (ht : waybillChecked (taken s mb) mb (msgAt s mb)
      (winBytes (taken s mb) (wordAt (msgAt s mb) 2) (min (wordAt (msgAt s mb) 3) 16640)) = t) :
    exec (.programWaybill mb) s = .next t := exec_accepted rfl h ht

section
variable {t : State} {w : List Word}

theorem waybillChecked_busy (h : ¬(t.ptl.stDone = true ∧ (getEng t (engField w)).waybill = none)) (mb : Mb) (front : List Byte) :
    waybillChecked t mb w front = finishMsg t mb w stBusy [] := by
  unfold waybillChecked
  cases hd : t.ptl.stDone with
  | false => rfl
  | true =>
    rw [if_neg (by decide), if_pos]
    exact Option.isSome_iff_ne_none.mpr fun hn => h ⟨hd, hn⟩

variable (hfree : t.ptl.stDone = true ∧ (getEng t (engField w)).waybill = none) {mb : Mb} {front : List Byte}
include hfree

theorem waybillChecked_malformed (h : waybillFormOk front (wordAt w 3) = false ∨ ((msgGrans w).all fun k => granNamed t mb k) = false) :
    waybillChecked t mb w front = finishMsg t mb w stBadFormat [] := by
  unfold waybillChecked
  rw [hfree.1, waybillRuns, hfree.2, if_neg (by decide), if_neg (by decide), if_pos]
  obtain h | h := h
  · rw [h]; rfl
  · rw [List.all_eq_not_any_not, Bool.not_eq_false'] at h
    rw [h, Bool.or_true]

variable (hform : waybillFormOk front (wordAt w 3) = true) (hnamed : ((msgGrans w).all fun k => granNamed t mb k) = true)
include hform hnamed

theorem waybillChecked_formed : waybillChecked t mb w front =
    if t.fac.ver.toNat < leAt front 16 4 ∨ (getEng t (engField w)).plan = none ∨ leAt front 40 48 ≠ (getEng t (engField w)).manifestHash.toNat then
      finishMsg t mb w stPolicy []
    else
      let s1 := pushRec t mb w { opcode := 0, seq := 0, eng := engField w, grans := ownGrans t mb w }
      sendWay (modEng s1 (engField w) fun g => { g with waybill := some (openWaybill front true s1.hzl.devnum.toNat (wordAt w 2) (wordAt w 3)) })
        s1.hzl.devnum.toNat (front.take (frontLen front)) := by
  have hany : ((msgGrans w).any fun k => !granNamed t mb k) = false := by
    rwa [List.all_eq_not_any_not, Bool.not_eq_true'] at hnamed
  unfold waybillChecked
  rw [hfree.1, waybillRuns, hfree.2, if_neg (by decide), if_neg (by decide), hform, hany, if_neg (by decide)]

end

/-! ## WAYBILL_SEGMENT (R159, R164) -/

section
variable {s : State} {e : Fin 64} {w : Waybill} (hu : s.fac.up = true)
include hu

theorem waybillSegment_eq (lead : Nat) (bs : List Byte) : waybillSegment s e lead bs =
    match (getEng s e).waybill with
    | none => sendWay (joinWaybill s e lead bs) lead bs
    | some w =>
      if w.lead then
        if w.nSeg ≤ w.sent then s
        else
          let x := leadSegment s w
          let w1 := { w with sent := w.sent + 1, off := w.off + x.1.length }
          let s1 := sendWay (modEng s e fun g => { g with waybill := some w1 }) s.hzl.devnum.toNat x.1
          if waybillShut w1 then s1 else useSegment s1 e w1 (if x.2 then [] else x.1)
      else
        let s1 := sendWay s lead bs
        if waybillShut w then s1 else useSegment s1 e w bs := by
  refine (if_neg (by rw [hu]; decide)).trans ?_
  rfl

theorem waybillSegment_none (hw : (getEng s e).waybill = none) (lead : Nat) (bs : List Byte) :
    waybillSegment s e lead bs = sendWay (joinWaybill s e lead bs) lead bs := by
  rw [waybillSegment_eq hu, hw]

theorem waybillSegment_received (hw : (getEng s e).waybill = some w) (hl : w.lead = false) (lead : Nat) (bs : List Byte) :
    waybillSegment s e lead bs = if waybillShut w then sendWay s lead bs else useSegment (sendWay s lead bs) e w bs := by
  rw [waybillSegment_eq hu, hw]
  exact if_neg (ne_true_of_eq_false hl)

theorem waybillSegment_sent (hw : (getEng s e).waybill = some w) (hl : w.lead = true) (hn : w.sent < w.nSeg) {x : List Byte × Bool}
    (hx : leadSegment s w = x) {w1 : Waybill} (hw1 : { w with sent := w.sent + 1, off := w.off + x.1.length } = w1) {t : State}
    (ht : sendWay (modEng s e fun g => { g with waybill := some w1 }) s.hzl.devnum.toNat x.1 = t) (lead : Nat) (bs : List Byte) :
    waybillSegment s e lead bs = if waybillShut w then t else useSegment t e w1 (if x.2 then [] else x.1) := by
  rw [waybillSegment_eq hu, hw]
  subst hx hw1 ht
  exact (if_pos hl).trans (if_neg (Nat.not_le.mpr hn))

end

theorem joinWaybill_placed {s : State} {e : Fin 64} {bs : List Byte} (hp : (getEng s e).plan ≠ none) (hw : (getEng s e).waybill = none)
    (hf : waybillFormOk bs bs.length = true) (lead : Nat) :
    joinWaybill s e lead bs = modEng s e fun g => { g with waybill := some (openWaybill bs false lead 0 0) } :=
  if_pos (by rw [Option.isSome_iff_ne_none.mpr hp, hw, hf]; rfl)

theorem joinWaybill_unplaced {s : State} {e : Fin 64} (hp : (getEng s e).plan = none) (lead : Nat) (bs : List Byte) : joinWaybill s e lead bs = s :=
  if_neg (by rw [hp]; exact Bool.false_ne_true)

/-! ## WAYBILL_REPORT (R166, R167) -/

section
variable {s : State} {e d : Fin 64} {w : Waybill} (hu : s.fac.up = true) (hw : (getEng s e).waybill = some w) (hr : ∀ r ∈ w.reports, r.1 ≠ d.val)
include hu hw hr

theorem waybillReport_first (st : Byte) (n k : Nat) : waybillReport s e d st n k =
    if d.val = s.hzl.devnum.toNat then
      if !localOver s e w then s
      else if w.lead then takeReport s e d w (localStatus w) 0 0
      else endWaybill s e (localStatus w == stOk)
    else if w.lead then takeOther s e d w st n k
    else s := by
  have hany : (w.reports.any fun r => r.1 == d.val) = false := List.any_eq_false.mpr fun r h => by simpa using hr r h
  unfold waybillReport
  rw [hw]
  exact if_neg (by rw [hu, hany]; decide)

theorem waybillReport_other (hl : w.lead = true) (hd : d.val ≠ s.hzl.devnum.toNat) (st : Byte) (n k : Nat) :
    waybillReport s e d st n k = takeOther s e d w st n k := by
  rw [waybillReport_first hu hw hr, if_neg hd, if_pos hl]

theorem waybillReport_own (hl : w.lead = false) (hd : d.val = s.hzl.devnum.toNat) (ho : localOver s e w = true) (st : Byte) (n k : Nat) :
    waybillReport s e d st n k = endWaybill s e (localStatus w == stOk) := by
  rw [waybillReport_first hu hw hr, if_pos hd, ho, if_neg (by decide), if_neg (ne_true_of_eq_false hl)]

end

theorem takeOther_linked {w : Waybill} {d : Fin 64} (h : ∀ c ∈ w.cuts, c.1 ≠ d.val) (s : State) (e : Nat) (st : Byte) (n k : Nat) :
    takeOther s e d w st n k = takeReport s e d w st n k := by
  have hfind : (w.cuts.find? fun x => x.1 == d.val) = none := List.find?_eq_none.mpr fun c hc => by simpa using h c hc
  unfold takeOther
  rw [hfind]

theorem takeOther_cut {s : State} {w : Waybill} {d : Fin 64} {c : Nat × Nat} (h : (w.cuts.find? fun x => x.1 == d.val) = some c)
    (hb : c.2 ≤ s.alm.beat.toNat) (e : Nat) (st : Byte) (n k : Nat) : takeOther s e d w st n k = takeReport s e d w stFenced n k := by
  unfold takeOther
  rw [h]
  exact if_pos hb

theorem takeReport_counts {w w1 : Waybill} {st : Byte} {dev n k : Nat}
    (h : { w with reports := w.reports ++ [(dev, st)], done := w.done + n, skipped := w.skipped + k } = w1) (s : State) (e : Nat) :
    takeReport s e dev w st n k =
      if w.reports.length + 1 < (getEng s e).devices then modEng s e fun g => { g with waybill := some w1 }
      else endWaybill (finishRecs s (fun x => x.opcode == 0x10 && x.eng == e) (waybillReply w1).1 (waybillReply w1).2) e ((waybillReply w1).1 == stOk) := by
  have hlen : w1.reports.length = w.reports.length + 1 := by rw [← h, List.length_append, List.length_singleton]
  unfold takeReport
  rw [h]
  dsimp only
  rw [hlen]

/-- Settles O22: the Lead's checks in their order, then segments and reports by what the engagement holds. -/
theorem waybillsAreCarriedOut : Obligations.WaybillsAreCarriedOut := by
  refine ⟨fun s mb h => ?_, fun s e lead bs w hu hw hl => ⟨fun hs => ?_, fun hs => ?_⟩, fun s e lead bs w hu hw hl hn => ⟨fun hs => ?_, fun hs => ?_⟩,
    fun s e lead bs hu hw => ⟨fun hp hf => ?_, fun hp => ?_⟩, fun s e d st n k w hu hw hl hr hd => ⟨fun hc => ?_, fun c hc hb => ?_⟩,
    fun s e d st n k w hu hw hl hr hd ho => next_congr (waybillReport_own hu hw hr hl hd ho ..)⟩
  · have hx := exec_programWaybill h rfl
    refine ⟨fun hb => ?_, fun hf hm => ?_, fun hf hm hg => ⟨fun hfit => ?_, fun hfit => ?_⟩⟩
    · rw [hx, waybillChecked_busy hb, answered]
    · rw [hx, waybillChecked_malformed hf hm, answered]
    · rw [hx, waybillChecked_formed hf hm hg, answered, if_pos]
      refine Classical.byContradiction fun hc => ?_
      obtain ⟨hv, hc⟩ := not_or.mp hc
      obtain ⟨hp, hh⟩ := not_or.mp hc
      exact hfit ⟨Nat.not_lt.mp hv, hp, Classical.not_not.mp hh⟩
    · obtain ⟨hv, hp, hh⟩ := hfit
      rw [hx, waybillChecked_formed hf hm hg, if_neg (not_or.mpr ⟨Nat.not_lt.mpr hv, not_or.mpr ⟨hp, not_not_intro hh⟩⟩)]
  · exact next_congr ((waybillSegment_received hu hw hl ..).trans (if_neg (ne_true_of_eq_false hs)))
  · exact next_congr ((waybillSegment_received hu hw hl ..).trans (if_pos hs))
  · exact next_congr ((waybillSegment_sent hu hw hl hn rfl rfl rfl ..).trans (if_neg (ne_true_of_eq_false hs)))
  · exact next_congr ((waybillSegment_sent hu hw hl hn rfl rfl rfl ..).trans (if_pos hs))
  · exact next_congr ((waybillSegment_none hu hw ..).trans (congrArg (sendWay · lead bs) (joinWaybill_placed hp hw hf lead)))
  · exact next_congr ((waybillSegment_none hu hw ..).trans (congrArg (sendWay · lead bs) (joinWaybill_unplaced hp lead bs)))
  · exact next_congr (((waybillReport_other hu hw hr hl hd ..).trans (takeOther_linked hc ..)).trans (takeReport_counts rfl ..))
  · exact next_congr (((waybillReport_other hu hw hr hl hd ..).trans (takeOther_cut hc hb ..)).trans (takeReport_counts rfl ..))

end Sys2Proof.Machine
end

section
/-! PROOFS. The Assayer (R116 to R129): readings, calibrations, sweeps, and the location of faults. -/

namespace Sys2Proof.Machine

/-- Only what a change makes of the deck as it stands matters. -/
theorem modDeck_congr {s : State} {k : Nat} {f g : Deck → Deck} (h : f (getDeck s k) = g (getDeck s k)) : modDeck s k f = modDeck s k g := by
  unfold getDeck at h
  simp only [modDeck, smod, h]

/-! ## Readings and calibrations (R116 to R122) -/

theorem tempRead_inService {s : State} {t : TileAddr} (h : isOut s t.core = false) (q : Nat) : tempRead s t q =
    hottest (forEach ((List.range 4).map fun i => { core := t.core, string := t.string, tile := t.tile, deck := Fin.ofNat 4 i })
      (modTile s (tileKey s t) fun x => { x with temp := q, thermPause := decide (380 < q) || (x.thermPause && decide (372 < q)) })
      fun v a => rewriteGamma (modDeck v (deckKey v a) (tempDeck q)) a) := if_neg (ne_true_of_eq_false h)

theorem tempRead_out {s : State} {t : TileAddr} (h : isOut s t.core = true) (q : Nat) : tempRead s t q = s := if_pos h

theorem calibrate_samples {s : State} {a : DeckAddr} {d : Deck} {e : Nat} (hd : getDeck s (deckKey s a) = d) (ht : tileServes s a = true)
    (hc : calibrationDue s d = true) (hn : isNext s a (calRank d) = true)
    (he : subStrikesEnd s a true (8 + 8 * fmtQ d.reg.fmt) (s.alm.beat.toNat + deckT s d) = some e) :
    calibrate s a = assayUntil
      { modDeck s (deckKey s a) (fun d =>
          { d with calPend := some (e + 1 + fmtFloor d.reg.fmt, (List.range (fmtOutputs d.reg.fmt)).map (calSums d s.free)) }) with
        free := s.free + 8192 } a e := by
  subst hd
  have hmod : modDeck s (deckKey s a) (fun d => { d with calPend := some (e + 1 + fmtFloor d.reg.fmt,
        (List.range (fmtOutputs (getDeck s (deckKey s a)).reg.fmt)).map (calSums (getDeck s (deckKey s a)) s.free)) }) =
      modDeck s (deckKey s a) (fun d =>
        { d with calPend := some (e + 1 + fmtFloor d.reg.fmt, (List.range (fmtOutputs d.reg.fmt)).map (calSums d s.free)) }) := modDeck_congr rfl
  unfold calibrate
  dsimp only
  rw [if_pos (by rw [ht, hc, hn]; rfl), calStrikes, he]
  dsimp only
  rw [hmod]

theorem coefficientWrite_writes {s : State} {a : DeckAddr} {d : Deck} {b : Nat} {cs : List (Int × Int)} (hd : getDeck s (deckKey s a) = d)
    (hp : d.calPend = some (b, cs)) (hb : b ≤ s.alm.beat.toNat) (hs : served d = true) (hu : updateFits s a = true) :
    coefficientWrite s a = writeCoefficients s a cs := by
  unfold coefficientWrite
  dsimp only
  rw [hd, hp]
  exact if_pos (by rw [decide_eq_true hb, hs, hu]; rfl)

theorem coefficientWrite_rewrites {s : State} {a : DeckAddr} (hp : (getDeck s (deckKey s a)).calPend = none) :
    coefficientWrite s a = rewriteGamma s a := by
  unfold coefficientWrite
  dsimp only
  rw [hp]

theorem rewriteGamma_due {s : State} {a : DeckAddr} (hg : (getDeck s (deckKey s a)).gammaDue = true) (hs : served (getDeck s (deckKey s a)) = true)
    (hu : updateFits s a = true) : rewriteGamma s a = modDeck s (deckKey s a) (scaleGamma (getTile s (deckKey s a / 4)).temp) :=
  if_pos (by rw [hg, hs, hu]; rfl)

theorem rewriteGamma_idle {s : State} {a : DeckAddr} (hg : (getDeck s (deckKey s a)).gammaDue = false) : rewriteGamma s a = s :=
  if_neg (by rw [hg]; exact Bool.false_ne_true)

/-! ## Sweeps (R124 to R127) -/

theorem sweepDeck_samples {s : State} {a : DeckAddr} {d : Deck} {e : Nat} (hd : sweptDeck s (deckKey s a) = d) (ht : tileServes s a = true)
    (hc : sweepDue s d = true) (hn : isNext s a (sweepRank d) = true)
    (he : subStrikesEnd s a false (sweepStrikes d s.free (List.range 2048)) (s.alm.beat.toNat + 16 * deckT s d) = some e) :
    sweepDeck s a = assayUntil
      { modDeck s (deckKey s a) (fun _ => { d with sweepPend := some (sweepResult d s.free e) }) with free := s.free + 131072 } a e := by
  unfold sweepDeck
  dsimp only
  rw [hd, if_pos (by rw [ht, hc, hn]; rfl), he]

/-- A sweep is known from the beat its last sub-strike has ended. -/
theorem sweptDeck_known {s : State} {k : Nat} {r : SweepRes} (h : (getDeck s k).sweepPend = some r) (hr : r.ready ≤ s.alm.beat.toNat) :
    sweptDeck s k = { getDeck s k with
      csSamples := r.samples, flagged := r.flagged, suspect := false, lastSweep := BitVec.ofNat 64 r.ready, sweepPend := none
      wide := (r.sigma.filter fun e => decide (61 < e.2)).map Prod.fst
      csSigma := r.sigma.foldl (fun m e => sset 61 m e.1 (if wideHeld s k e.1 then 61 else min e.2 61)) (getDeck s k).csSigma } := by
  unfold sweptDeck
  dsimp only
  rw [h]
  exact if_pos hr

theorem sweptDeck_unknown {s : State} {k : Nat} {r : SweepRes} (h : (getDeck s k).sweepPend = some r) (hr : s.alm.beat.toNat < r.ready) :
    sweptDeck s k = getDeck s k := by
  unfold sweptDeck
  dsimp only
  rw [h]
  exact if_neg (Nat.not_le.mpr hr)

/-! ## The location of faults (R125, R128, R129) -/

/-- Location once the flags of group `g` are taken from the deck and a group too wide is recorded, in `s2`. -/
def locateRows (s s2 : State) (a : DeckAddr) (d : Deck) (g : Nat) (rows openCols : List Nat) : State :=
  if rows.isEmpty then s2
  else match targetOf s (logicalDeck a) with
  | some t =>
    if t.poisoned ∨ !t.complete then detect s2 { blankFinding a d 9 g 0xFF with rows := rows }
    else
      let start := (List.range 36).map fun j => { off := j, rows := [], below := true, broken := openCols.contains j }
      let r := readRows d t g rows start
      match readsEnd s a r.2 (s.alm.beat.toNat + 16 * deckT s d) with
      | some e => assayUntil (classify s2 a d g rows r.1) a e
      | none => s
  | none => detect s2 { blankFinding a d 9 g 0xFF with rows := rows }

theorem findingLocate_locates {s : State} {a : DeckAddr} {g : Nat} {d : Deck} {rows : List Nat} (hd : sweptDeck s (deckKey s a) = d)
    (hrows : (d.flagged.filter fun x => x.1 == g).map Prod.snd = rows) (hw : rows ≠ [] ∨ d.wide.contains g = true) (hs : served d = true)
    (ht : tileServes s a = true) (hn : isNext s a repairRank = true) {s1 s2 : State}
    (hs1 : (modDeck s (deckKey s a) fun _ => { d with flagged := d.flagged.filter (fun x => x.1 != g), wide := d.wide.filter (· != g) }) = s1)
    (hs2 : (if d.wide.contains g then detect s1 (blankFinding a d 3 g 33) else s1) = s2) (openCols : List Nat) :
    findingLocate s a g openCols = locateRows s s2 a d g rows openCols := by
  have hwork : (rows.isEmpty && !d.wide.contains g) = false := by
    obtain hw | hw := hw
    · rw [List.isEmpty_eq_false_iff.mpr hw, Bool.false_and]
    · rw [hw, Bool.not_true, Bool.and_false]
  unfold findingLocate
  dsimp only
  rw [hd, hrows, hwork, hs, ht, hn, if_neg (by decide), hs1, hs2]
  rfl

section
variable {s : State} {a : DeckAddr} {rows : List Nat} (hr : rows ≠ [])
include hr

theorem locateRows_noTarget (h : targetOf s (logicalDeck a) = none) (s2 : State) (d : Deck) (g : Nat) (openCols : List Nat) :
    locateRows s s2 a d g rows openCols = detect s2 { blankFinding a d 9 g 0xFF with rows := rows } := by
  unfold locateRows
  rw [if_neg (by rwa [List.isEmpty_iff]), h]

theorem locateRows_badTarget {t : Target} (h : targetOf s (logicalDeck a) = some t) (ht : t.poisoned = true ∨ t.complete = false) (s2 : State)
    (d : Deck) (g : Nat) (openCols : List Nat) :
    locateRows s s2 a d g rows openCols = detect s2 { blankFinding a d 9 g 0xFF with rows := rows } := by
  unfold locateRows
  rw [if_neg (by rwa [List.isEmpty_iff]), h]
  exact if_pos (ht.imp_right fun hc => by rw [hc]; rfl)

theorem locateRows_reads {t : Target} (h : targetOf s (logicalDeck a) = some t) (hp : t.poisoned = false) (hc : t.complete = true) {d : Deck} {g : Nat}
    {openCols : List Nat} {r : List ColSeen × Nat}
    (hread : readRows d t g rows ((List.range 36).map fun j => { off := j, rows := [], below := true, broken := openCols.contains j }) = r) {e : Nat}
    (he : readsEnd s a r.2 (s.alm.beat.toNat + 16 * deckT s d) = some e) (hcols : r.1.filter ColSeen.seen ≠ []) (s2 : State) :
    locateRows s s2 a d g rows openCols = assayUntil (forEach (r.1.filter ColSeen.seen) s2 fun v c => detect v (colFinding a d g rows c)) a e := by
  unfold locateRows
  rw [if_neg (by rwa [List.isEmpty_iff]), h]
  dsimp only
  rw [if_neg (by rw [hp, hc]; decide), hread, he]
  dsimp only
  rw [classify]
  dsimp only
  rw [if_neg (by rwa [List.isEmpty_iff])]

end

/-- Settles O40: each clause is one outcome of the work of the Assayer that it names. -/
theorem calibrationAndSweeps : Obligations.CalibrationAndSweeps := by
  refine ⟨⟨fun s t q => ⟨fun h => next_congr (tempRead_inService h q), fun h => next_congr (tempRead_out h q)⟩,
      fun s a e ht hc hn he => next_congr (calibrate_samples rfl ht hc hn he),
      fun s a b cs hp hb hs hu => next_congr (coefficientWrite_writes rfl hp hb hs hu),
      fun s a hp => ⟨fun hg hs hu => next_congr ((coefficientWrite_rewrites hp).trans (rewriteGamma_due hg hs hu)),
        fun hg => next_congr ((coefficientWrite_rewrites hp).trans (rewriteGamma_idle hg))⟩⟩,
    fun s a e ht hc hn he => next_congr (sweepDeck_samples rfl ht hc hn he), fun s k r h => ⟨fun hr => ?_, fun hr => sweptDeck_unknown h hr⟩,
    fun s a g openCols hw hs ht hn => ?_⟩
  · rw [sweptDeck_known h hr]
    exact ⟨rfl, rfl, rfl, rfl, rfl⟩
  · have hl := findingLocate_locates rfl rfl hw hs ht hn rfl rfl openCols
    refine ⟨fun hr => ?_, fun hr hno => next_congr (hl.trans (locateRows_noTarget hr hno ..)), fun t hr hsome =>
      ⟨fun hbad => next_congr (hl.trans (locateRows_badTarget hr hsome hbad ..)), fun hp hc e he hcols =>
        next_congr (hl.trans (locateRows_reads hr hsome hp hc rfl he hcols _))⟩⟩
    exact next_congr (hl.trans (if_pos (List.isEmpty_iff.mpr hr)))

end Sys2Proof.Machine
end

section
/-! PROOFS. The repair ladder (R130 to R134). -/

namespace Sys2Proof.Machine

/-- A repair begins on a finding's deck: a waiting finding is open from then on. -/
def repairBegun (s : State) (f : Finding) (x : Repair) : State :=
  tidyRepair (modDeck (if f.st = stWaiting then setFinding s f stOpen else s) (findingDeck s f) fun d => { d with repair := some x }) (findingDeck s f)

section
variable {s : State} {seq : Nat} {f : Finding} (hf : findingOf s seq = some f)
include hf

theorem beginRung_begins (hr : repairable s f = true) {t : Target} (ht : repairTarget s f = some t) (hn : noRung f = false) {rung : Nat}
    (hrung : f.rung.toNat = rung) (htried : f.tried.contains f.rung.toNat = false) (hrun : hasProgramRun s f.core f.string f.tile = true)
    {start : State → Deck → Finding → Target → Option Repair} {x : Repair} (hx : start s (getDeck s (findingDeck s f)) f t = some x) :
    beginRung s seq rung start = repairBegun s f x := by
  unfold beginRung
  rw [hf]
  dsimp only
  rw [if_neg (by rw [hr]; decide), ht]
  dsimp only
  simp only [hn, Bool.false_eq_true, ↓reduceIte]
  subst hrung
  rw [if_neg (by rw [htried, hrun]; simp), hx]
  rfl

theorem beginRung_noTarget (hr : repairable s f = true) (ht : repairTarget s f = none) (rung : Nat)
    (start : State → Deck → Finding → Target → Option Repair) : beginRung s seq rung start = noTarget s f := by
  unfold beginRung
  rw [hf]
  dsimp only
  rw [if_neg (by rw [hr]; decide), ht]

/-- A finding that may be begun on has no repair that could be done. -/
theorem repairDone_none (hr : repairable s f = true) (rung : Nat) : repairDone s seq rung = none := by
  have hnone : (getDeck s (findingDeck s f)).repair = none := by
    simp only [repairable, Bool.and_eq_true, Option.isNone_iff_eq_none] at hr
    exact hr.2
  unfold repairDone
  rw [hf]
  dsimp only
  rw [hnone]

theorem repairDone_some {r : Repair} (hr : (getDeck s (findingDeck s f)).repair = some r) (hseq : r.seq = seq) (hrows : r.rows = [])
    (hu : updateFits s (findingAddr f) = true) {rung : Nat} (hrung : r.rung = rung) : repairDone s seq rung = some (f, r) := by
  unfold repairDone
  rw [hf]
  dsimp only
  rw [hr]
  exact if_pos ⟨hseq, hrung, hrows, hu⟩

theorem closingSweep_closes (hst : f.st = stOpen) (hrung : f.rung = 1 ∨ f.rung = 2) (htried : f.tried.contains f.rung.toNat = true) {d : Deck}
    (hd : getDeck s (findingDeck s f) = d) (hs : served d = true) (hnone : d.repair = none) (ht : tileServes s (findingAddr f) = true)
    (hn : isNext s (findingAddr f) repairRank = true) {rows : List Nat} (hrows : closingRows s d f = rows) {e : Nat}
    (he : subStrikesEnd s (findingAddr f) false (sweepStrikes d s.free rows) (s.alm.beat.toNat + 16 * deckT s d) = some e) {t : State}
    (hs1 : assayUntil { s with free := s.free + 131072 } (findingAddr f) e = t) :
    closingSweep s seq = if rows.any fun r => rowExceeds d s.free f.group.toNat r 0 then nextRung t f else setFinding t f stRepaired := by
  have hc : closes f = true := by
    rw [closes, hst, htried]
    obtain h | h := hrung <;> rw [h] <;> rfl
  unfold closingSweep
  rw [hf]
  dsimp only
  rw [hd, hc, hs, hnone, ht, hn, if_neg (by decide), hrows, he]
  dsimp only
  rw [hs1]

end

section
variable {s : State} {k : Nat} {r : Repair} {f : Finding} (hf : findingOf s r.seq = some f)
include hf

/-- The findings are not on the deck whose repair ends. -/
theorem finishRepair_eq : finishRepair s k r =
    if r.bad = 0 then modFinding (modDeck s k fun d => { d with repair := none }) f fun x => { x with tried := r.rung :: x.tried }
    else nextRung (modDeck s k fun d => { d with repair := none }) f := by
  have h1 : findingOf (modDeck s k fun d => { d with repair := none }) r.seq = some f := hf
  unfold finishRepair
  dsimp only
  rw [h1]

end

/-- Settles O41: a rung begins where its repair may, ends where its update may be made, and the closing sweep ends the finding. -/
theorem repairRungs : Obligations.RepairRungs := by
  refine ⟨fun s seq f hf hr => ⟨fun t ht hn htried hrun => ⟨fun h1 => ?_, fun i h2 hi => ?_, fun h3 => ?_⟩, fun ht => ⟨?_, ?_, ?_⟩⟩,
    fun s seq f r hf hrep hseq hrows hu => ⟨fun i h2 hi => ?_, fun h3 hb => ?_, fun h3 hb => ?_⟩,
    fun s k r f hf => ⟨fun hb => (finishRepair_eq hf).trans (if_pos hb), fun hb => (finishRepair_eq hf).trans (if_neg hb)⟩,
    fun s seq f e hf hst hrung htried hs hnone ht hn he => next_congr (closingSweep_closes hf hst hrung htried rfl hs hnone ht hn rfl he rfl)⟩
  · exact next_congr (beginRung_begins hf hr ht hn (by rw [h1]; rfl) htried hrun rfl)
  · refine next_congr ?_
    unfold spareSubstitute
    rw [repairDone_none hf hr]
    exact beginRung_begins hf hr ht hn (by rw [h2]; rfl) htried hrun (by dsimp only; rw [hi]; rfl)
  · refine next_congr ?_
    unfold neighbourAdjust
    rw [repairDone_none hf hr]
    exact beginRung_begins hf hr ht hn (by rw [h3]; rfl) htried hrun rfl
  · exact next_congr (beginRung_noTarget hf hr ht ..)
  · refine next_congr ?_
    unfold spareSubstitute
    rw [repairDone_none hf hr]
    exact beginRung_noTarget hf hr ht ..
  · refine next_congr ?_
    unfold neighbourAdjust
    rw [repairDone_none hf hr]
    exact beginRung_noTarget hf hr ht ..
  · refine next_congr ?_
    unfold spareSubstitute
    rw [repairDone_some hf hrep hseq hrows hu h2]
    dsimp only
    rw [hi]
  · refine next_congr ?_
    unfold neighbourAdjust
    rw [repairDone_some hf hrep hseq hrows hu h3]
    exact if_neg (not_not_intro hb)
  · refine next_congr ?_
    unfold neighbourAdjust
    rw [repairDone_some hf hrep hseq hrows hu h3]
    exact if_pos hb

end Sys2Proof.Machine
end

section
/-! PROOFS. Programming of tile-decks (R146 to R152, R174): loops, rows and the journal. -/

namespace Sys2Proof.Machine

/-! ## The steps of a row (R146 to R148) -/

theorem rowStep_over {k b row loop : Nat} {d : Deck} {gs : List CellGoal} (h : pendOf d row gs = [] ∨ 16 < loop) :
    rowStep k b d row loop gs = { deck := { d with run := none }, pulsed := false, ended := true, bad := pendOf d row gs ++ overOf d row gs } :=
  if_pos (h.imp_left List.isEmpty_iff.mpr)

theorem rowStep_pulses {k b row loop : Nat} {d : Deck} {gs : List CellGoal} {pend : List CellGoal} (hp : pendOf d row gs = pend) (h : pend ≠ [])
    (hl : loop ≤ 16) {d1 : Deck}
    (hd : { pulseRow k d row pend with run := some { row := row, loop := loop, start := b, before := cellsBefore d row pend } } = d1) :
    rowStep k b d row loop gs =
      { deck := d1, pulsed := true, ended := (pendOf d1 row gs).isEmpty || decide (16 ≤ loop), bad := pendOf d1 row gs ++ overOf d1 row gs } := by
  subst hp hd
  exact if_neg (not_or.mpr ⟨fun he => h (List.isEmpty_iff.mp he), Nat.not_lt.mpr hl⟩)

/-! ## PROGRAM_DECK, PROGRAM_LOOP and JOURNAL_PULSE -/

section
variable {s : State} {a : DeckAddr} {d : Deck} {p : ProgState} {t : Target} {x : PlanDeck} (hd : getDeck s (deckKey s a) = d) (hp : d.prog = some p)
  (hg : deckGoal s (logicalDeck a) = some (t, x))
include hd hp hg

theorem programDeck_starts (hr : d.progRunning = false) (he : d.erasing = false) (ho : d.outOfService = false) (hj : d.jDone = false)
    (hc : t.complete = true) (hpo : t.poisoned = false) (hpump : pumpReady s a = true) (hbusy : stringBusy s (deckKey s a) = false)
    (hpause : tilePaused s (deckKey s a) = false) :
    programDeck s a = modDeck s (deckKey s a) fun d =>
      { d with progRunning := true, prog := some { p with loop := firstLoop d p.resumed (startRow s (deckKey s a) p) } } := by
  unfold programDeck
  dsimp only
  rw [hd, hp, hg]
  exact if_pos (by rw [hr, he, ho, hj, hc, hpo, hpump, hbusy, hpause]; rfl)

theorem programLoop_programs (hs : programs s a = true) {row : Nat} (hm : marksReady d row = true) (hn : row = nextRow s (deckKey s a) p x.fmt t)
    (hrow : row < 2059 ∨ row = rowLog) (hf : loopFits s a 800 programRank = true) : programLoop s a row = programStep s a p t x row := by
  have horder : (decide (row < doneRow) || row == rowLog) = true := by rwa [Bool.or_eq_true, decide_eq_true_eq, beq_iff_eq]
  unfold programLoop
  dsimp only
  rw [hd, hp, hg]
  exact if_pos (by rw [hs, hm, ← hn, beq_self_eq_true, horder, loopBeats, hf]; rfl)

section
variable (hs : programs s a = true) (hf : loopFits s a 600 programRank = true)
include hs hf

/-- The mark that a journal pulse sets, where the deck's pump and tile are free for it. -/
theorem journalPulse_eq : journalPulse s a =
    if !d.jStart then workFor (modDeck s (deckKey s a) startMark) a pulseBeats
    else if nextRow s (deckKey s a) p x.fmt t = rowLog then s
    else match (List.range 32).find? fun j => !bitOf d.jProgress.toNat j && decide (64 * (j + 1) ≤ nextRow s (deckKey s a) p x.fmt t) with
      | some j => workFor (modDeck s (deckKey s a) (progressMark j)) a pulseBeats
      | none =>
        match d.header with
        | some h => if nextRow s (deckKey s a) p x.fmt t = doneRow then doneMark (workFor s a pulseBeats) a t x h else s
        | none => s := by
  unfold journalPulse
  dsimp only
  rw [hd, hp, hg]
  exact if_neg (by rw [hs, pulseBeats, hf]; decide)

theorem journalPulse_start (hj : d.jStart = false) : journalPulse s a = workFor (modDeck s (deckKey s a) startMark) a pulseBeats := by
  rw [journalPulse_eq hd hp hg hs hf, hj]
  rfl

variable (hj : d.jStart = true) (hn : nextRow s (deckKey s a) p x.fmt t ≠ rowLog)
include hj hn

theorem journalPulse_progress {j : Nat}
    (hfind : ((List.range 32).find? fun j => !bitOf d.jProgress.toNat j && decide (64 * (j + 1) ≤ nextRow s (deckKey s a) p x.fmt t)) = some j) :
    journalPulse s a = workFor (modDeck s (deckKey s a) (progressMark j)) a pulseBeats := by
  rw [journalPulse_eq hd hp hg hs hf, hj, if_neg (by decide), if_neg hn, hfind]

theorem journalPulse_done
    (hfind : ((List.range 32).find? fun j => !bitOf d.jProgress.toNat j && decide (64 * (j + 1) ≤ nextRow s (deckKey s a) p x.fmt t)) = none)
    (hdone : nextRow s (deckKey s a) p x.fmt t = 2059) {h : DeckHeader} (hh : d.header = some h) :
    journalPulse s a = doneMark (workFor s a pulseBeats) a t x h := by
  rw [journalPulse_eq hd hp hg hs hf, hj, if_neg (by decide), if_neg hn, hfind, hh]
  exact if_pos hdone

end
end

/-! ## The loops of a repair (R130, R131) -/

theorem programLoop_repairs {s : State} {a : DeckAddr} {d : Deck} {r : Repair} {row : Nat} {gs : List CellGoal} {rest : List (Nat × List CellGoal)}
    (hd : getDeck s (deckKey s a) = d) (hp : d.prog = none) (hr : d.repair = some r) (hrows : r.rows = (row, gs) :: rest)
    (hf : repairFits s a = true) : programLoop s a row = tidyRepair (repairStep s a r row gs) (deckKey s a) := by
  have hrow : repairRow d = some (r, row, gs) := by rw [repairRow, hr]; dsimp only; rw [hrows]; rfl
  unfold programLoop
  dsimp only
  rw [hd, hp]
  dsimp only
  rw [hrow]
  exact if_pos (by rw [beq_self_eq_true, hf]; rfl)

theorem repairStep_eq {s : State} {a : DeckAddr} {d : Deck} {r r1 : Repair} {row : Nat} {gs : List CellGoal} {rest : List (Nat × List CellGoal)}
    (hd : getDeck s (deckKey s a) = d) (hrows : r.rows = (row, gs) :: rest) {x : RowStep} (hx : rowStep s.free s.alm.beat.toNat d row r.loop gs = x)
    (hr1 : (if x.ended then { r with rows := rest, loop := 1, bad := r.bad + b2n (!x.bad.isEmpty) } else { r with loop := r.loop + 1 }) = r1) {s1 : State}
    (hs1 : workFor { modDeck s (deckKey s a) (fun _ => { x.deck with repair := some r1 }) with free := s.free + 2048 } a (if x.pulsed then 800 else 200) = s1) :
    repairStep s a r row gs = if x.ended && !x.bad.isEmpty then { s1 with asy := { s1.asy with failRows := satAdd s1.asy.failRows 1 } } else s1 := by
  have hrest : r.rows.drop 1 = rest := by rw [hrows]; rfl
  unfold repairStep
  dsimp only
  rw [hd, hx, hrest, hr1, loopBeats, readBeats, hs1]

/-- Settles O42: a pump's deck goes through its rows and marks in their order; a repair's rows go through the same steps. -/
theorem programmingFollowsItsJournal : Obligations.ProgrammingFollowsItsJournal := by
  refine ⟨fun s a p t x hp hg => ⟨fun hr he ho hj hc hpo hpump hbusy hpause =>
      next_congr (programDeck_starts rfl hp hg hr he ho hj hc hpo hpump hbusy hpause),
      fun row hs hm hn hrow hf => next_congr (programLoop_programs rfl hp hg hs hm hn hrow hf), fun hs hf => ⟨fun hj => ?_, fun hj hn => ⟨fun j hfind => ?_,
        fun hfind hdone h hh => ?_⟩⟩⟩,
    fun k b d row loop gs => ⟨fun h => rowStep_over h, fun h hl => rowStep_pulses rfl h hl rfl⟩, fun s a n => rfl,
    fun s a r row gs rest hp hr hrows hf => ?_⟩
  · exact next_congr (journalPulse_start rfl hp hg hs hf hj)
  · exact next_congr (journalPulse_progress rfl hp hg hs hf hj hn hfind)
  · exact next_congr (journalPulse_done rfl hp hg hs hf hj hn hfind hdone hh)
  · exact next_congr ((programLoop_repairs rfl hp hr hrows hf).trans (congrArg (tidyRepair · _) (repairStep_eq rfl hrows rfl rfl rfl)))

end Sys2Proof.Machine
end

section
/-! PROOFS. Erase of tile-decks and the resumption after option loading (R132, R151, R172, R173, R177). -/

namespace Sys2Proof.Machine

/-! ## The erase log (R173) -/

theorem putBoot_decks (s : State) (off : Nat) (bs : List Byte) : (putBoot s off bs).decks = s.decks := rfl

theorem appendErase_decks (s : State) (k cyc : Nat) (map : List (Nat × Nat × Nat)) : (appendErase s k cyc map).decks = s.decks := by
  unfold appendErase
  dsimp only
  rw [bstMod_decks, forEach_keeps State.decks _ (fun _ _ => putBoot_decks ..), forEach_keeps State.decks eraseLogSector (fun _ _ => rfl)]

theorem appendErase_last (s : State) (k cyc : Nat) (map : List (Nat × Nat × Nat)) :
    (appendErase s k cyc map).bst.eraseLog.getLast? =
      some { slots := slotsFor s.bst.eraseLog map, deck := k, cycles := cyc, map := map, committed := false } := by
  unfold appendErase
  exact List.getLast?_concat

theorem commitErase_commits {s : State} {k : Nat} {e : EraseEnt} (he : e ∈ (commitErase s k).bst.eraseLog) (hk : e.deck = k) : e.committed = true := by
  unfold commitErase at he
  obtain ⟨e0, -, rfl⟩ := List.mem_map.mp he
  revert hk
  split
  · exact fun _ => rfl
  · intro hk; contradiction

/-! ## DECK_ERASE (R151, R172) -/

section
variable {s : State} {a : DeckAddr} {d : Deck} (hd : getDeck s (deckKey s a) = d) (he : d.erasing = true) (hf : eraseFits s a = true)
include hd he hf

theorem deckErase_eq : deckErase s a =
    if !d.progRunning then
      let again := eraseLogged s (deckKey s a)
      let cyc := if again then ((lastErase s.bst.eraseLog (deckKey s a)).map EraseEnt.cycles).getD d.cycles else d.cycles + 1
      if !again && !logRoom s.bst.eraseLog (mapToSave s (deckKey s a)) then s
      else
        let s1 := if again then s else appendErase s (deckKey s a) cyc (mapToSave s (deckKey s a))
        beginErase (modDeck s1 (deckKey s a) fun d => { d with cycles := cyc, reg := { d.reg with cycles := cyc } }) a {}
    else match d.prog with
      | some p => if p.looping then s else beginErase s a p
      | none => s := by
  unfold deckErase
  dsimp only
  rw [hd]
  exact if_neg (by rw [he, hf]; decide)

theorem deckErase_first (hr : d.progRunning = false) (hl : eraseLogged s (deckKey s a) = false)
    (hroom : logRoom s.bst.eraseLog (mapToSave s (deckKey s a)) = true) :
    deckErase s a = beginErase (modDeck (appendErase s (deckKey s a) (d.cycles + 1) (mapToSave s (deckKey s a))) (deckKey s a) fun x =>
      { x with cycles := d.cycles + 1, reg := { x.reg with cycles := d.cycles + 1 } }) a {} := by
  rw [deckErase_eq hd he hf, if_pos (by rw [hr]; decide), hl, hroom]
  rfl

theorem deckErase_again (hr : d.progRunning = false) (hl : eraseLogged s (deckKey s a) = true) {e : EraseEnt}
    (hlast : lastErase s.bst.eraseLog (deckKey s a) = some e) :
    deckErase s a = beginErase (modDeck s (deckKey s a) fun x => { x with cycles := e.cycles, reg := { x.reg with cycles := e.cycles } }) a {} := by
  rw [deckErase_eq hd he hf, if_pos (by rw [hr]; decide), hl, hlast]
  rfl

theorem deckErase_between (hr : d.progRunning = true) {p : ProgState} (hp : d.prog = some p) :
    deckErase s a = if p.looping then s else beginErase s a p := by
  rw [deckErase_eq hd he hf, if_neg (by rw [hr]; decide), hp]

end

/-! ## ERASE_LOOP (R151) -/

section
variable {s : State} {a : DeckAddr} {d : Deck} {p : ProgState} (hd : getDeck s (deckKey s a) = d) (hp : d.prog = some p) (he : d.erasing = true)
  (hr : d.progRunning = true) (hl : p.looping = true) (hw : (getTile s (deckKey s a / 4)).workEnd ≤ s.alm.beat.toNat)
include hd hp he hr hl hw

theorem eraseLoop_eq (verified : Bool) : eraseLoop s a verified =
    if verified then eraseDone s a
    else if p.eraseLoops + 1 < 10 then
      let q := { p with eraseLoops := p.eraseLoops + 1, looping := false }
      let s1 := modDeck s (deckKey s a) fun d => { d with prog := some q }
      if eraseFits s1 a then beginErase s1 a q else s1
    else eraseFailed s a := by
  unfold eraseLoop
  dsimp only
  rw [hd, hp]
  exact if_neg (by rw [he, hr, hl, decide_eq_false (Nat.not_lt.mpr hw)]; decide)

theorem eraseLoop_verified : eraseLoop s a true = eraseDone s a := eraseLoop_eq hd hp he hr hl hw true

theorem eraseLoop_another (hn : p.eraseLoops < 9) {q : ProgState} (hq : { p with eraseLoops := p.eraseLoops + 1, looping := false } = q) {s1 : State}
    (hs1 : (modDeck s (deckKey s a) fun d => { d with prog := some q }) = s1) :
    eraseLoop s a false = if eraseFits s1 a then beginErase s1 a q else s1 := by
  subst hq hs1
  rw [eraseLoop_eq hd hp he hr hl hw, if_neg Bool.false_ne_true, if_pos (by omega)]

theorem eraseLoop_tenth (hn : 9 ≤ p.eraseLoops) : eraseLoop s a false = eraseFailed s a := by
  rw [eraseLoop_eq hd hp he hr hl hw, if_neg Bool.false_ne_true, if_neg (by omega)]

end

/-! ## A deck as a verified erase leaves it (R132, R172) -/

theorem key_of_mem_sput {V : Type} {m : Sparse V} {a : Nat} {v : V} {e : Nat × V} (h : e ∈ sput m a v) : e.1 = a ∨ e ∈ m := by
  induction m with
  | nil => exact .inl (congrArg Prod.fst (List.mem_singleton.mp h))
  | cons x m ih =>
    obtain ⟨k, w⟩ := x
    unfold sput at h
    split at h
    · obtain rfl | h := List.mem_cons.mp h
      · exact .inl rfl
      · exact .inr (List.mem_cons_of_mem _ h)
    · split at h
      · obtain rfl | h := List.mem_cons.mp h
        · exact .inl rfl
        · exact .inr h
      · obtain rfl | h := List.mem_cons.mp h
        · exact .inr List.mem_cons_self
        · exact (ih h).imp_right (List.mem_cons_of_mem _)

theorem key_of_mem_smod {V : Type} [DecidableEq V] {d : V} {m : Sparse V} {a : Nat} {f : V → V} {e : Nat × V} (h : e ∈ smod d m a f) :
    e.1 = a ∨ e ∈ m := by
  unfold smod sset at h
  split at h
  · exact .inr ((List.mem_filter.mp h).1)
  · exact key_of_mem_sput h

/-- The cells that bits of a row raise are cells of that row. -/
theorem key_of_mem_raiseCells {d : Deck} {row c : Nat} {bs : List Bool} {e : Nat × Nat} (h : e ∈ (raiseCells d row c bs).cells) :
    (∃ i < bs.length, e.1 = row * 1152 + c + i) ∨ e ∈ d.cells := by
  have hfold (l : List (Bool × Nat)) (hl : ∀ x ∈ l, x.2 < bs.length) (m : Sparse Nat)
      (he : e ∈ l.foldl (fun m x => if x.1 then smod 0 m (row * 1152 + c + x.2) (max gUnit) else m) m) :
      (∃ i < bs.length, e.1 = row * 1152 + c + i) ∨ e ∈ m := by
    induction l generalizing m with
    | nil => exact .inr he
    | cons x l ih =>
      obtain ⟨hx, hl⟩ := List.forall_mem_cons.mp hl
      obtain hi | hm := ih hl _ he
      · exact .inl hi
      · dsimp only at hm
        split at hm
        · exact (key_of_mem_smod hm).imp_left fun hk => ⟨x.2, hx, hk⟩
        · exact .inr hm
  refine hfold bs.zipIdx (fun x hx => ?_) _ h
  have := List.mem_zipIdx hx
  omega

theorem length_leBytes (n v : Nat) : (leBytes n v).length = n := by
  induction n generalizing v with
  | zero => rfl
  | succ n ih => rw [leBytes, List.length_cons, ih]

theorem length_headerBytes (h : DeckHeader) : (headerBytes h).length = 136 := by
  simp only [headerBytes, List.length_append, length_leBytes, List.length_singleton, List.length_take, List.length_replicate]
  omega

theorem length_rowBits {p : List Byte} (hp : p.length = 136) : (rowBits p).length = 1152 := by
  have hbits (l : List Byte) : (l.flatMap fun b => numBits 8 b.toNat).length = 8 * l.length := by
    induction l with
    | nil => rfl
    | cons b l ih => rw [List.flatMap_cons, List.length_append, ih, numBits, List.length_map, List.length_range, List.length_cons]; omega
  rw [rowBits, hbits, List.length_append, hp, checkBytes, List.length_take, List.length_append, List.length_replicate]
  omega

/-- Only the header's row has cells with digits: the deck is erased. -/
theorem deckErased_erasedDeck (placed : Bool) (d : Deck) : deckErased (erasedDeck placed d) = true := by
  have hcells : ∀ e ∈ (erasedDeck placed d).cells, e.1 / 1152 = rowS0 := fun e he => by
    obtain ⟨i, hi, hk⟩ | hnil := key_of_mem_raiseCells he
    · rw [length_rowBits (length_headerBytes _)] at hi
      rw [hk, rowS0]
      omega
    · exact absurd hnil List.not_mem_nil
  have hall : ((erasedDeck placed d).cells.all fun e => e.1 / 1152 == rowS0) = true :=
    List.all_eq_true.mpr fun e he => beq_iff_eq.mpr (hcells e he)
  have hhead : (erasedDeck placed d).header = some (erasedHeader d) := rfl
  have hstart : (erasedDeck placed d).jStart = false := rfl
  rw [deckErased, hall, hhead, hstart]
  rfl

theorem erasedDeck_record (placed : Bool) (d : Deck) :
    (erasedDeck placed d).header = some (erasedHeader d) ∧ (erasedDeck placed d).cycles = d.cycles ∧ (erasedDeck placed d).spareLog = [] ∧
      (erasedDeck placed d).slots = [] ∧ (erasedDeck placed d).jStart = false ∧ (erasedDeck placed d).jDone = false ∧
      (erasedDeck placed d).reg.spareMap = d.reg.spareMap := by
  unfold erasedDeck raiseCells
  exact ⟨rfl, rfl, rfl, rfl, rfl, rfl, rfl⟩

/-! ## Resumption (R177) -/

section
variable {s : State} {k : Nat} (hb : deckBusy (getDeck s k) = false)
include hb

theorem resumeDeck_logged (hl : eraseLogged s k = true) : resumeDeck s k = queueErase s k :=
  (if_neg (ne_true_of_eq_false hb)).trans (if_pos hl)

theorem resumeDeck_partial (hl : eraseLogged s k = false) (hp : deckPartial (getDeck s k) = true) {lg : Nat} (hlg : logicalOfPhys s k = some lg) {t : Target}
    (ht : targetOf s lg = some t) (hc : t.complete = true) (hpo : t.poisoned = false) :
    resumeDeck s k = modDeck s k fun d => { d with prog := some { row := firstRow d, loop := firstLoop d true (firstRow d), resumed := true } } := by
  refine ((if_neg (ne_true_of_eq_false hb)).trans (if_neg (ne_true_of_eq_false hl))).trans ((if_pos hp).trans ?_)
  rw [hlg]
  dsimp only
  rw [ht]
  exact if_pos ⟨hc, by rw [hpo]; rfl⟩

end

/-- Settles O43: an erase goes by whether it is logged and by its loops; a deck's resumption by the log and its journal. -/
theorem erasesAndResumption : Obligations.ErasesAndResumption := by
  refine ⟨fun s a he hf => ⟨fun hr => ⟨fun hl hroom => ?_, fun e hl hlast => ?_⟩, fun p hr hp => ?_⟩, fun s a p => rfl,
    fun s k cyc map => ⟨appendErase_decks .., _, appendErase_last ..⟩, fun s a p hp he hr hl hw => ⟨?_, fun hn => ?_, fun hn => ?_⟩,
    fun s k e he hk => commitErase_commits he hk, fun placed d => ?_,
    fun s hr => next_congr (if_neg (ne_true_of_eq_false hr)),
    fun s k hb => ⟨resumeDeck_logged hb, fun lg t hl hp hlg ht hc hpo => resumeDeck_partial hb hl hp hlg ht hc hpo⟩⟩
  · exact next_congr (deckErase_first rfl he hf hr hl hroom)
  · exact next_congr (deckErase_again rfl he hf hr hl hlast)
  · exact next_congr (deckErase_between rfl he hf hr hp)
  · exact next_congr (eraseLoop_verified rfl hp he hr hl hw)
  · exact next_congr (eraseLoop_another rfl hp he hr hl hw hn rfl rfl)
  · exact next_congr (eraseLoop_tenth rfl hp he hr hl hw hn)
  · obtain ⟨hh, hc, hlog, hslots, hs, hd, hm⟩ := erasedDeck_record placed d
    exact ⟨hh, hc, hlog, hslots, hs, hd, hm, deckErased_erasedDeck placed d⟩

end Sys2Proof.Machine
end
